-- ==== Sys2Proof/Word.lean ====
section
/-! DEFINITION. The word types of the part (R3, R5): bytes, 32-bit words, 64-bit doublewords, the 32 lanes of a vector
register, and a finite map kept as a list in one canonical form. -/

namespace Sys2Proof

/-- A byte, the smallest addressable unit (R3). -/
abbrev Byte := BitVec 8

/-- A 32-bit word: an instruction, a lane of a vector register, a mask (R5, R86). -/
abbrev Word := BitVec 32

/-- A 64-bit doubleword: a g register, an address, a pair (R5). -/
abbrev DWord := BitVec 64

/-- A vector register: one word for each of the 32 lanes of a group (R5, R234). -/
abbrev Lanes := Vector Word 32

/-- A finite map from numbers: pairs with strictly rising keys. The operations are in Machine/Map.lean. -/
abbrev Map (α : Type) := List (Nat × α)

end Sys2Proof
end

