-- ==== Sys2Proof/Config.lean ====
section
/-! DEFINITION. What an implementation fixes, and the free values: opaque constants that no proof can see into. -/

namespace Sys2Proof.Config

/-- The delivered significand choice of a transcendental function (R53): a function number, the operand bits, and the
result bits the part delivers when they lie within the bound. Free value (DESIGN CHOICE, log entry 7). -/
opaque transcendental : Nat → Word → Word

/-- SHAKE256 with a 32-byte output (R489, R490), which the spec names and does not define. Log entry 8. -/
opaque shake256 : List Byte → BitVec 256

/-- The XMSS-SHAKE_20_512 verification of R488: public key kind, signed bytes, signature. Log entry 8. -/
opaque xmssVerify : Nat → List Byte → List Byte → Bool

/-- A signature by the device key with an index: 9,732 bytes read by position (R489, R490). Log entry 8. -/
opaque xmssSign : Nat → List Byte → Nat → Byte

/-- The device's 128-byte XMSS public key, by position (R489). Log entry 8. -/
opaque devicePublicKey : Nat → Byte

/-- What a configuration image of a body digest records, whose body layout the spec does not give (R26, R488, R489): the units to
fence, as FENCEMAP and share bits, the minimum version of a KIND, and the XMSS index. Log entry 29. -/
opaque imageFence : BitVec 256 → BitVec 256

/-- The shares that a configuration image fences. Log entry 29. -/
opaque imageShares : BitVec 256 → BitVec 4096

/-- The minimum version of a KIND in a configuration image. Log entry 29. -/
opaque imageMinimum : BitVec 256 → Nat → Nat

/-- The XMSS index in a configuration image. Log entry 29. -/
opaque imageIndex : BitVec 256 → Nat

/-- The failed colours and comb sources that a configuration image records, by bits and by numbers (R25). Log entry 29. -/
opaque imageColours : BitVec 256 → BitVec 128

/-- The failed comb sources. Log entry 29. -/
opaque imageSources : BitVec 256 → List Nat

/-- The body digest of the configuration image that firmware signs under an index (R27, R489). Log entry 29. -/
opaque signedImage : Nat → BitVec 256

/-- The device number of the scale-up domain, from the configuration image (R456). -/
opaque deviceNumber : BitVec 6

/-- The port among a mask's ports that the hash of R457 selects for a granule, as an index below the count. Log entry 9. -/
opaque portHash : Nat → Nat

/-- A free value by number (DESIGN CHOICE, log entry 4). -/
opaque freeValue : Nat → DWord

/-- Whether a core's L1 drops a line in a master cycle: the cycle's number, the core, the line. Free value (DESIGN CHOICE, log entry 14). -/
opaque evicts : Nat → Nat → Nat → Bool

/-- Whether an event that has nothing left to wait for takes place in a master cycle: the cycle's number and the event's place among
those of that cycle. The spec gives such an event no time. Free value (DESIGN CHOICE, log entry 1). -/
opaque happens : Nat → Nat → Bool

end Sys2Proof.Config
end

