-- ==== Sys2Proof/Machine/Bits.lean ====
section
/-! DEFINITION. Bit counting, lane sets and the vector-register helpers the meanings share. -/

namespace Sys2Proof.Bits

/-- The number of one bits among the low n bits. -/
def popcountUpTo {w : Nat} (x : BitVec w) (n : Nat) : Nat :=
  match n with
  | 0 => 0
  | n + 1 => popcountUpTo x n + (x.getLsbD n).toNat

/-- The number of one bits. -/
def popcount {w : Nat} (x : BitVec w) : Nat := popcountUpTo x w

/-- The lowest one bit at or above position i, searching n positions. -/
def lowestFrom {w : Nat} (x : BitVec w) (i n : Nat) : Option Nat :=
  match n with
  | 0 => none
  | n + 1 => if x.getLsbD i then some i else lowestFrom x (i + 1) n

/-- The lowest one bit; 0 of zero. -/
def lowest {w : Nat} (x : BitVec w) : Nat := (lowestFrom x 0 w).getD 0

/-- The number of leading zeros; the width of zero. -/
def clz {w : Nat} (x : BitVec w) : Nat :=
  match (List.range w).find? (fun k => x.getLsbD (w - 1 - k)) with
  | some k => k
  | none => w

/-- The bits in reverse order. -/
def reverse {w : Nat} (x : BitVec w) : BitVec w := x.reverse

/-- The lanes of a mask, ascending. -/
def lanes (m : Word) : List Nat := (List.range 32).filter fun l => m.getLsbD l

/-- The mask of a list of lanes. -/
def maskOf (ls : List Nat) : Word := ls.foldl (fun m l => m ||| BitVec.twoPow 32 l) 0

/-- A mask from a test of each lane. -/
def maskBy (p : Nat → Bool) : Word := maskOf ((List.range 32).filter p)

/-- Read position i of a vector, or d beyond its end. -/
def rd {α : Type} {n : Nat} (xs : Vector α n) (i : Nat) (d : α) : α := if h : i < n then xs[i] else d

/-- Write position i of a vector; beyond its end nothing changes. -/
def wr {α : Type} {n : Nat} (xs : Vector α n) (i : Nat) (a : α) : Vector α n := xs.setIfInBounds i a

/-- A lane of a vector register. -/
def lane (x : Lanes) (l : Nat) : Word := rd x l 0

/-- The vector register whose lane l is f l. -/
def tab (f : Nat → Word) : Lanes := Vector.ofFn fun l => f l.val

/-- The lanes of `new` where `active` is set, those of `old` elsewhere (R7, R239). -/
def merge (active : Word) (old new : Lanes) : Lanes := tab fun l => if active.getLsbD l then lane new l else lane old l

/-- Bytes of a vector register, lane 0 first (R236). -/
def laneBytes (x : Lanes) : List Byte :=
  (List.range 32).flatMap fun l => (List.range 4).map fun k => (lane x l).extractLsb' (8 * k) 8

/-- `k n`, with `n` evaluated first: a chain of such calls keeps no unevaluated number. -/
def strict {α : Type} (n : Nat) (k : Nat → α) : α :=
  match n with
  | 0 => k 0
  | m + 1 => k (m + 1)

/-- One bit of a CRC of w bits: shift left, and the polynomial where the bit that leaves differs from the input bit. -/
def crcBit (w poly c bit : Nat) : Nat :=
  if c / 2 ^ (w - 1) % 2 = bit then c * 2 % 2 ^ w else (c * 2 % 2 ^ w) ^^^ poly

/-- The CRC over the low n bits of a byte, most significant bit first. -/
def crcByte (w poly b n c : Nat) : Nat :=
  match n with
  | 0 => c
  | n + 1 => strict (crcBit w poly c (b / 2 ^ n % 2)) fun c => crcByte w poly b n c

/-- The CRC over a byte string from a value. -/
def crcBytes (w poly : Nat) (bs : List Byte) (c : Nat) : Nat :=
  match bs with
  | [] => c
  | b :: rest => strict (crcByte w poly b.toNat 8 c) fun c => crcBytes w poly rest c

/-- The CRC of w bits over bytes, most significant bit first, with a polynomial and an initial value (R236, R386, R448). -/
def crc {w : Nat} (poly init : BitVec w) (bs : List Byte) : BitVec w := BitVec.ofNat w (crcBytes w poly.toNat bs init.toNat)

end Sys2Proof.Bits
end

