-- ==== Sys2Proof/Machine/Flags.lean ====
section
/-! DEFINITION. The sticky floating-point flags (R46) and the relations of the integer compares (R261, R272). -/

namespace Sys2Proof.Machine

/-- A set of sticky flags: NV, DZ, OF, UF, NX in bits 4 to 0 (R46). -/
abbrev FlagSet := BitVec 5

namespace FlagSet

/-- Invalid operation. -/
def nv : FlagSet := 16
/-- Division by zero. -/
def dz : FlagSet := 8
/-- Overflow, which comes with inexact. -/
def ofnx : FlagSet := 5
/-- Overflow alone: an infinity converted to a format without one (R44). -/
def of_ : FlagSet := 4
/-- Underflow, which comes with inexact. -/
def ufnx : FlagSet := 3
/-- Inexact. -/
def nx : FlagSet := 1

end FlagSet

/-- NV when a condition holds. -/
def nvIf (b : Bool) : FlagSet := if b then FlagSet.nv else 0

/-- The integer relations (R261, R272). -/
inductive Rel where
  | eq | ne | ltS | leS | gtS | geS | ltZ | leZ | gtZ | geZ
  deriving DecidableEq, Repr

/-- A relation between two values of one width, signed or unsigned. -/
def Rel.holds {w : Nat} (r : Rel) (x y : BitVec w) : Bool :=
  match r with
  | .eq => x == y
  | .ne => x != y
  | .ltS => x.slt y
  | .leS => x.sle y
  | .gtS => y.slt x
  | .geS => y.sle x
  | .ltZ => x.ult y
  | .leZ => x.ule y
  | .gtZ => y.ult x
  | .geZ => y.ule x

end Sys2Proof.Machine
end

