-- ==== Sys2Proof/Machine/Float.lean ====
section
/-! DEFINITION. Floating point over exact numbers: the IEEE formats (R29 to R32), the narrow formats and nested blocks
(R33 to R45), comparison, and the transcendental functions (R53, R54). -/

namespace Sys2Proof.Machine

/-- A binary format: exponent and fraction bits (R29). -/
structure Fmt where
  eb : Nat
  fb : Nat
  deriving DecidableEq, Repr

/-- FP64, FP32, FP16, BF16 (R29). -/
def fp64 : Fmt := ⟨11, 52⟩
/-- FP32. -/
def fp32 : Fmt := ⟨8, 23⟩
/-- FP16. -/
def fp16 : Fmt := ⟨5, 10⟩
/-- BF16. -/
def bf16 : Fmt := ⟨8, 7⟩

/-- The exponent bias. -/
def Fmt.bias (f : Fmt) : Int := 2 ^ (f.eb - 1) - 1

/-- The exponent of the smallest normal value. -/
def Fmt.emin (f : Fmt) : Int := 1 - f.bias

/-- The sign bit's weight. -/
def Fmt.signBit (f : Fmt) : Nat := 2 ^ (f.eb + f.fb)

/-- The bits of +infinity. -/
def Fmt.infBits (f : Fmt) : Nat := (2 ^ f.eb - 1) * 2 ^ f.fb

/-- The canonical NaN (R29, R31). -/
def Fmt.nanBits (f : Fmt) : Nat := f.infBits + 2 ^ (f.fb - 1)

/-- A value: a NaN, an infinity, or (−1)^neg × m × 2^e exactly; a zero keeps its sign. -/
inductive Num where
  | nan (signalling : Bool)
  | inf (neg : Bool)
  | fin (neg : Bool) (m : Nat) (e : Int)
  deriving DecidableEq, Repr

/-- The value of the bits of a format (R29). -/
def Fmt.unpack (f : Fmt) (x : Nat) : Num :=
  let neg := x / f.signBit % 2 == 1
  let ex := x / 2 ^ f.fb % 2 ^ f.eb
  let fr := x % 2 ^ f.fb
  if ex = 2 ^ f.eb - 1 then
    if fr = 0 then .inf neg else .nan (fr / 2 ^ (f.fb - 1) == 0)
  else if ex = 0 then .fin neg fr (f.emin - f.fb)
  else .fin neg (fr + 2 ^ f.fb) (f.emin - f.fb + (ex - 1))

/-- The sign bit of a format, set or clear. -/
def Fmt.sign (f : Fmt) (neg : Bool) : Nat := if neg then f.signBit else 0

/-- m × 2^e in units of 2^q, rounded to nearest, ties to even, and whether it was inexact (R30). -/
def roundAt (m : Nat) (e q : Int) : Nat × Bool :=
  if q ≤ e then (m * 2 ^ (e - q).toNat, false)
  else
    let s := (q - e).toNat
    let n := m / 2 ^ s
    let r := m % 2 ^ s
    let up := 2 ^ s < 2 * r || (2 * r == 2 ^ s && n % 2 == 1)
    (if up then n + 1 else n, r != 0)

/-- The exponent of the leading bit of m × 2^e, m > 0. -/
def topOf (m : Nat) (e : Int) : Int := e + Nat.log2 m

/-- Round an exact value to a format (R30), with the flags of the rounding: tininess is detected after rounding (R46, R47). -/
def Fmt.round (f : Fmt) (neg : Bool) (m : Nat) (e : Int) : Nat × FlagSet :=
  if m = 0 then (f.sign neg, 0)
  else
    let top := topOf m e
    let q := max top f.emin - f.fb
    let r := roundAt m e q
    let u := roundAt m e (top - f.fb)
    let tiny := decide (topOf u.1 (top - f.fb) < f.emin)
    let bits := ((q + f.fb - f.emin).toNat + 1) * 2 ^ f.fb + r.1 - 2 ^ f.fb
    if f.infBits ≤ bits then (f.sign neg + f.infBits, FlagSet.ofnx)
    else (f.sign neg + bits, if r.2 then if tiny then FlagSet.ufnx else FlagSet.nx else 0)

/-- The bits of a value that needs no more than one rounding; NaN is canonical (R31). -/
def Fmt.pack (f : Fmt) (x : Num) : Nat × FlagSet :=
  match x with
  | .nan _ => (f.nanBits, 0)
  | .inf neg => (f.sign neg + f.infBits, 0)
  | .fin neg m e => f.round neg m e

/-- A value is a signalling NaN. -/
def Num.snan (x : Num) : Bool :=
  match x with
  | .nan s => s
  | _ => false

/-- A value is a NaN. -/
def Num.isNan (x : Num) : Bool :=
  match x with
  | .nan _ => true
  | _ => false

/-- Negation; a NaN stays. -/
def Num.neg (x : Num) : Num :=
  match x with
  | .nan s => .nan s
  | .inf n => .inf (!n)
  | .fin n m e => .fin (!n) m e

/-- The signed coefficient of a finite value in units of 2^q, q not above its exponent. -/
def scaled (neg : Bool) (m : Nat) (e q : Int) : Int :=
  let k : Int := m * 2 ^ (e - q).toNat
  if neg then -k else k

/-- A value is zero. -/
def Num.isZero (x : Num) : Bool :=
  match x with
  | .fin _ m _ => m == 0
  | _ => false

/-- The exact sum, with the zero signs of R280, and its invalid flag. -/
def Num.add (x y : Num) : Num × FlagSet :=
  let s := nvIf (x.snan || y.snan)
  match x, y with
  | .nan _, _ => (.nan false, s)
  | _, .nan _ => (.nan false, s)
  | .inf a, .inf b => if a = b then (.inf a, 0) else (.nan false, FlagSet.nv)
  | .inf a, _ => (.inf a, 0)
  | _, .inf b => (.inf b, 0)
  | .fin a m e, .fin b n g =>
    let q := min e g
    let t := scaled a m e q + scaled b n g q
    if t = 0 then (.fin (a && b) 0 q, 0) else (.fin (decide (t < 0)) t.natAbs q, 0)

/-- The exact product and its invalid flag. -/
def Num.mul (x y : Num) : Num × FlagSet :=
  let s := nvIf (x.snan || y.snan)
  match x, y with
  | .nan _, _ => (.nan false, s)
  | _, .nan _ => (.nan false, s)
  | .inf a, .inf b => (.inf (a != b), 0)
  | .inf a, .fin b n _ => if n = 0 then (.nan false, FlagSet.nv) else (.inf (a != b), 0)
  | .fin a m _, .inf b => if m = 0 then (.nan false, FlagSet.nv) else (.inf (a != b), 0)
  | .fin a m e, .fin b n g => (.fin (a != b) (m * n) (e + g), 0)

/-- The exact a × b + c and its invalid flag (R282): zero times infinity is invalid even when c is a quiet NaN. -/
def Num.fma (x y z : Num) : Num × FlagSet :=
  let p := x.mul y
  let r := p.1.add z
  (r.1, p.2 ||| r.2 ||| nvIf z.snan)

/-- x < y for two numbers that are not NaN, −0 equal to +0. -/
def Num.lt (x y : Num) : Bool :=
  match x, y with
  | .nan _, _ => false
  | _, .nan _ => false
  | .inf a, .inf b => a && !b
  | .inf a, _ => a
  | _, .inf b => !b
  | .fin a m e, .fin b n g => let q := min e g; decide (scaled a m e q < scaled b n g q)

/-- A value's sign. -/
def Num.isNeg (x : Num) : Bool :=
  match x with
  | .nan _ => false
  | .inf a => a
  | .fin a _ _ => a

/-- Arithmetic in a format on bits: unpack, operate, round (R280). -/
def Fmt.op2 (f : Fmt) (g : Num → Num → Num × FlagSet) (x y : Nat) : Nat × FlagSet :=
  let r := g (f.unpack x) (f.unpack y)
  let p := f.pack r.1
  (p.1, r.2 ||| p.2)

/-- rne(a + b). -/
def Fmt.add (f : Fmt) (x y : Nat) : Nat × FlagSet := f.op2 Num.add x y
/-- rne(a − b). -/
def Fmt.sub (f : Fmt) (x y : Nat) : Nat × FlagSet := f.op2 (fun a b => a.add b.neg) x y
/-- rne(a × b). -/
def Fmt.mul (f : Fmt) (x y : Nat) : Nat × FlagSet := f.op2 Num.mul x y

/-- rne of the fused sum, with the product or the addend negated (R282). -/
def Fmt.fma (f : Fmt) (negProduct negAddend : Bool) (x y z : Nat) : Nat × FlagSet :=
  let a := f.unpack x
  let a := if negProduct then a.neg else a
  let c := f.unpack z
  let c := if negAddend then c.neg else c
  let r := a.fma (f.unpack y) c
  let p := f.pack r.1
  (p.1, r.2 ||| p.2)

/-- min or max of R281: a number beats a NaN, −0 lies below +0, bits unchanged. -/
def Fmt.minMax (f : Fmt) (isMax : Bool) (x y : Nat) : Nat × FlagSet :=
  let a := f.unpack x
  let b := f.unpack y
  let nv := nvIf (a.snan || b.snan)
  if a.isNan then if b.isNan then (f.nanBits, nv) else (y, nv)
  else if b.isNan then (x, nv)
  else
    let less := a.lt b || (!(b.lt a) && a.isNeg && !b.isNeg)
    (if less != isMax then x else y, 0)

/-- Clear or invert the sign; a NaN gives the canonical NaN (R281, R31). -/
def Fmt.signOp (f : Fmt) (negate : Bool) (x : Nat) : Nat × FlagSet :=
  let a := f.unpack x
  if a.isNan then (f.nanBits, nvIf a.snan)
  else
    let mag := x % f.signBit
    (f.sign (negate && !a.isNeg) + mag, 0)

/-- The floating-point predicates (R283). -/
inductive FRel where
  | eq | ne | lt | le | gt | ge | nan
  deriving DecidableEq, Repr

/-- A predicate and its invalid flag (R283). -/
def Fmt.compare (f : Fmt) (r : FRel) (x y : Nat) : Bool × FlagSet :=
  let a := f.unpack x
  let b := f.unpack y
  let un := a.isNan || b.isNan
  let quiet := nvIf (a.snan || b.snan)
  match r with
  | .eq => (!un && !a.lt b && !b.lt a, quiet)
  | .ne => (un || a.lt b || b.lt a, quiet)
  | .lt => (a.lt b, nvIf un)
  | .le => (!un && !b.lt a, nvIf un)
  | .gt => (b.lt a, nvIf un)
  | .ge => (!un && !a.lt b, nvIf un)
  | .nan => (un, quiet)

/-- Two elements of a packed word (R278). -/
def packed (g : Nat → Nat → Nat × FlagSet) (x y : Word) : Word × FlagSet :=
  let lo := g (x.toNat % 65536) (y.toNat % 65536)
  let hi := g (x.toNat / 65536) (y.toNat / 65536)
  (BitVec.ofNat 32 (lo.1 + 65536 * hi.1), lo.2 ||| hi.2)

/-- Convert bits of one format to another, rounding once (R286). -/
def Fmt.convert (f g : Fmt) (x : Nat) : Nat × FlagSet :=
  let a := f.unpack x
  let p := g.pack a
  (p.1, p.2 ||| nvIf a.snan)

/-- Convert an integer to a format (R286). -/
def Fmt.ofInt (f : Fmt) (i : Int) : Nat × FlagSet := f.round (decide (i < 0)) i.natAbs 0

/-- Convert to a 32-bit integer, signed or unsigned, to nearest even or toward zero (R32). -/
def Fmt.toInt32 (f : Fmt) (signed toZero : Bool) (x : Nat) : Word × FlagSet :=
  let lo : Int := if signed then -(2 ^ 31) else 0
  let hi : Int := if signed then 2 ^ 31 - 1 else 2 ^ 32 - 1
  match f.unpack x with
  | .nan _ => (0, FlagSet.nv)
  | .inf neg => (BitVec.ofInt 32 (if neg then lo else hi), FlagSet.nv)
  | .fin neg m e =>
    let r := roundAt m e 0
    let n := if toZero then (if 0 ≤ e then m * 2 ^ e.toNat else m / 2 ^ (-e).toNat) else r.1
    let v : Int := if neg then -(n : Int) else n
    if v < lo then (BitVec.ofInt 32 lo, FlagSet.nv)
    else if hi < v then (BitVec.ofInt 32 hi, FlagSet.nv)
    else (BitVec.ofInt 32 v, if r.2 then FlagSet.nx else 0)

/-! ### Narrow formats (R33 to R45) -/

/-- The narrow block formats (R33, R34). -/
inductive Narrow where
  | f8 | f8w | f6 | f4 | ts8
  deriving DecidableEq, Repr

/-- The narrow format of an FMT code (R41). -/
def Narrow.ofCode (c : Nat) : Option Narrow :=
  match c with
  | 2 => some .f8
  | 3 => some .f8w
  | 4 => some .f6
  | 5 => some .f4
  | 6 => some .ts8
  | _ => none

/-- Exponent and fraction bits of the four small floating-point formats; TS8 has none. -/
def Narrow.fmt (n : Narrow) : Fmt :=
  match n with
  | .f8 => ⟨4, 3⟩
  | .f8w => ⟨5, 2⟩
  | .f6 => ⟨3, 2⟩
  | .f4 => ⟨2, 1⟩
  | .ts8 => ⟨0, 0⟩

/-- Bits of an element (R41). -/
def Narrow.bits (n : Narrow) : Nat :=
  match n with
  | .f6 => 6
  | .f4 => 4
  | _ => 8

/-- One term of a TS8 byte in units of 2^−6 (R34). -/
def tsTerm (neg : Bool) (c : Nat) : Int := if c = 7 then 0 else if neg then -(2 ^ (6 - c)) else 2 ^ (6 - c)

/-- The value of a TS8 byte in units of 2^−6 (R34). -/
def tsValue (x : Nat) : Int := tsTerm (x / 128 % 2 == 1) (x / 16 % 8) + tsTerm (x / 8 % 2 == 1) (x % 8)

/-- The TS8 bytes in the order of preference of R35: greatest c0, then greatest c1, then signs 0. -/
def tsOrder : List Nat :=
  [7, 6, 5, 4, 3, 2, 1, 0].flatMap fun c0 => [7, 6, 5, 4, 3, 2, 1, 0].flatMap fun c1 =>
    [0, 1, 2, 3].map fun s => s / 2 * 128 + c1 * 16 + s % 2 * 8 + c0

/-- The canonical encoding of a TS8 value in units of 2^−6 (R35). -/
def tsEncode (v : Int) : Nat := (tsOrder.find? fun x => tsValue x == v).getD 0x77

/-- The magnitudes that TS8 represents, in units of 2^−6, rising. -/
def tsMagnitudes : List Nat := (List.range 129).filter fun k => tsOrder.any fun x => tsValue x == k

/-- The value of an element's code, before scaling (R33, R34). -/
def Narrow.decode (n : Narrow) (x : Nat) : Num :=
  match n with
  | .ts8 => let v := tsValue x; .fin (decide (v < 0)) v.natAbs (-6)
  | .f8w => Fmt.unpack ⟨5, 2⟩ (x % 256) |> fun v => if v.isNan then .nan false else v
  | _ =>
    let f := n.fmt
    let x := x % 2 ^ n.bits
    let neg := x / f.signBit % 2 == 1
    let ex := x / 2 ^ f.fb % 2 ^ f.eb
    let fr := x % 2 ^ f.fb
    if n == .f8 && x % 128 == 127 then .nan false
    else if ex = 0 then .fin neg fr (f.emin - f.fb)
    else .fin neg (fr + 2 ^ f.fb) (f.emin - f.fb + (ex - 1))

/-- The largest magnitude of a format as an integer times 2^−1 (R43): 448, 57,344, 28, 6, 2. -/
def Narrow.max2 (n : Narrow) : Nat :=
  match n with
  | .f8 => 896
  | .f8w => 114688
  | .f6 => 56
  | .f4 => 12
  | .ts8 => 4

/-- The code of the largest value. -/
def Narrow.maxCode (n : Narrow) : Nat :=
  match n with
  | .f8 => 0x7E
  | .f8w => 0x7B
  | .f6 => 0x1F
  | .f4 => 0x7
  | .ts8 => 0

/-- The code delivered for a value beyond the largest: the largest value, or infinity in F8W (R44). -/
def Narrow.overCode (n : Narrow) (neg : Bool) : Nat :=
  match n with
  | .ts8 => tsEncode (if neg then -128 else 128)
  | .f8w => (if neg then 0x80 else 0) + 0x7C
  | _ => (if neg then n.fmt.signBit else 0) + n.maxCode

/-- The code delivered for a NaN under a given scale (R44). -/
def Narrow.nanCode (n : Narrow) : Nat :=
  match n with
  | .f8 => 0x7F
  | .f8w => 0x7E
  | .f6 => 0
  | .f4 => 0
  | .ts8 => 0x77

/-- Compare the exact m × 2^e with n × 2^g. -/
def magLt (m : Nat) (e : Int) (n : Nat) (g : Int) : Bool := (Num.fin false m e).lt (.fin false n g)

/-- The nearest TS8 magnitude to m × 2^e, at most 2, ties to the smaller (R45): in units of 2^−6. -/
def tsNearest (m : Nat) (e : Int) : Nat :=
  tsMagnitudes.foldl (fun best k =>
    -- k is nearer than best when the midpoint lies below the value
    if magLt (best + k) (-7) m e then k else best) 0

/-- Convert an exact value to an element code (R44, R45), with flags. -/
def Narrow.encode (n : Narrow) (y : Num) : Nat × FlagSet :=
  match y with
  | .nan _ => (n.nanCode, FlagSet.nv)
  | .inf neg => (n.overCode neg, if n == .f8w then 0 else FlagSet.of_)
  | .fin neg m e =>
    match n with
    | .ts8 =>
      if magLt 2 0 m e then (n.overCode neg, FlagSet.ofnx)
      else
        let k := tsNearest m e
        let exact := !(magLt k (-6) m e) && !(magLt m e k (-6))
        (tsEncode (if neg then -(k : Int) else k), if exact then 0 else if k = 0 then FlagSet.ufnx else FlagSet.nx)
    | _ =>
      let f := n.fmt
      if m = 0 then (f.sign neg, 0)
      else
        let top := topOf m e
        let q := max top f.emin - f.fb
        let r := roundAt m e q
        if magLt n.max2 (-1) r.1 q then (n.overCode neg, FlagSet.ofnx)
        else
          let bits := ((q + f.fb - f.emin).toNat + 1) * 2 ^ f.fb + r.1 - 2 ^ f.fb
          let small := decide (bits < 2 ^ f.fb)
          (f.sign neg + bits, if r.2 then if small then FlagSet.ufnx else FlagSet.nx else 0)

/-- The value of element i of a block (R37): NaN in a NaN block. -/
def Narrow.value (n : Narrow) (micro : Bool) (E U code i : Nat) : Num :=
  if E = 255 then .nan false
  else
    match n.decode code with
    | .fin neg m e => .fin neg m (e + E - 127 - (if micro && U / 2 ^ (i / 2) % 2 == 1 then 1 else 0))
    | x => x

/-- The magnitude of a value is at most c × 2^g; an infinity is larger than any (R43). -/
def Num.magLe (x : Num) (c : Nat) (g : Int) : Bool :=
  match x with
  | .nan _ => false
  | .inf _ => false
  | .fin _ m e => !magLt c g m e

/-- The scale record of a block: E and U (R43). -/
def Narrow.scale (n : Narrow) (micro : Bool) (xs : List Num) : Nat × Nat :=
  let fits := fun (e : Nat) => xs.all fun x => x.magLe n.max2 ((e : Int) - 128)
  if xs.any Num.isNan then (255, 0)
  else if xs.all Num.isZero then (0, 0)
  else
    let E := ((List.range 255).find? fits).getD 254
    let ok := fun (x : Num) => x.magLe n.max2 ((E : Int) - 129)
    let U := if micro then
        ((List.range 8).map fun k => if ok (xs.getD (2 * k) (.fin false 0 0)) && ok (xs.getD (2 * k + 1) (.fin false 0 0)) then 2 ^ k else 0).sum
      else 0
    (E, U)

/-- The code of an element converted under a scale record (R44): y is x divided by the scale. -/
def Narrow.under (n : Narrow) (micro : Bool) (E U i : Nat) (x : Num) : Nat × FlagSet :=
  match x with
  | .fin neg m e => n.encode (.fin neg m (e + 127 - E + (if micro && U / 2 ^ (i / 2) % 2 == 1 then 1 else 0)))
  | x => n.encode x

/-! ### Transcendental functions (R53, R54)

The exact result is known to far more bits than FP32 holds by fixed-point series; the delivered result is the part's own
choice (Config.transcendental; DESIGN CHOICE, log entry 7) wherever that choice lies within the bound of R53, and otherwise the nearest FP32
value. -/

/-- Fractional bits of the series. -/
def fixBits : Nat := 160

/-- ln 2 and π with 160 fractional bits. -/
def fixLn2 : Int := 0xb17217f7d1cf79abc9e3b39803f2f6af40f34326
/-- π. -/
def fixPi : Int := 0x3243f6a8885a308d313198a2e03707344a4093822

/-- Product of two fixed-point numbers. -/
def fixMul (x y : Int) : Int := x * y / 2 ^ fixBits

/-- Sum of term, term·x/(k+1), … : the Taylor series of the exponential from term number k. -/
def expSeries (x term : Int) (k fuel : Nat) : Int :=
  match fuel with
  | 0 => 0
  | fuel + 1 => term + expSeries x (fixMul term x / (k + 1)) (k + 1) fuel

/-- Alternating series of sine (k odd) and cosine (k even) from term number k. -/
def trigSeries (x2 term : Int) (k fuel : Nat) : Int :=
  match fuel with
  | 0 => 0
  | fuel + 1 => term + trigSeries x2 (-(fixMul term x2) / ((k + 1) * (k + 2))) (k + 2) fuel

/-- Series of the inverse hyperbolic tangent: p + p·z²·(1/3)… with odd divisors from k. -/
def atanhSeries (z2 p : Int) (k fuel : Nat) : Int :=
  match fuel with
  | 0 => 0
  | fuel + 1 => p / k + atanhSeries z2 (fixMul p z2) (k + 2) fuel

/-- Integer square root by trial of each bit from position b down. -/
def sqrtFrom (n acc b : Nat) : Nat :=
  match b with
  | 0 => if (acc + 1) * (acc + 1) ≤ n then acc + 1 else acc
  | b + 1 => let t := acc + 2 ^ (b + 1); sqrtFrom n (if t * t ≤ n then t else acc) b

/-- A finite value in fixed point, toward minus infinity. -/
def toFix (neg : Bool) (m : Nat) (e : Int) : Int :=
  let p := e + fixBits
  let k : Int := if 0 ≤ p then m * 2 ^ p.toNat else m / 2 ^ (-p).toNat
  if neg then -k else k

/-- A fixed-point number as an exact value. -/
def ofFix (x : Int) (e : Int) : Num := .fin (decide (x < 0)) x.natAbs (e - fixBits)

/-- The transcendental functions (R53). -/
inductive Transc where
  | rcp | rsq | exp2 | log2 | sin | cos
  deriving DecidableEq, Repr

/-- A number for the opaque choice. -/
def Transc.index (t : Transc) : Nat :=
  match t with
  | .rcp => 0
  | .rsq => 1
  | .exp2 => 2
  | .log2 => 3
  | .sin => 4
  | .cos => 5

/-- The function of a finite nonzero operand (positive for rsq and log2) to more than 60 bits beyond FP32. -/
def Transc.approx (t : Transc) (neg : Bool) (m : Nat) (e : Int) : Num :=
  match t with
  | .rcp => .fin neg (2 ^ 256 / m) (-256 - e)
  | .rsq =>
    -- 1/√(m·2^e) with an even exponent: √(2^(2·160) / m')·2^(…)
    let m' := if e % 2 = 0 then m else 2 * m
    let e' := if e % 2 = 0 then e else e - 1
    .fin false (sqrtFrom (2 ^ 320 / m') 0 161) (-160 - e' / 2)
  | .exp2 =>
    if 10 ≤ topOf m e then .fin false 1 (if neg then -1000 else 1000)
    else
      let x := toFix neg m e
      let n := x / 2 ^ fixBits
      let f := x - n * 2 ^ fixBits
      ofFix (expSeries (fixMul f fixLn2) (2 ^ fixBits) 0 45) n
  | .log2 =>
    let top := topOf m e
    let x := toFix false m (e - top)
    let one : Int := 2 ^ fixBits
    let z := (x - one) * one / (x + one)
    let l := 2 * atanhSeries (fixMul z z) z 1 60
    let v := l * one / fixLn2 + top * one
    ofFix v 0
  | .sin =>
    let x := toFix neg m e
    let r := x % (2 * fixPi)
    let r := if fixPi < r then r - 2 * fixPi else r
    if topOf m e < -40 then .fin neg m e
    else ofFix (trigSeries (fixMul r r) r 1 45) 0
  | .cos =>
    let x := toFix neg m e
    let r := x % (2 * fixPi)
    let r := if fixPi < r then r - 2 * fixPi else r
    ofFix (trigSeries (fixMul r r) (2 ^ fixBits) 0 45) 0

/-- The bound of R53 around the exact value v, as an exact magnitude. -/
def Transc.bound (t : Transc) (v : Num) : Num :=
  match t, v with
  | .sin, _ => .fin false 1 (-22)
  | .cos, _ => .fin false 1 (-22)
  | _, .fin _ m e =>
    let top := if m = 0 then -126 else max (topOf m e) (-126)
    .fin false (if t == .rcp || t == .rsq then 1 else 2) (top - 23)
  | _, _ => .fin false 0 0

/-- |y − v| is below b. -/
def within (y v b : Num) : Bool :=
  match (y.add v.neg).1 with
  | .fin _ m e => (Num.fin false m e).lt b
  | _ => false

/-- The result bits for a finite nonzero operand: the part's choice within the bound, else the nearest value. Just above the largest finite
value the bound admits that value beside the infinity to which an exact result rounds (DESIGN CHOICE, log entry 7). -/
def Transc.deliver (t : Transc) (x : Word) (v : Num) : Nat :=
  let y := (Config.transcendental t.index x).toNat
  if within (fp32.unpack y) v (t.bound v) then y else (fp32.pack v).1

/-- Flags of an inexact delivered result (R54). -/
def transcFlags (y : Nat) : FlagSet :=
  match fp32.unpack y with
  | .fin _ m e => if magLt m e 1 (-126) then FlagSet.ufnx else FlagSet.nx
  | _ => FlagSet.ofnx

/-- m is a power of two. -/
def isPow2 (m : Nat) : Bool := m != 0 && m == 2 ^ Nat.log2 m

/-- The exact result of the exact cases of R54 for a finite nonzero operand: one that FP32 holds, which 2^128 is not. -/
def Transc.exact (t : Transc) (neg : Bool) (m : Nat) (e : Int) : Option Num :=
  let n := topOf m e
  match t with
  | .rcp => if isPow2 m && decide (-n ≤ 127) then some (.fin neg 1 (-n)) else none
  | .rsq => if isPow2 m && n % 2 == 0 then some (.fin false 1 (-(n / 2))) else none
  | .exp2 =>
    if 0 ≤ e ∨ m % 2 ^ (-e).toNat = 0 then
      let k := if 0 ≤ e then m * 2 ^ (min e 64).toNat else m / 2 ^ (-e).toNat
      if k ≤ (if neg then 149 else 127) then some (.fin false 1 (if neg then -(k : Int) else k)) else none
    else none
  | .log2 => if isPow2 m then some (.fin (decide (n < 0)) n.natAbs 0) else none
  | .sin => none
  | .cos => none

/-- The FP32 result and flags of a transcendental function (R53, R54). -/
def Transc.apply (t : Transc) (x : Word) : Word × FlagSet :=
  let nan : Word × FlagSet := (BitVec.ofNat 32 fp32.nanBits, FlagSet.nv)
  let put := fun (v : Num) (f : FlagSet) => (BitVec.ofNat 32 (fp32.pack v).1, f)
  match fp32.unpack x.toNat with
  | .nan s => (BitVec.ofNat 32 fp32.nanBits, nvIf s)
  | .inf neg =>
    match t with
    | .rcp => put (.fin neg 0 0) 0
    | .rsq => if neg then nan else put (.fin false 0 0) 0
    | .exp2 => if neg then put (.fin false 0 0) 0 else put (.inf false) 0
    | .log2 => if neg then nan else put (.inf false) 0
    | .sin => nan
    | .cos => nan
  | .fin neg m e =>
    if m = 0 then
      match t with
      | .rcp => put (.inf neg) FlagSet.dz
      | .rsq => put (.inf neg) FlagSet.dz
      | .exp2 => put (.fin false 1 0) 0
      | .log2 => put (.inf true) FlagSet.dz
      | .sin => put (.fin neg 0 0) 0
      | .cos => put (.fin false 1 0) 0
    else if neg && (t == .rsq || t == .log2) then nan
    else
      match t.exact neg m e with
      | some v =>
        let p := fp32.pack v
        (BitVec.ofNat 32 p.1, p.2)
      | none =>
        if (t == .sin || t == .cos) && magLt (fixPi.toNat) (20 - fixBits) m e then
          -- beyond 2^20 × π: any result in [−1, 1]
          let y := (Config.transcendental t.index x).toNat
          let y := if (fp32.unpack y).magLe 1 0 then y else 0
          (BitVec.ofNat 32 y, transcFlags y)
        else
          let y := t.deliver x (t.approx neg m e)
          (BitVec.ofNat 32 y, transcFlags y)

/-- The packed FP16 form: through FP32, then rounded (R285). -/
def Transc.applyH (t : Transc) (x : Nat) : Nat × FlagSet :=
  let a := fp16.convert fp32 x
  let y := t.apply (BitVec.ofNat 32 a.1)
  let z := fp32.convert fp16 y.1.toNat
  (z.1, a.2 ||| y.2 ||| z.2)

end Sys2Proof.Machine
end

