-- ==== Sys2Proof/Machine/Map.lean ====
section
/-! DEFINITION. The operations of a finite map kept with strictly rising keys. -/

namespace Sys2Proof

/-- The value at key k. -/
def Map.look {α : Type} (m : Map α) (k : Nat) : Option α :=
  match m with
  | [] => none
  | (k', a) :: rest => if k' = k then some a else Map.look rest k

/-- The value at key k, or `d` where none is listed. -/
def Map.lookD {α : Type} (m : Map α) (k : Nat) (d : α) : α := (m.look k).getD d

/-- The map with `a` at key k. -/
def Map.put {α : Type} (m : Map α) (k : Nat) (a : α) : Map α :=
  match m with
  | [] => [(k, a)]
  | (k', b) :: rest =>
    if k < k' then (k, a) :: (k', b) :: rest
    else if k = k' then (k, a) :: rest
    else (k', b) :: Map.put rest k a

/-- The map without key k. -/
def Map.del {α : Type} (m : Map α) (k : Nat) : Map α :=
  match m with
  | [] => []
  | (k', b) :: rest => if k' = k then Map.del rest k else (k', b) :: Map.del rest k

/-- The map with its value at key k, if any, replaced. -/
def Map.upd {α : Type} (m : Map α) (k : Nat) (f : α → α) : Map α :=
  match m.look k with
  | some a => m.put k (f a)
  | none => m

/-- The keys, rising. -/
def Map.keys {α : Type} (m : Map α) : List Nat := m.map Prod.fst

/-- The lowest key in [lo, hi) that the map lacks. -/
def Map.freeKey {α : Type} (m : Map α) (lo hi : Nat) : Option Nat :=
  ((List.range (hi - lo)).map (lo + ·)).find? (fun k => (m.look k).isNone)

/-- The keys are strictly rising. -/
def Map.sorted {α : Type} : Map α → Bool
  | [] => true
  | [_] => true
  | (k, _) :: (k', b) :: rest => k < k' && Map.sorted ((k', b) :: rest)

end Sys2Proof
end

