-- ==== Sys2Proof/Syntax.lean ====
section
/-! DEFINITION. The instructions of the part: one constructor for each row of spec/opcode_table.json, instruction words of
the lane set and the group set (R86 to R133) and events without a word. -/

namespace Sys2Proof

/-- The storage in which a SECDED check found an error (R150). -/
inductive ErrorSite where
  /-- A word of device memory, or of a polder bank's data, by physical address. -/
  | memory (addr : Nat)
  /-- A physical vector register, by quadrant and name. -/
  | vector (quad name : Nat)
  /-- A g, mask or rejoin register of a group. -/
  | group (gid r : Nat) | mask (gid k : Nat) | rejoin (gid k : Nat)
  /-- A word of a team's scratchpad, an element of its tiles, a record of a core's scale store. -/
  | scratch (team off : Nat) | tile (team element : Nat) | scale (core off : Nat)
  /-- An 8-byte unit of a core's L1 line. -/
  | l1 (core line unit : Nat)
  /-- A lane's data in an entry of a group's store queue. -/
  | storeQueue (gid entry piece : Nat)
  /-- A copy of state held elsewhere: an entry of a core's first-level or walk-ahead TLB or of a chiplet's shared one, a reuse
  entry, the tag of a clean L1 line, the tag of a clean bank line. -/
  | tlb (core index : Nat) | walkTlb (core index : Nat) | sharedTlb (chip index : Nat) | reuse (quad index : Nat)
  | l1Tag (core line : Nat) | cleanTag (bank index : Nat)
  /-- Control state, by the groups whose state the word holds. -/
  | control (groups : List Nat)
  /-- The tag of a dirty line of a bank. -/
  | dirtyTag (bank index : Nat)
  deriving DecidableEq, Repr

/-- One step of the part: an instruction word of the two instruction sets (operand fields named as the
opcode table names them), or an event that has no word. One constructor per row of spec/opcode_table.json. -/
inductive Instr where
  -- Events without a word.
  | illegalWordIssue
  | instructionFetchFault
  | trapDelivery (gid tag : Nat)
  | splitMerge (gid x y : Nat)
  | waitSwap (gid x : Nat)
  | sluiceReply (core tag : Nat) (lanes : Word)
  | storeQueueRetire (gid : Nat)
  | storeAck (core x : Nat)
  | watchdogExpiry (gid tag : Nat)
  | masterCycle (ns : Nat)
  | copyLanding (core slot lo hi : Nat)
  | matrixOpComplete (core : Nat)
  | waitaReread (gid tag : Nat)
  | gpStart
  | quiescentRecord (x : Nat)
  | spillMove (asid : Nat)
  | watchedLineWrite (addr n : Nat)
  | dispatchArbitration
  | placerOffer
  | passOverTimeout (kseq : Nat)
  | teamRetire (uid : Nat)
  | kernelDone (kseq : Nat)
  | teamSave (uid : Nat)
  | teamSaveComplete (uid : Nat)
  | teamRestore (uid core : Nat)
  | teamDiscard (uid : Nat)
  | softErrorDetected (site : ErrorSite) (uncorrectable : Bool)
  | pagerResolved (asid page : Nat)
  | pagerFailed (asid page : Nat)
  | pagerInstall (asid page leaf : Nat) (fill : List Byte)
  | migrationStart (asid page frame : Nat)
  | migrateLine (asid page : Nat) (readable : Bool)
  | migrationFinish (asid page : Nat)
  | migrationAbort (asid page : Nat)
  | homeAccess (core addr polder : Nat) (write : Bool)
  | reclassifyComplete (page : Nat)
  | pageClassIdle (page : Nat)
  | dirFill (core addr polder hint : Nat)
  | dirWrite (core addr polder kind : Nat)
  | evictionNotice (bank line : Nat)
  | invalAck (bank line : Nat)
  | dirMerge (line : Nat)
  | generationTick (x : Nat)
  | stampSweep (x : Nat)
  | bankSleep (bank : Nat)
  | bankWake (bank : Nat)
  | polderDrainComplete (polder : Nat)
  | shareFailure (share : Nat)
  | hostAccess (addr size code : Nat) (data : List Byte)
  | hostSnoopResponse (line : Nat) (data : List Byte)
  | inboundPeerAccess (device addr size code : Nat) (data : List Byte)
  | peerReply (x : Nat) (ok : Bool) (data : List Byte)
  | peerTimeout (x : Nat)
  | publishForward (region x : Nat)
  | psubAnswer (x : Nat) (accepted : Bool)
  | collectiveStepComplete (key : Nat) (data : List Byte)
  | linkData (link seq : Nat) (payload received : List Byte)
  | linkAck (link seq : Nat)
  | linkNak (link seq : Nat)
  | mapSwap (link : Nat)
  | mapAck (link : Nat)
  | mapAckTimeout (link : Nat)
  | linkFailure (link : Nat)
  | combSourceFailure (plane source : Nat)
  | ringLock (plane spare position : Nat)
  | ageingInterrupt (plane source : Nat)
  | portUp (port : Nat)
  | portDown (port : Nat)
  | currentLimitExceeded (chip : Nat)
  | powerLimitExceeded
  | thermalTrip (chip : Nat)
  | thermalClear (chip : Nat)
  | canaryWarning (core temperature : Nat)
  | canaryTimeout (chip : Nat)
  | railVoltageChange (chip mv : Nat)
  | clampRelax (core : Nat)
  | droopAlarm (core : Nat)
  | droopWindowEnd (core : Nat)
  | boot (fence shares colours verified : Nat)
  | linkctlSwap (link : Nat)
  | linkctlSwfailClear (link : Nat)
  | routeWrite (pair value : Nat)
  | mgmtRegWrite (addr value : Nat)
  | ctxBind (payload : List Byte)
  | ctxSuspend (payload : List Byte)
  | ctxSuspendComplete (asid : Nat)
  | ctxClear (payload : List Byte)
  | ctxDestroy (payload : List Byte)
  | qCreate (payload : List Byte)
  | qArm (payload : List Byte)
  | qDrain (payload : List Byte)
  | qSuspend (payload : List Byte)
  | qSuspendComplete (queue : Nat)
  | qResume (payload : List Byte)
  | qSkip (payload : List Byte)
  | qDestroy (payload : List Byte)
  | qPostHost (payload : List Byte)
  | kAbortHost (payload : List Byte)
  | exportDevice (payload : List Byte)
  | pubDef (payload : List Byte)
  | collReform (payload : List Byte)
  | collAbort (payload : List Byte)
  | regRead (payload : List Byte)
  | imgLoad (payload : List Byte)
  | imgLoadComplete
  | attest (payload : List Byte)
  | ideKey (payload : List Byte)
  | ckpt (payload : List Byte)
  | ckptComplete (ok : Bool)
  | ckRestore (payload : List Byte)
  | ckRestoreComplete (ok : Bool)
  | powerLoss
  | ringRetune (plane spare position : Nat)
  | unsupportedOpcode (opcode : Nat)
  -- Integer arithmetic, lane major 0x0 (R103).
  | iadd (g : BitVec 3) (d a b : BitVec 6)
  | isub (g : BitVec 3) (d a b : BitVec 6)
  | imul (g : BitVec 3) (d a b : BitVec 6)
  | imulhS (g : BitVec 3) (d a b : BitVec 6)
  | imulhZ (g : BitVec 3) (d a b : BitVec 6)
  | iaddSatS (g : BitVec 3) (d a b : BitVec 6)
  | iaddSatZ (g : BitVec 3) (d a b : BitVec 6)
  | isubSatS (g : BitVec 3) (d a b : BitVec 6)
  | isubSatZ (g : BitVec 3) (d a b : BitVec 6)
  | iminS (g : BitVec 3) (d a b : BitVec 6)
  | iminZ (g : BitVec 3) (d a b : BitVec 6)
  | imaxS (g : BitVec 3) (d a b : BitVec 6)
  | imaxZ (g : BitVec 3) (d a b : BitVec 6)
  | iabs (g : BitVec 3) (d a : BitVec 6)
  | ineg (g : BitVec 3) (d a : BitVec 6)
  | iadd64 (g : BitVec 3) (d a b : BitVec 6)
  | iadd64S (g : BitVec 3) (d a b : BitVec 6)
  | iadd64Z (g : BitVec 3) (d a b : BitVec 6)
  | isub64 (g : BitVec 3) (d a b : BitVec 6)
  | imulwS (g : BitVec 3) (d a b : BitVec 6)
  | imulwZ (g : BitVec 3) (d a b : BitVec 6)
  -- Logic, shifts, bit operations, MOV, lane major 0x1 (R104).
  | and (g : BitVec 3) (d a b : BitVec 6)
  | or (g : BitVec 3) (d a b : BitVec 6)
  | xor (g : BitVec 3) (d a b : BitVec 6)
  | andn (g : BitVec 3) (d a b : BitVec 6)
  | not (g : BitVec 3) (d a : BitVec 6)
  | shl (g : BitVec 3) (d a b : BitVec 6)
  | shr (g : BitVec 3) (d a b : BitVec 6)
  | sar (g : BitVec 3) (d a b : BitVec 6)
  | rol (g : BitVec 3) (d a b : BitVec 6)
  | popc (g : BitVec 3) (d a : BitVec 6)
  | clz (g : BitVec 3) (d a : BitVec 6)
  | brev (g : BitVec 3) (d a : BitVec 6)
  | shl64 (g : BitVec 3) (d a b : BitVec 6)
  | shr64 (g : BitVec 3) (d a b : BitVec 6)
  | sar64 (g : BitVec 3) (d a b : BitVec 6)
  | mov (g : BitVec 3) (d a : BitVec 6)
  -- Compares and mask conversion, lane major 0x2 (R105).
  | icmpEq (g k : BitVec 3) (a b : BitVec 6)
  | icmpNe (g k : BitVec 3) (a b : BitVec 6)
  | icmpLtS (g k : BitVec 3) (a b : BitVec 6)
  | icmpLeS (g k : BitVec 3) (a b : BitVec 6)
  | icmpGtS (g k : BitVec 3) (a b : BitVec 6)
  | icmpGeS (g k : BitVec 3) (a b : BitVec 6)
  | icmpLtZ (g k : BitVec 3) (a b : BitVec 6)
  | icmpLeZ (g k : BitVec 3) (a b : BitVec 6)
  | icmpGtZ (g k : BitVec 3) (a b : BitVec 6)
  | icmpGeZ (g k : BitVec 3) (a b : BitVec 6)
  | fcmpEq (g k : BitVec 3) (a b : BitVec 6)
  | fcmpNe (g k : BitVec 3) (a b : BitVec 6)
  | fcmpLt (g k : BitVec 3) (a b : BitVec 6)
  | fcmpLe (g k : BitVec 3) (a b : BitVec 6)
  | fcmpGt (g k : BitVec 3) (a b : BitVec 6)
  | fcmpGe (g k : BitVec 3) (a b : BitVec 6)
  | fcmpNan (g k : BitVec 3) (a b : BitVec 6)
  | dcmpEq (g k : BitVec 3) (a b : BitVec 6)
  | dcmpNe (g k : BitVec 3) (a b : BitVec 6)
  | dcmpLt (g k : BitVec 3) (a b : BitVec 6)
  | dcmpLe (g k : BitVec 3) (a b : BitVec 6)
  | dcmpGt (g k : BitVec 3) (a b : BitVec 6)
  | dcmpGe (g k : BitVec 3) (a b : BitVec 6)
  | dcmpNan (g k : BitVec 3) (a b : BitVec 6)
  | v2m (g k : BitVec 3) (a : BitVec 6)
  | m2v (g : BitVec 3) (d : BitVec 6) (k : BitVec 3)
  -- FP32 and packed 16-bit floating point, lane major 0x3 (R106).
  | fadd (g : BitVec 3) (d a b : BitVec 6)
  | fsub (g : BitVec 3) (d a b : BitVec 6)
  | fmul (g : BitVec 3) (d a b : BitVec 6)
  | fmin (g : BitVec 3) (d a b : BitVec 6)
  | fmax (g : BitVec 3) (d a b : BitVec 6)
  | fabs (g : BitVec 3) (d a : BitVec 6)
  | fneg (g : BitVec 3) (d a : BitVec 6)
  | faddH2 (g : BitVec 3) (d a b : BitVec 6)
  | fsubH2 (g : BitVec 3) (d a b : BitVec 6)
  | fmulH2 (g : BitVec 3) (d a b : BitVec 6)
  | fminH2 (g : BitVec 3) (d a b : BitVec 6)
  | fmaxH2 (g : BitVec 3) (d a b : BitVec 6)
  | faddB2 (g : BitVec 3) (d a b : BitVec 6)
  | fsubB2 (g : BitVec 3) (d a b : BitVec 6)
  | fmulB2 (g : BitVec 3) (d a b : BitVec 6)
  | fminB2 (g : BitVec 3) (d a b : BitVec 6)
  | fmaxB2 (g : BitVec 3) (d a b : BitVec 6)
  -- FP64 and transcendentals, lane major 0x4 (R107).
  | dadd (g : BitVec 3) (d a b : BitVec 6)
  | dsub (g : BitVec 3) (d a b : BitVec 6)
  | dmul (g : BitVec 3) (d a b : BitVec 6)
  | dmin (g : BitVec 3) (d a b : BitVec 6)
  | dmax (g : BitVec 3) (d a b : BitVec 6)
  | dabs (g : BitVec 3) (d a : BitVec 6)
  | dneg (g : BitVec 3) (d a : BitVec 6)
  | frcp (g : BitVec 3) (d a : BitVec 6)
  | frsq (g : BitVec 3) (d a : BitVec 6)
  | fexp2 (g : BitVec 3) (d a : BitVec 6)
  | flog2 (g : BitVec 3) (d a : BitVec 6)
  | fsin (g : BitVec 3) (d a : BitVec 6)
  | fcos (g : BitVec 3) (d a : BitVec 6)
  | frcpH2 (g : BitVec 3) (d a : BitVec 6)
  | frsqH2 (g : BitVec 3) (d a : BitVec 6)
  | fexp2H2 (g : BitVec 3) (d a : BitVec 6)
  | flog2H2 (g : BitVec 3) (d a : BitVec 6)
  -- Conversions, lane major 0x5 (R108).
  | i2fS (g : BitVec 3) (d a : BitVec 6)
  | i2fZ (g : BitVec 3) (d a : BitVec 6)
  | f2iS (g : BitVec 3) (d a : BitVec 6)
  | f2iSTz (g : BitVec 3) (d a : BitVec 6)
  | f2iZ (g : BitVec 3) (d a : BitVec 6)
  | f2iZTz (g : BitVec 3) (d a : BitVec 6)
  | i2dS (g : BitVec 3) (d a : BitVec 6)
  | i2dZ (g : BitVec 3) (d a : BitVec 6)
  | d2iS (g : BitVec 3) (d a : BitVec 6)
  | d2iSTz (g : BitVec 3) (d a : BitVec 6)
  | d2iZ (g : BitVec 3) (d a : BitVec 6)
  | d2iZTz (g : BitVec 3) (d a : BitVec 6)
  | f2d (g : BitVec 3) (d a : BitVec 6)
  | d2f (g : BitVec 3) (d a : BitVec 6)
  | f2h2 (g : BitVec 3) (d a b : BitVec 6)
  | h2fLo (g : BitVec 3) (d a : BitVec 6)
  | h2fHi (g : BitVec 3) (d a : BitVec 6)
  | f2b2 (g : BitVec 3) (d a b : BitVec 6)
  | b2fLo (g : BitVec 3) (d a : BitVec 6)
  | b2fHi (g : BitVec 3) (d a : BitVec 6)
  | nscale (g : BitVec 3) (d a : BitVec 6) (f : BitVec 3)
  | npack (g : BitVec 3) (d a : BitVec 6) (f : BitVec 3)
  | nunpk (g : BitVec 3) (d a : BitVec 6) (f : BitVec 3)
  -- Fused floating point, lane major 0x6 (R109).
  | ffma (d a b c : BitVec 6)
  | ffms (d a b c : BitVec 6)
  | fnma (d a b c : BitVec 6)
  | ffmaH2 (d a b c : BitVec 6)
  | ffmaB2 (d a b c : BitVec 6)
  | dfma (d a b c : BitVec 6)
  | dfms (d a b c : BitVec 6)
  | dfnma (d a b c : BitVec 6)
  -- Fused integer and selects, lane major 0x7 (R110).
  | imad (d a b c : BitVec 6)
  | imadwS (d a b c : BitVec 6)
  | imadwZ (d a b c : BitVec 6)
  | sel (d a b : BitVec 6) (k : BitVec 3)
  | sel64 (d a b : BitVec 6) (k : BitVec 3)
  -- Integer immediates, lane major 0x8 (R111).
  | iaddImm (g : BitVec 3) (d a : BitVec 6) (i : BitVec 8)
  | imulImm (g : BitVec 3) (d a : BitVec 6) (i : BitVec 8)
  | andImm (g : BitVec 3) (d a : BitVec 6) (i : BitVec 8)
  | orImm (g : BitVec 3) (d a : BitVec 6) (i : BitVec 8)
  | xorImm (g : BitVec 3) (d a : BitVec 6) (i : BitVec 8)
  | shlImm (g : BitVec 3) (d a : BitVec 6) (i : BitVec 5)
  | shrImm (g : BitVec 3) (d a : BitVec 6) (i : BitVec 5)
  | sarImm (g : BitVec 3) (d a : BitVec 6) (i : BitVec 5)
  | icmpEqImm (g k : BitVec 3) (a : BitVec 6) (i : BitVec 8)
  | icmpNeImm (g k : BitVec 3) (a : BitVec 6) (i : BitVec 8)
  | icmpLtSImm (g k : BitVec 3) (a : BitVec 6) (i : BitVec 8)
  | icmpGtSImm (g k : BitVec 3) (a : BitVec 6) (i : BitVec 8)
  | icmpLtZImm (g k : BitVec 3) (a : BitVec 6) (i : BitVec 8)
  | icmpGtZImm (g k : BitVec 3) (a : BitVec 6) (i : BitVec 8)
  -- Bit fields and lane patterns, lane major 0x9 (R112).
  | bfxZ (g : BitVec 3) (d a : BitVec 6) (n : BitVec 3) (p : BitVec 5)
  | bfxS (g : BitVec 3) (d a : BitVec 6) (n : BitVec 3) (p : BitVec 5)
  | bfi (g : BitVec 3) (d a : BitVec 6) (n : BitVec 3) (p : BitVec 5)
  | lseq (g : BitVec 3) (d a : BitVec 6) (i : BitVec 8)
  -- 16-bit immediates, lane major 0xA (R113).
  | ldi (g : BitVec 3) (d : BitVec 6) (i : BitVec 16)
  | ldih (g : BitVec 3) (d : BitVec 6) (i : BitVec 16)
  | addih (g : BitVec 3) (d : BitVec 6) (i : BitVec 16)
  -- Global loads, lane major 0xB (R114).
  | ldZb (l : BitVec 4) (d a : BitVec 6) (b : BitVec 3)
  | ldSb (l : BitVec 4) (d a : BitVec 6) (b : BitVec 3)
  | ldZh (l : BitVec 4) (d a : BitVec 6) (b : BitVec 3)
  | ldSh (l : BitVec 4) (d a : BitVec 6) (b : BitVec 3)
  | ldW (l : BitVec 4) (d a : BitVec 6) (b : BitVec 3)
  | ldD (l : BitVec 4) (d a : BitVec 6) (b : BitVec 3)
  | ldQ (l : BitVec 4) (d a : BitVec 6) (b : BitVec 3)
  | ldWAcqDev (l : BitVec 4) (d a : BitVec 6) (b : BitVec 3)
  | ldDAcqDev (l : BitVec 4) (d a : BitVec 6) (b : BitVec 3)
  | ldWAcqSys (l : BitVec 4) (d a : BitVec 6) (b : BitVec 3)
  | ldDAcqSys (l : BitVec 4) (d a : BitVec 6) (b : BitVec 3)
  -- Global stores and scratchpad access, lane major 0xC (R115).
  | stB (s a : BitVec 6) (b : BitVec 3)
  | stH (s a : BitVec 6) (b : BitVec 3)
  | stW (s a : BitVec 6) (b : BitVec 3)
  | stD (s a : BitVec 6) (b : BitVec 3)
  | stQ (s a : BitVec 6) (b : BitVec 3)
  | stWRelDev (s a : BitVec 6) (b : BitVec 3)
  | stDRelDev (s a : BitVec 6) (b : BitVec 3)
  | stWRelSys (s a : BitVec 6) (b : BitVec 3)
  | stDRelSys (s a : BitVec 6) (b : BitVec 3)
  | ldsZb (d a : BitVec 6) (x b : BitVec 3)
  | ldsSb (d a : BitVec 6) (x b : BitVec 3)
  | ldsZh (d a : BitVec 6) (x b : BitVec 3)
  | ldsSh (d a : BitVec 6) (x b : BitVec 3)
  | ldsW (d a : BitVec 6) (x b : BitVec 3)
  | ldsD (d a : BitVec 6) (x b : BitVec 3)
  | ldsQ (d a : BitVec 6) (x b : BitVec 3)
  | stsB (s a : BitVec 6) (x b : BitVec 3)
  | stsH (s a : BitVec 6) (x b : BitVec 3)
  | stsW (s a : BitVec 6) (x b : BitVec 3)
  | stsD (s a : BitVec 6) (x b : BitVec 3)
  | stsQ (s a : BitVec 6) (x b : BitVec 3)
  | atsAdd (d a : BitVec 6) (x b : BitVec 3)
  | atsXchg (d a : BitVec 6) (x b : BitVec 3)
  | atsCas (d a : BitVec 6) (x b : BitVec 3)
  -- Lane atomics, lane major 0xD (R116, R117).
  | atomAdd (r : BitVec 1) (l : BitVec 4) (d : BitVec 6) (a : BitVec 5) (s : BitVec 1) (b : BitVec 6)
  | atomAnd (r : BitVec 1) (l : BitVec 4) (d : BitVec 6) (a : BitVec 5) (s : BitVec 1) (b : BitVec 6)
  | atomOr (r : BitVec 1) (l : BitVec 4) (d : BitVec 6) (a : BitVec 5) (s : BitVec 1) (b : BitVec 6)
  | atomXor (r : BitVec 1) (l : BitVec 4) (d : BitVec 6) (a : BitVec 5) (s : BitVec 1) (b : BitVec 6)
  | atomXchg (r : BitVec 1) (l : BitVec 4) (d : BitVec 6) (a : BitVec 5) (s : BitVec 1) (b : BitVec 6)
  | atomCas (r : BitVec 1) (l : BitVec 4) (d : BitVec 6) (a : BitVec 5) (s : BitVec 1) (b : BitVec 6)
  | atomMinS (r : BitVec 1) (l : BitVec 4) (d : BitVec 6) (a : BitVec 5) (s : BitVec 1) (b : BitVec 6)
  | atomMaxS (r : BitVec 1) (l : BitVec 4) (d : BitVec 6) (a : BitVec 5) (s : BitVec 1) (b : BitVec 6)
  | atomMinZ (r : BitVec 1) (l : BitVec 4) (d : BitVec 6) (a : BitVec 5) (s : BitVec 1) (b : BitVec 6)
  | atomMaxZ (r : BitVec 1) (l : BitVec 4) (d : BitVec 6) (a : BitVec 5) (s : BitVec 1) (b : BitVec 6)
  | atomFadd (r : BitVec 1) (l : BitVec 4) (d : BitVec 6) (a : BitVec 5) (s : BitVec 1) (b : BitVec 6)
  | atomAddD (r : BitVec 1) (l : BitVec 4) (d : BitVec 6) (a : BitVec 5) (s : BitVec 1) (b : BitVec 6)
  | atomXchgD (r : BitVec 1) (l : BitVec 4) (d : BitVec 6) (a : BitVec 5) (s : BitVec 1) (b : BitVec 6)
  | atomCasD (r : BitVec 1) (l : BitVec 4) (d : BitVec 6) (a : BitVec 5) (s : BitVec 1) (b : BitVec 6)
  | atomMinZD (r : BitVec 1) (l : BitVec 4) (d : BitVec 6) (a : BitVec 5) (s : BitVec 1) (b : BitVec 6)
  | atomMaxZD (r : BitVec 1) (l : BitVec 4) (d : BitVec 6) (a : BitVec 5) (s : BitVec 1) (b : BitVec 6)
  -- Lane exchange and lane-sourced matrix operations, lane major 0xE (R118).
  | xlnBack (d a : BitVec 6) (c : BitVec 5)
  | xlnAhead (d a : BitVec 6) (c : BitVec 5)
  | xlnRot (d a : BitVec 6) (c : BitVec 5)
  | xlnFlip (d a : BitVec 6) (c : BitVec 5)
  | xlnPick (d a : BitVec 6) (c : BitVec 5)
  | xlnVar (d a : BitVec 6)
  | redsIadd (d a : BitVec 6)
  | redsIminS (d a : BitVec 6)
  | redsImaxS (d a : BitVec 6)
  | redsIminZ (d a : BitVec 6)
  | redsImaxZ (d a : BitVec 6)
  | redsAnd (d a : BitVec 6)
  | redsOr (d a : BitVec 6)
  | redsXor (d a : BitVec 6)
  | redsFadd (d a : BitVec 6)
  | redsFmin (d a : BitVec 6)
  | redsFmax (d a : BitVec 6)
  | redsDadd (d a : BitVec 6)
  | scanIadd (d a : BitVec 6) (e : BitVec 1)
  | scanIminS (d a : BitVec 6) (e : BitVec 1)
  | scanImaxS (d a : BitVec 6) (e : BitVec 1)
  | scanIminZ (d a : BitVec 6) (e : BitVec 1)
  | scanImaxZ (d a : BitVec 6) (e : BitVec 1)
  | scanAnd (d a : BitVec 6) (e : BitVec 1)
  | scanOr (d a : BitVec 6) (e : BitVec 1)
  | scanXor (d a : BitVec 6) (e : BitVec 1)
  | scanFadd (d a : BitVec 6) (e : BitVec 1)
  | scanFmin (d a : BitVec 6) (e : BitVec 1)
  | scanFmax (d a : BitVec 6) (e : BitVec 1)
  | scanDadd (d a : BitVec 6) (e : BitVec 1)
  | mbq (a : BitVec 6)
  | mdrain (l : BitVec 4) (d a : BitVec 6) (s : BitVec 3)
  | mdrainRaw (l : BitVec 4) (d a : BitVec 6) (s : BitVec 3)
  | mfill (s a : BitVec 6)
  -- Group integer arithmetic, group major 0x0 (R120).
  | gadd (w : BitVec 3) (d a b : BitVec 6)
  | gsub (w : BitVec 3) (d a b : BitVec 6)
  | gmul (w : BitVec 3) (d a b : BitVec 6)
  | gmulhS (w : BitVec 3) (d a b : BitVec 6)
  | gmulhZ (w : BitVec 3) (d a b : BitVec 6)
  | gminS (w : BitVec 3) (d a b : BitVec 6)
  | gmaxS (w : BitVec 3) (d a b : BitVec 6)
  | gminZ (w : BitVec 3) (d a b : BitVec 6)
  | gmaxZ (w : BitVec 3) (d a b : BitVec 6)
  | gneg (w : BitVec 3) (d a : BitVec 6)
  -- Group logic and shifts, group major 0x1 (R121).
  | gand (w : BitVec 3) (d a b : BitVec 6)
  | gor (w : BitVec 3) (d a b : BitVec 6)
  | gxor (w : BitVec 3) (d a b : BitVec 6)
  | gandn (w : BitVec 3) (d a b : BitVec 6)
  | gnot (w : BitVec 3) (d a : BitVec 6)
  | gshl (w : BitVec 3) (d a b : BitVec 6)
  | gshr (w : BitVec 3) (d a b : BitVec 6)
  | gsar (w : BitVec 3) (d a b : BitVec 6)
  | gpopc (w : BitVec 3) (d a : BitVec 6)
  | gclz (w : BitVec 3) (d a : BitVec 6)
  | gbrev (w : BitVec 3) (d a : BitVec 6)
  -- Group compare, select, moves, group major 0x2 (R122).
  | gcmpEq (w k : BitVec 3) (a b : BitVec 6)
  | gcmpNe (w k : BitVec 3) (a b : BitVec 6)
  | gcmpLtS (w k : BitVec 3) (a b : BitVec 6)
  | gcmpLeS (w k : BitVec 3) (a b : BitVec 6)
  | gcmpLtZ (w k : BitVec 3) (a b : BitVec 6)
  | gcmpLeZ (w k : BitVec 3) (a b : BitVec 6)
  | gselNz (d a b : BitVec 6)
  | movG (d a : BitVec 6)
  | v2g (w : BitVec 3) (d a b : BitVec 6)
  | g2v (w : BitVec 3) (d a : BitVec 6)
  | s2g (d : BitVec 6) (n : BitVec 12)
  | s2gc (d : BitVec 6) (n : BitVec 12)
  -- Group immediates, group major 0x3 (R123).
  | gaddImm (d a : BitVec 6) (i : BitVec 11)
  | gmulImm (d a : BitVec 6) (i : BitVec 11)
  | gandImm (d a : BitVec 6) (i : BitVec 11)
  | gorImm (d a : BitVec 6) (i : BitVec 11)
  | gxorImm (d a : BitVec 6) (i : BitVec 11)
  | gshlImm (d a i : BitVec 6)
  | gshrImm (d a i : BitVec 6)
  | gsarImm (d a i : BitVec 6)
  | gcmpEqImm (k : BitVec 3) (a : BitVec 6) (i : BitVec 11)
  | gcmpLtSImm (k : BitVec 3) (a : BitVec 6) (i : BitVec 11)
  | gcmpLtZImm (k : BitVec 3) (a : BitVec 6) (i : BitVec 11)
  -- 16-bit quarters, group major 0x4 (R124).
  | gldq (q : BitVec 2) (d : BitVec 6) (i : BitVec 16)
  | ginsq (q : BitVec 2) (d : BitVec 6) (i : BitVec 16)
  | gaddq (q : BitVec 2) (d : BitVec 6) (i : BitVec 16)
  -- Branches and JOIN, group major 0x5 (R125).
  | bra (o : BitVec 18)
  | braAny (k : BitVec 3) (o : BitVec 18)
  | braNone (k : BitVec 3) (o : BitVec 18)
  | braD (k j : BitVec 3) (o : BitVec 18)
  | call (o : BitVec 18)
  | join (j : BitVec 3)
  -- Masks, regrouping, indirect control, group major 0x6 (R126).
  | mand (k a b : BitVec 3)
  | mor (k a b : BitVec 3)
  | mxor (k a b : BitVec 3)
  | mandn (k a b : BitVec 3)
  | mnot (k a : BitVec 3)
  | m2g (d : BitVec 6) (k : BitVec 3)
  | g2m (k : BitVec 3) (a : BitVec 6)
  | mpopc (d : BitVec 6) (k : BitVec 3)
  | j2m (k j : BitVec 3)
  | m2j (j k : BitVec 3)
  | matchWord (d a : BitVec 6)
  | matchPair (d a : BitVec 6)
  | vote (k : BitVec 3) (a : BitVec 6)
  | elect (k : BitVec 3)
  | ret (a : BitVec 6)
  | brx (a : BitVec 6)
  | exit
  -- Barriers and waits, group major 0x7 (R127).
  | barInit (a b : BitVec 6) (s : BitVec 1)
  | barArv (a : BitVec 6)
  | barArvb (a b : BitVec 6)
  | barExp (a b : BitVec 6)
  | barWait (a b : BitVec 6)
  | barTest (a b : BitVec 6)
  | barInval (a : BitVec 6)
  | waita (a b : BitVec 6) (z : BitVec 1) (c : BitVec 3)
  | wakea (a : BitVec 6)
  -- Copy, group major 0x8 (R128).
  | cpyLd (a b : BitVec 6) (o : BitVec 4)
  | cpySt (a b : BitVec 6) (o : BitVec 4)
  | cpySc (a b : BitVec 6) (o : BitVec 4)
  | cpyPf (a b : BitVec 6) (o : BitVec 4)
  | cpySeal
  | cpyWaitn (n : BitVec 4)
  -- Matrix, group major 0x9 (R129).
  | mres (k : BitVec 3)
  | mrel
  | mzero (a : BitVec 6)
  | mfence
  | mwait (n : BitVec 4)
  | mma (x y : BitVec 3) (a b : BitVec 6) (o : BitVec 4)
  -- Uniform memory, group major 0xA (R130).
  | gldZb (l : BitVec 4) (a b : BitVec 6) (o : BitVec 4)
  | gldSb (l : BitVec 4) (a b : BitVec 6) (o : BitVec 4)
  | gldZh (l : BitVec 4) (a b : BitVec 6) (o : BitVec 4)
  | gldSh (l : BitVec 4) (a b : BitVec 6) (o : BitVec 4)
  | gldW (l : BitVec 4) (a b : BitVec 6) (o : BitVec 4)
  | gldD (l : BitVec 4) (a b : BitVec 6) (o : BitVec 4)
  | gstB (a b : BitVec 6) (o : BitVec 4)
  | gstH (a b : BitVec 6) (o : BitVec 4)
  | gstW (a b : BitVec 6) (o : BitVec 4)
  | gstD (a b : BitVec 6) (o : BitVec 4)
  | gatomAdd (l : BitVec 4) (a b : BitVec 6) (o : BitVec 4)
  | gatomAnd (l : BitVec 4) (a b : BitVec 6) (o : BitVec 4)
  | gatomOr (l : BitVec 4) (a b : BitVec 6) (o : BitVec 4)
  | gatomXor (l : BitVec 4) (a b : BitVec 6) (o : BitVec 4)
  | gatomXchg (l : BitVec 4) (a b : BitVec 6) (o : BitVec 4)
  | gatomCas (l : BitVec 4) (a b : BitVec 6) (o : BitVec 4)
  | gatomMinS (l : BitVec 4) (a b : BitVec 6) (o : BitVec 4)
  | gatomMaxS (l : BitVec 4) (a b : BitVec 6) (o : BitVec 4)
  | gatomMinZ (l : BitVec 4) (a b : BitVec 6) (o : BitVec 4)
  | gatomMaxZ (l : BitVec 4) (a b : BitVec 6) (o : BitVec 4)
  | gatomFadd (l : BitVec 4) (a b : BitVec 6) (o : BitVec 4)
  | gatomAddD (l : BitVec 4) (a b : BitVec 6) (o : BitVec 4)
  | gatomXchgD (l : BitVec 4) (a b : BitVec 6) (o : BitVec 4)
  | gatomCasD (l : BitVec 4) (a b : BitVec 6) (o : BitVec 4)
  | gatomMinZD (l : BitVec 4) (a b : BitVec 6) (o : BitVec 4)
  | gatomMaxZD (l : BitVec 4) (a b : BitVec 6) (o : BitVec 4)
  -- Queue, kernel, region, tide, group major 0xB (R131).
  | qpost (a b : BitVec 6)
  | qsig (a b : BitVec 6)
  | qstat (a b : BitVec 6)
  | kabort (a : BitVec 6)
  | region (a : BitVec 6) (n : BitVec 4)
  | regx
  | rdenter
  | rdexit
  | qpoint
  | gpstart (b : BitVec 6)
  | gpwait (a : BitVec 6)
  | gppoll (a b : BitVec 6)
  | gpfree (a b : BitVec 6)
  -- Page, polder, link, collective, group major 0xC (R132).
  | publ (a : BitVec 6)
  | pdef (a : BitVec 6)
  | presize (a b : BitVec 6)
  | tlbiPage (a : BitVec 6)
  | tlbiAsid (a : BitVec 6)
  | tlbiAll
  | tlbi2m (a : BitVec 6)
  | tlbi1g (a : BitVec 6)
  | pmig (a b : BitVec 6)
  | pclass (a b : BitVec 6)
  | pstat (a b : BitVec 6)
  | coll (a b : BitVec 6)
  | pubv (a : BitVec 6)
  | psub (a b : BitVec 6)
  | lstat (a b : BitVec 6)
  -- System, group major 0xD (R133).
  | nop
  | trap (c : BitVec 4)
  | eret
  | trapret
  | sysr (n b : BitVec 6) (u : BitVec 4)
  | sysw (n b : BitVec 6) (u : BitVec 4)
  | fence (s : BitVec 3)
  | time (b : BitVec 6)
  | clock (b : BitVec 6)
  | yield
  | noreuse
  deriving DecidableEq, Repr

end Sys2Proof
end

