-- ==== Sys2Proof/Machine/State.lean ====
section
/-! DEFINITION. The state of the part as plain data: every piece of state the spec names, and four fields of the model's own
(agenda, the issue list with what its examination needs, fresh, uid). -/

namespace Sys2Proof.Machine

/-- Why a step stops. -/
inductive Fault where
  /-- Raised by every instruction word's meaning when no split of a resident group is issuing, a state in which the part
  executes no instruction. Safe: the model stops where the part has no behaviour. -/
  | noIssuer
  deriving DecidableEq, Repr

/-- Why a step has no meaning. -/
inductive Refusal where
  /-- Raised by an arm of exec whose instruction has no meaning yet. Safe: nothing can be proved of the instruction. -/
  | notModelled (mnemonic : String)
  deriving DecidableEq, Repr

/-- The trap causes of R149. -/
inductive Cause where
  | illegal | priv | lookahead | misalign | noncanon | perm | page | peerFault | peerTimeout | barrierOverrun
  | matrixNotHeld | stackSpill | polderShare | formatSlot | software | watchdog | softError
  deriving DecidableEq, Repr

/-- A trap as raised: what R148 and R154 record of it. -/
structure Trap where
  cause : Cause
  /-- The lanes that raised it. -/
  lanes : Word
  /-- g62: the faulting address, 0 when the cause has none. -/
  addr : DWord := 0
  /-- The TRAP code of SOFTWARE, 0 otherwise. -/
  code : BitVec 4 := 0
  /-- The AUX value of the trap record. -/
  aux : DWord := 0
  /-- g61 is the next instruction (SOFTWARE), not the trapping one. -/
  atNext : Bool := false
  /-- Reference time when it was raised. -/
  time : BitVec 64 := 0
  /-- No handler takes it: the split stops whatever TRAPH holds (R150, R210). -/
  stop : Bool := false
  deriving DecidableEq, Repr

/-- The state of a split (R205). -/
inductive SplitState where
  | ready | parked | faulted | waiting | stopped
  deriving DecidableEq, Repr

/-- What a WAITING split waits for (R205). -/
inductive Wait where
  /-- BAR.WAIT: the team that holds the barrier, its id, and band scope. -/
  | barrier (holder id : Nat) (band : Bool)
  /-- WAITA: address, value, doubleword, condition code. -/
  | word (addr value : DWord) (dword : Bool) (cond : BitVec 3)
  /-- GPFREE: room in the spill area. -/
  | spill
  /-- PRESIZE: the end of a polder's resize. -/
  | resize (polder : Nat)
  /-- QPOST: room in a queue, or a page of its ring. -/
  | post (queue : Nat)
  /-- GPWAIT: the target count. -/
  | grace (target : DWord)
  /-- CPY.WAITN. -/
  | copies (n : Nat)
  /-- MWAIT. -/
  | matrix (n : Nat)
  /-- JOIN at a rejoin register. -/
  | join (j : Nat)
  deriving DecidableEq, Repr

/-- A lookahead window (R216): the sluice tag whose replies it looks past and the instructions it may still issue. -/
structure Window where
  tag : Nat
  left : Nat
  /-- The window of an acquire: it admits no instruction that performs or requests a memory event (R300). -/
  acquire : Bool := false
  deriving DecidableEq, Repr

/-- The B marks that an MMA has claimed before its release or drain has ended (R366, R378): the marks by quadrant, the quarters' bytes, and
the poison of the registers they come from. -/
structure ClaimedB where
  marks : List (Nat × Nat × Nat)
  quarters : List (List Byte)
  poison : List (List Bool)
  deriving DecidableEq, Repr

/-- A split (R204). -/
structure Split where
  pc : DWord
  mask : Word
  tag : Nat
  /-- MODE: true is firmware mode (R144). -/
  firmware : Bool := false
  /-- The no-reuse mark (R101). -/
  nr : Bool := false
  state : SplitState := .ready
  age : Nat := 0
  bbc : Nat := 0
  windows : List Window := []
  /-- TRAPSTATE: g61 to g63 as delivered, and the no-reuse mark held during a handler (R101, R152). -/
  trap61 : DWord := 0
  trap62 : DWord := 0
  trap63 : DWord := 0
  trapNr : Bool := false
  /-- The AUX value of the delivered trap and the reference time when it was raised, for TRAPRET's record (R152, R154). -/
  trapAux : DWord := 0
  trapTime : BitVec 64 := 0
  /-- TSHAD61 to TSHAD63 (R145, R147). -/
  tshad61 : DWord := 0
  tshad62 : DWord := 0
  tshad63 : DWord := 0
  /-- The address at which a split without a sluice entry parked FAULTED (R221, R415). -/
  faultAddr : DWord := 0
  /-- What peers have answered to reads that the split's instruction makes for itself: address, and bytes or a fault (true: timed
  out). -/
  peerRead : List (DWord × (List Byte ⊕ Bool)) := []
  /-- What its MMA has claimed while it waits for its release or drain (R378). -/
  claimed : Option ClaimedB := none
  /-- The wait a WAITING split is in. -/
  wait : Option Wait := none
  /-- Pulses of the current wait, for the watchdog (R482). -/
  waitPulses : Nat := 0
  /-- Consecutive issue slots WAITING, PARKED or FAULTED (R214). -/
  idle : Nat := 0
  /-- It is ready in the current slot: its next instruction was examined in this cycle and can issue (R206). -/
  ready : Bool := false
  /-- Slots ready without issuing (R213, R224). -/
  readySlots : Nat := 0
  /-- Issue slots for which it has stalled on the overflow region of its quadrant (R237). -/
  placeWait : Option Nat := none
  /-- The sluice tags and drains whose replies a PARKED split awaits (R216). -/
  parkOn : List Nat := []
  /-- A trap that awaits the replies still owed to the split (R222). -/
  pendingTrap : Option Trap := none
  /-- A FENCE armed the drain of R74 for the split's next engine request. -/
  drainArmed : Bool := false
  /-- The release or engine request it parks for awaits the acknowledgement of the stores that the core's L1 took before this number
  (R68, R74). -/
  drainTo : Option Nat := none
  /-- TAGs of the splits that issue before this one after its YIELD (R169). -/
  yieldTo : List Nat := []
  deriving DecidableEq, Repr

/-- The state of a group (R203). -/
inductive GroupState where
  | running | exited | halted
  deriving DecidableEq, Repr

/-- Where a store goes (R301). -/
inductive StoreKind where
  /-- Global memory: device, host or a peer, by the physical address. -/
  | global
  /-- The scratchpad of a team, its own or through a band window. -/
  | scratch (team : Nat)
  deriving DecidableEq, Repr

/-- The write of one lane: where it goes and its bytes. -/
structure Piece where
  kind : StoreKind
  addr : Nat
  bytes : List Byte
  /-- Lane and virtual address, for the record of a posted peer store (R459). -/
  lane : Nat := 0
  va : DWord := 0
  /-- A soft error has poisoned the data while it waits (R150). -/
  bad : Bool := false
  deriving DecidableEq, Repr

/-- An entry of a group's store queue (R301): the active lanes' writes, lowest lane first. -/
structure StoreEntry where
  pieces : List Piece
  /-- The store instruction's address. -/
  pc : DWord := 0
  deriving DecidableEq, Repr

/-- A batch of engine requests (R351, R371): the requests sealed together that are not complete. -/
structure Batch where
  open_ : List Nat
  deriving DecidableEq, Repr

/-- A group (R203, R234). -/
structure Group where
  /-- The team it belongs to, and its index within it. -/
  team : Nat
  index : Nat
  /-- Vector, group, mask and rejoin registers (R5, R234); m0 is the split's MASK and position 0 is unused. -/
  v : Vector Lanes 64 := Vector.replicate 64 (Vector.replicate 32 0)
  g : Vector DWord 64 := Vector.replicate 64 0
  m : Vector Word 8 := Vector.replicate 8 0
  j : Vector Word 8 := Vector.replicate 8 0
  /-- Poisoned registers, one bit each (R150, R242, R316). -/
  vPoison : BitVec 64 := 0
  gPoison : BitVec 64 := 0
  mPoison : BitVec 8 := 0
  jPoison : BitVec 8 := 0
  /-- $fflags: NV DZ OF UF NX in bits 4 to 0 (R46). -/
  fflags : BitVec 5 := 0
  /-- Reader depth (R430). -/
  depth : BitVec 4 := 0
  /-- Region flag (R170, R171). -/
  region : Bool := false
  exited : Word := 0
  state : GroupState := .running
  /-- Resident splits at indices 0 to 3 (R204). -/
  res : Map Split := []
  /-- Stacked splits, top first (R208); the lowest `spilled` of them lie in the spill ring (R209, R210). -/
  stack : List Split := []
  spilled : Nat := 0
  /-- Spill ring position of the lowest spilled entry (R210). -/
  ringBottom : Nat := 0
  /-- The split-table index that issued last to a vector pipe, and to the uniform pipe, for the round robin of R213. -/
  lastIndex : Nat := 3
  lastGroup : Nat := 3
  /-- The issue slot in which the group issued last (R224). -/
  lastSlot : Nat := 0
  /-- Rename map: the physical name of each vector register (R235); 2048 stands for no name. -/
  names : Vector Nat 64 := Vector.replicate 64 2048
  /-- Store queue, oldest first (R69, R301). -/
  storeQ : List StoreEntry := []
  /-- A posted peer store that faulted (true: timed out) since the last system-scope release or fence, and the peer's device
  number (R76, R459). -/
  postedFault : Option (Bool × Nat) := none
  /-- Open copy set, batch number and unfinished sealed batches, oldest first, by the copies' serials (R351). -/
  copySet : List Nat := []
  copyBatch : BitVec 4 := 0
  copyBatches : List Batch := []
  /-- Open matrix set and sealed matrix batches, oldest first (R371). -/
  matSet : List Nat := []
  matBatches : List Batch := []
  deriving DecidableEq, Repr

/-- What one lane of a memory instruction asks for. -/
structure LaneReq where
  lane : Nat
  va : DWord
  /-- Physical address, once translated. -/
  pa : Nat := 0
  /-- The value a store writes or an atomic's operand, and a compare-and-swap's new value. -/
  opA : Nat := 0
  opB : Nat := 0
  /-- The value that the lane's event read, delivered by its reply, and whether it carries a soft error (R219, R316). -/
  val : Nat := 0
  bad : Bool := false
  /-- The bytes that the load took from its group's store queue, by position in the access (R69). -/
  own : List (Nat × Byte) := []
  /-- No later store of the core writes the lane's bytes: the peer's reply may enter L1. -/
  fills : Bool := true
  /-- The reply comes from a peer (R459), and how it failed: true is a timeout. -/
  peer : Bool := false
  err : Option Bool := none
  deriving DecidableEq, Repr

/-- What a memory instruction does at its address. -/
inductive MemOp where
  /-- Read `size` bytes; `signed` says how a narrow value is extended. -/
  | load (size : Nat) (signed : Bool)
  /-- Write `size` bytes. -/
  | store (size : Nat)
  /-- The atomic of code `code` of R116. -/
  | atomic (code : Nat)
  deriving DecidableEq, Repr

/-- The destination of a sluice instruction. -/
inductive Dest where
  /-- `n` vector registers from d. -/
  | vec (d n : Nat)
  /-- A g register. -/
  | grp (d : Nat)
  | none
  deriving DecidableEq, Repr

/-- A memory instruction in flight or to be replayed. -/
structure Access where
  op : MemOp
  dest : Dest
  la : Nat := 0
  /-- Acquire scope, and release scope, when ordered (R62). -/
  acquire : Option Nat := Option.none
  release : Option Nat := Option.none
  deriving DecidableEq, Repr

/-- A reuse candidate's key (R248) and its destinations. -/
structure ReuseKey where
  /-- The instruction word with its vd, va, vb, vc and la fields cleared. -/
  word : Word
  /-- Physical names of the vector sources, in operand order. -/
  sources : List Nat
  /-- Values of the g registers read. -/
  gvals : List DWord
  /-- The format slot read, if any. -/
  slot : Option Word
  /-- Active mask and the previous names of the destinations, when not every lane is active. -/
  mask : Option (Word × List Nat)
  asid : Nat
  firmware : Bool
  /-- Scratchpad generation of a scratchpad load. -/
  generation : Option Nat
  deriving DecidableEq, Repr

/-- A live entry of a reuse table (R249). -/
structure ReuseEntry where
  key : ReuseKey
  results : List Nat
  flags : BitVec 5
  /-- Physical and virtual 64 KiB pages a global load touched. -/
  pages : List Nat
  vpages : List Nat := []
  deriving DecidableEq, Repr

/-- A sluice entry (R215), keyed by its tag. -/
structure SluiceEntry where
  group : Nat
  /-- The issuing split's TAG. -/
  split : Nat
  pc : DWord
  access : Access
  /-- Lanes whose reply has not arrived, and lanes that faulted PAGE. -/
  pend : Word
  fault : Word
  reqs : List LaneReq
  /-- Landing registers, one for each vector destination (R240). -/
  landing : List Nat := []
  /-- The reuse entry to make when the pending mask reaches zero (R249). -/
  reuse : Option ReuseKey := none
  /-- The access translates in firmware mode (R144). -/
  firmware : Bool := false
  /-- The split carried the no-reuse mark when the instruction issued (R101). -/
  nr : Bool := false
  /-- Only the fault record of a CPY: the instruction issues again whole (R215). -/
  retry : Bool := false
  deriving DecidableEq, Repr

/-- A line of the L1: its address is 128 times its key. -/
structure L1Line where
  bytes : List Byte
  poison : BitVec 16 := 0
  /-- The bytes that it holds: a line of peer memory holds those that replies have brought (R299). -/
  valid : BitVec 128 := BitVec.allOnes 128
  deriving DecidableEq, Repr

/-- A store between the core's L1 and its acknowledgement (R70, R301). -/
structure InFlight where
  group : Nat
  entry : StoreEntry
  /-- Its number in the order in which the core's L1 took the stores. -/
  serial : Nat := 0
  /-- Its bytes are performed; it awaits the acknowledgements of the invalidations that it has caused (R70, R398). -/
  performed : Bool := false
  deriving DecidableEq, Repr

/-- A translation as a TLB keeps it (R409 to R412): the leaf entry and its page size in bits. -/
structure TlbEntry where
  asid : Nat
  /-- Virtual page: address div 2^bits. -/
  vpage : Nat
  bits : Nat
  leaf : DWord
  deriving DecidableEq, Repr

/-- The kind of a copy request (R342). -/
inductive CopyKind where
  | load | store | scale | prefetch
  deriving DecidableEq, Repr

/-- How a copy signals (R341). -/
inductive CopySignal where
  | none
  /-- The team that holds the barrier, its id, and band scope. -/
  | barrier (holder id : Nat) (band : Bool)
  | word (offset : Nat) (value : Word)
  deriving DecidableEq, Repr

/-- A layout record (R338), decoded: BASE, the extents, strides (stride 0 is unused) and box counts NB of the five
dimensions, ESIZE, SWZ, PID when PIDV = 1, PHINT, NDIM, the slot to check when FSV = 1, and whether its reserved fields and value
ranges hold. -/
structure Layout where
  base : DWord
  ext : List Nat
  strides : List Int
  nb : List Nat
  esize : Nat
  swz : Nat
  pid : Option Nat
  phint : Nat := 0
  ndim : Nat
  fslot : Option Nat
  valid : Bool
  deriving DecidableEq, Repr

/-- An accepted copy request (R344), keyed by its slot. -/
structure CopyReq where
  kind : CopyKind
  group : Nat
  /-- TAG and split-table index of the issuing split, its lanes, mode and pc, for the trap record of R348. -/
  split : Nat
  splitIndex : Nat
  lanes : Word
  firmware : Bool
  pc : DWord
  /-- The issuing team and its placement (R355). -/
  team : Nat
  placement : Nat
  asid : Nat
  /-- Order of acceptance, and reference time of it (R353). -/
  serial : Nat
  accepted : Nat
  layout : Layout
  coord : List Int
  /-- LOCAL, and the team whose scratchpad the box lies in. -/
  localAddr : Nat
  target : Nat
  signal : CopySignal
  /-- Units of 16 bytes of the box, in box order, that have not landed. -/
  left : List Nat
  /-- The box offset of the failing element, once the copy has failed (R348). -/
  failedAt : Option Nat := Option.none
  /-- What peers have answered, by the box byte from which they were asked (R347, R459). -/
  answered : Map (List Byte) := []
  /-- Units of a CPY.ST that their homes have performed, with the device lines that await acknowledgements (R70, R342). -/
  written : Map (List Nat) := []
  deriving DecidableEq, Repr

/-- State of a barrier (R318), keyed by its id; an INVALID barrier is absent. -/
structure Barrier where
  /-- Band scope, else team scope. -/
  band : Bool
  phase : Bool := false
  posted : Bool := false
  expect : BitVec 12
  arrived : BitVec 12 := 0
  pending : Int := 0
  deriving DecidableEq, Repr

/-- A matrix operation in the engine queue (R368, R370). An element is numbered tile × 4096 + 64 × row + column. -/
inductive MatrixOp where
  | zero (tile : Nat)
  /-- MMA: the slots, the scratchpad offset of A, the byte offsets of the scale records, the tile, and the four B quarters with
  the poison of the registers they come from. -/
  | mma (slotA slotB : Word) (addr scaleA scaleB tile : Nat) (quarters : List (List Byte)) (quarterPoison : List (List Bool))
  /-- MDRAIN: group and split, destination, landing register, slot (none: raw), and lane and element of each active lane. -/
  | drain (group split d landing : Nat) (slot : Option Word) (elems : List (Nat × Nat))
  /-- MFILL: element and value of each active lane, in ascending lane order. -/
  | fill (elems : List (Nat × Word))
  deriving DecidableEq, Repr

/-- An operation of the engine queue with its number, its team, and the group whose open set or batch it belongs to. -/
structure MatrixEntry where
  serial : Nat
  group : Nat
  team : Nat
  op : MatrixOp
  deriving DecidableEq, Repr

/-- The reservation of the matrix engine (R358). -/
inductive MatrixHold where
  | free
  | held (team : Nat)
  | releasing (team : Nat)
  deriving DecidableEq, Repr

/-- A physical register of a quadrant's pool (R235). -/
structure PhysReg where
  value : Lanes
  poison : Bool := false
  /-- A landing register whose lanes are still filling (R237). -/
  landing : Bool := false
  deriving DecidableEq, Repr

/-- A quadrant of a core. -/
structure Quad where
  /-- Live physical registers by name (R235). -/
  pool : Map PhysReg := []
  /-- Reuse table, least recently made or hit first (R247). -/
  reuse : List ReuseEntry := []
  /-- RULOOK, RUHIT, RUMADE, RUKILL (R255). -/
  lookups : BitVec 64 := 0
  hits : BitVec 64 := 0
  made : BitVec 64 := 0
  kills : BitVec 64 := 0
  deriving DecidableEq, Repr

/-- A core (R10 to R12). Default values are the state after boot. -/
structure CoreSt where
  sluice : Map SluiceEntry := []
  /-- Splits stalled for a sluice entry, longest first: group, TAG, and address of the instruction (R220). -/
  sluiceWait : List (Nat × Nat × DWord) := []
  l1 : Map L1Line := []
  tlb : List TlbEntry := []
  walkTlb : List TlbEntry := []
  inflight : List InFlight := []
  /-- Stores that the L1 has taken from the store queues (R69). -/
  taken : Nat := 0
  scratchGen : Nat := 0
  /-- Scale store: 512 KiB as listed nonzero bytes, and its poisoned 2-byte records (R57, R374). -/
  scale : List Host.Cell := []
  scalePoison : List Nat := []
  hold : MatrixHold := .free
  /-- B marks by quadrant: group and first register (R366). -/
  marks : Map (Nat × Nat) := []
  matrixQ : List MatrixEntry := []
  copies : Map CopyReq := []
  /-- Grace-period starts that have taken effect on this core (R435). -/
  graceSeen : Nat := 0
  /-- Current account A (R473). -/
  account : Nat := 0
  /-- CURCFG: DK, CTGT; CKPAT; clamp count CLR; DRTH: EN, LEVEL, COUNT (R473 to R477). -/
  dk : Nat := 4
  ctgt : Nat := 0xFFFFFF
  ckpat : BitVec 16 := 0xFFFF
  /-- EFF, which follows PAT and CLR at the cycles with n mod 16 = 0 (R475, R476). -/
  eff : BitVec 16 := 0xFFFF
  clr : Nat := 0
  /-- Reference time of the last condition that holds the clamp, or of the last relaxation (R476). -/
  clampAt : Nat := 0
  drEnable : Bool := true
  drLevel : Nat := 300
  drCount : Nat := 0
  /-- Droop windows (R478): open, stretched pulses and halved pulses still to come, and the next cycle is swallowed. -/
  droop : Bool := false
  stretch : Nat := 0
  halving : Nat := 0
  swallow : Bool := false
  /-- Pulse counter (R481): the pulses before the current cycle, and whether the current cycle is a pulse. -/
  pulses : BitVec 64 := 0
  pulsed : Bool := true
  deriving DecidableEq, Repr

/-- State of a team (R197); a retired team is gone. -/
inductive TeamState where
  | resident | saved | reenqueued
  /-- Issue has stopped for a SAVE that is not complete (R158). -/
  | saving
  /-- Issue has stopped for a DISCARD, or for an abort or destruction, that is not complete (R157, R200). -/
  | discarding | ending
  deriving DecidableEq, Repr

/-- A team that has been placed (R189, R197). -/
structure Team where
  kernel : Nat
  linear : Nat
  /-- Team slot of the context (R143). -/
  slot : Nat
  core : Nat
  state : TeamState := .resident
  /-- Number of the placement, which tags engine requests (R355). -/
  placement : Nat := 0
  /-- Where its scratchpad bytes begin in the core's scratchpad (R195). -/
  scratchBase : Nat := 0
  /-- Scratchpad bytes other than zero, and poisoned 8-byte words (R305, R316). -/
  scratch : List Host.Cell := []
  scratchPoison : List Nat := []
  /-- Accumulator words other than zero by tile × 4096 + element, and poisoned ones (R360, R374). -/
  acc : Map Word := []
  accPoison : List Nat := []
  barriers : Map Barrier := []
  /-- Retired, but its band-scope barriers live on (R328). -/
  retired : Bool := false
  /-- The sluice entries of FAULTED splits, saved (R159, R254). -/
  savedSluice : List SluiceEntry := []
  /-- The saved reservation flag and B marks (R159, R373). -/
  savedHold : Bool := false
  savedMarks : Map (Nat × Nat) := []
  /-- λ, τ in ns, the time of the last quiet seal, and $cdepth (R353). -/
  lambda : Option Rat := none
  tau : Option Rat := none
  lastQuiet : Option Nat := none
  cdepth : Nat := 1
  deriving DecidableEq, Repr

/-- State of a kernel (R198); a DONE kernel is gone. -/
inductive KernelState where
  | placing | running | aborting | retiring
  deriving DecidableEq, Repr

/-- The launch record as taken (R190, R191). -/
structure Launch where
  grid : Nat × Nat × Nat
  groups : Nat
  bandR : Nat
  bandC : Nat
  vregs : Nat
  ltcount : Nat
  code : DWord
  param : DWord
  ltab : DWord
  dmax : Nat
  dmin : Nat
  pclass : Nat
  noreuse : Bool
  restart : Bool
  acc : Nat
  barriers : Nat
  scratch : Nat
  slots : List Word
  caddr : DWord
  cval : Word
  deriving DecidableEq, Repr

/-- A kernel of the kernel table (R179, R198), keyed by its launch sequence number. -/
structure Kernel where
  launch : Launch
  queue : Nat
  asid : Nat
  state : KernelState := .placing
  /-- Value of the completion write: CVAL or the abort code (R180, R200). -/
  completion : Word
  /-- Next linear team id never placed. -/
  nextTeam : Nat := 0
  /-- Reference time since which it has been passed over without a break, and the 1 ms mark (R184). -/
  passedSince : Option Nat := none
  blocking : Bool := false
  /-- Its queue or context was destroyed: no completion write (R182, R198). -/
  silent : Bool := false
  deriving DecidableEq, Repr

/-- State of a queue (R182). -/
inductive QueueState where
  | created | armed | running | draining | suspended | faulted
  deriving DecidableEq, Repr

/-- A queue (R172, R173), keyed by its id; a DESTROYED queue is gone. -/
structure Queue where
  asid : Nat
  maxk : Nat
  poster : Bool
  prio : Nat
  logsize : Nat
  headAddr : DWord
  tailAddr : DWord
  ringBase : DWord
  head : DWord
  /-- The tail the dispatcher last read. -/
  tail : DWord
  /-- Physical address of the tail word when the dispatcher last read it: its line stays watched when the page goes away (R175). -/
  tailPa : Nat := 0
  state : QueueState := .created
  /-- REASON of R178, 0 when not FAULTED. -/
  reason : Nat := 0
  /-- The head word in memory is behind the index (R179). -/
  headUnwritten : Bool := false
  /-- An agent other than the dispatcher has written the tail word's line since the dispatcher last read it (R174, R175). -/
  tailHit : Bool := false
  /-- The splits that wait to post, in the order of their arrival: group, TAG and address of the QPOST (R185). -/
  posts : List (Nat × Nat × DWord) := []
  /-- QSUSPEND waits for the last team (R182). -/
  suspending : Bool := false
  deriving DecidableEq, Repr

/-- State of a context that is not UNBOUND (R141). -/
inductive CtxState where
  | active | faulted | suspending | suspended
  deriving DecidableEq, Repr

/-- A context (R141, R142, R145), keyed by its ASID. -/
structure Ctx where
  /-- Context slot, while resident. -/
  slot : Option Nat
  state : CtxState := .active
  /-- State it returns to after SUSPENDED is FAULTED. -/
  wasFaulted : Bool := false
  traph : DWord := 0
  tqbase : DWord
  tqsize : DWord
  tqhead : DWord := 0
  tqtail : DWord := 0
  tqlost : DWord := 0
  savebase : DWord
  regbase : DWord
  stkbase : DWord
  ptbase : DWord
  spillbase : DWord
  maxteams : Nat
  /-- Bounce buffer (R417): page of each used slot, with the bytes written. -/
  bounce : Map (Nat × List (Nat × Byte)) := []
  /-- Virtual 8-byte words of the bounce buffer's images that are poisoned (R316, R417). -/
  bouncePoison : List Nat := []
  deriving DecidableEq, Repr

/-- State of a polder that is not UNDEFINED (R390). -/
inductive PolderState where
  | empty | active | resizing
  deriving DecidableEq, Repr

/-- The completion write of a resize: context, address and value, and what its trap record would say of the PRESIZE (R348, R406). -/
structure ResizeWrite where
  asid : Nat
  addr : DWord
  value : Word
  pc : DWord
  lanes : Word
  kernel : Nat
  team : Nat
  group : Nat
  split : Nat
  core : Nat
  firmware : Bool
  deriving DecidableEq, Repr

/-- A polder (R383, R385, R390), keyed by its id. Share sets are bit vectors over share ids, as in the grant bitmap. -/
structure Polder where
  state : PolderState
  owner : Nat := 0
  near : List Nat := []
  /-- PLACE is NEAR. -/
  isNear : Bool := false
  repl : Nat := 0
  wpol : Nat := 0
  assoc : Nat := 2
  line : Nat := 1
  grant : BitVec 4096
  current : BitVec 4096
  /-- The set under which lines still lie at their old place, while RESIZING (R392), and whether they lie there as polder 0's (R394). -/
  old : BitVec 4096 := 0
  oldSpread : Bool := false
  degraded : Bool := false
  /-- The completion write of the resize under way (R406). -/
  completion : Option ResizeWrite := none
  deriving DecidableEq, Repr

/-- Who accesses a page, for its class (R396). -/
inductive Accessor where
  | core (id : Nat)
  | host
  | peer (device : Nat)
  | system
  deriving DecidableEq, Repr

/-- Home class of a 64 KiB physical page (R396); an UNOWNED page is absent. -/
inductive PageClass where
  | priv (owner : Accessor) (written : Bool)
  | readOnly
  | shared
  deriving DecidableEq, Repr

/-- Class record: the class, the access stamp in reference time, and whether a reclassification holds accesses (R397). -/
structure ClassRec where
  cls : PageClass
  stamp : Nat := 0
  /-- A reclassification to SHARED is in progress; the flush is not acknowledged everywhere. -/
  held : Bool := false
  /-- Whose accesses it has held and are still to be served, the triggering one first, then in order of arrival, and the master cycle since
  which the first has had its turn (R397). -/
  line : List Accessor := []
  turn : Nat := 0
  deriving DecidableEq, Repr

/-- Sharer state of a directory entry (R398, R399); UNCACHED is `shared []`. -/
inductive Sharers where
  | shared (banks : List Nat)
  | coarse (bits : BitVec 64)
  | owned (bank : Nat)
  deriving DecidableEq, Repr

/-- A directory entry (R398, R401), keyed by its first 128-byte line number; it covers `lines` lines (512 down to 1). -/
structure DirEntry where
  lines : Nat
  sharers : Sharers
  /-- Conflict and fill stamps, as generation and whether marked oldest (R403). -/
  conflict : Nat := 0
  fill : Nat := 0
  conflictOldest : Bool := false
  fillOldest : Bool := false
  /-- Invalidations not yet acknowledged, by bank (R400). -/
  awaiting : List Nat := []
  deriving DecidableEq, Repr

/-- A line held in a bank (R386 to R389). -/
structure BankLine where
  polder : Nat
  share : Nat
  /-- Line number under the polder's line size, and its set and way. -/
  number : Nat
  set_ : Nat
  way : Nat
  dirty : Bool := false
  stamp : Nat := 0
  oldest : Bool := false
  /-- Order of fill, for FIFO. -/
  filled : Nat := 0
  deriving DecidableEq, Repr

/-- A polder bank (R10, R383, R403, R404). -/
structure Bank where
  lines : List BankLine := []
  generation : Nat := 0
  lfsr : BitVec 16 := 1
  /-- Reference time at which it fell asleep, while in retention sleep. -/
  asleep : Option Nat := none
  deriving DecidableEq, Repr

/-- A home agent: the memory-side controller of a store chiplet. -/
structure Home where
  dir : Map DirEntry := []
  /-- Entries given up whose invalidations are not all acknowledged, by their first line (R402). -/
  leaving : Map DirEntry := []
  generation : Nat := 0
  deriving DecidableEq, Repr

/-- The kind of a page access (R414). -/
inductive AccessKind where
  | read | write | atomic | fetch
  deriving DecidableEq, Repr

/-- Who waits for a page (R414). -/
inductive Requester where
  /-- A split parked FAULTED at an access, or at a fetch: group and TAG. -/
  | split (group tag : Nat)
  /-- A copy request: core and slot. -/
  | copy (core slot : Nat)
  /-- The dispatcher, for a queue, and for a QPOST to it (R185). -/
  | dispatcher (queue : Nat) | post (queue : Nat)
  /-- A completion write of a kernel, or of the marker at a queue's head (R178), or of a polder's resize (R406). -/
  | completion (kernel : Nat) | marker (queue : Nat) | resize
  /-- An inbound peer access, by its number (R417, R458). -/
  | inbound (x : Nat)
  /-- A publish or collective engine's write: a pub region's subscription, or a collective (R417). -/
  | publish (region : Nat) | collective (key : Nat)
  /-- The tide machine, for a context's spillway (R441). -/
  | spillway
  deriving DecidableEq, Repr

/-- A page request (R414): ASID, 64 KiB virtual page, kinds and requesters. -/
structure PageReq where
  asid : Nat
  page : Nat
  kinds : List AccessKind
  requesters : List Requester
  /-- The pager has answered RESOLVED, and a replay still waits to issue (R206, R221, R309). -/
  answered : Bool := false
  deriving DecidableEq, Repr

/-- A migration in progress (R420, R422). -/
structure Migration where
  asid : Nat
  page : Nat
  frame : Nat
  target : Nat
  /-- The boundary register b. -/
  bound : Nat := 0
  /-- Set while the engines move lines back (R422). -/
  aborting : Bool := false
  deriving DecidableEq, Repr

/-- A group as a holding set names it (R434): context, launch sequence number, linear team id, group. -/
structure GroupName where
  asid : Nat
  kernel : Nat
  team : Nat
  group : Nat
  deriving DecidableEq, Repr

/-- A quiescent point that a running grace period awaits (R434). -/
structure Quiescence where
  group : Nat
  name : GroupName
  /-- Of a group that has left its core: the core, the number of stores that its L1 had taken, and the peer requests then owed. -/
  left : Option (Nat × Nat × List Nat) := none
  deriving DecidableEq, Repr


/-- The grace period that runs (R432 to R434). -/
structure Grace where
  /-- It has started: the holding set is recorded (R434). -/
  started : Bool := false
  holding : List GroupName := []
  deriving DecidableEq, Repr

/-- The tide machine's record of a context's spillway (R439 to R441). -/
structure Spillway where
  /-- SPILLBASE when the record was made. -/
  base : DWord
  /-- The first reads of the tail and head words are still to come. -/
  starting : Bool := true
  /-- Spill area indices of the oldest entry and of the next one. -/
  head : Nat := 0
  tail : Nat := 0
  /-- The part's own release-ring tail index, and the head value last read. -/
  ringTail : Nat := 0
  ringHead : Nat := 0
  stopped : Bool := false
  deriving DecidableEq, Repr

/-- State of a link (R453). -/
inductive LinkState where
  | up | replay | remap | half | relay | down
  deriving DecidableEq, Repr

/-- A DATA flit in a replay buffer or held by a receiver (R448): SEQ and its 64 payload bytes; for one that a relay carries, its pair and
the ports that it has still to visit after the next one (R452). -/
structure Flit where
  seq : Nat
  payload : List Byte
  pair : Option Nat := none
  path : List Nat := []
  deriving DecidableEq, Repr

/-- A link (R447 to R455): one plane of a directed pair. -/
structure Link where
  state : LinkState := .up
  /-- Replay buffer of the transmitter in the order of sending, the flits that a NAK had it send again and that are not acknowledged, and
  those of them that it has still to send again (R449). A flit is named by its SEQ, one that a relay carries by 4096 × (pair + 1) + SEQ. -/
  replay : List Flit := []
  resent : List Nat := []
  toSend : List Nat := []
  /-- SEQ named by the last NAKs and how many consecutive ones named it (R453). -/
  nakSeq : Nat := 0
  naks : Nat := 0
  /-- Replays since boot (R471). -/
  replays : Nat := 0
  /-- LINKCTL: SWAP and SWFAIL, the SEQ of the MAPSWAP flit and the reference time of the request (R451). -/
  swap : Bool := false
  swfail : Bool := false
  /-- The swap waits for the end of a replay (R453). -/
  swapWait : Bool := false
  swapSeq : Nat := 0
  swapAt : Nat := 0
  /-- The receiver's old ACTIVE half, from the load of a new one until the swap's end is known (R451). -/
  rxOld : Option (List (BitVec 16)) := none
  /-- The flits before the last swap's first one, and the entries of both ends, transmitter first, under which they still travel (R451). -/
  oldFlits : List Nat := []
  before : Option (BitVec 16 × BitVec 16) := none
  deriving DecidableEq, Repr

/-- A directed pair of ports (R447, R448, R452). -/
structure Pair where
  route : BitVec 32 := 0
  nextSeq : Nat := 0
  /-- Next SEQ to deliver, flits received early, and the count of flits delivered to the port logic. -/
  expect : Nat := 0
  early : List Flit := []
  delivered : Nat := 0
  /-- Flits kept by a failed link of the pair, to be sent again before any new one (R454). -/
  resend : List Nat := []
  down : Bool := false
  deriving DecidableEq, Repr

/-- State of a scale-up port (R456). -/
inductive PortState where
  | training | up | replay | down
  deriving DecidableEq, Repr

/-- A request to a peer (R459, R460). -/
structure PeerReq where
  device : Nat
  sent : Nat
  /-- The sluice entry it belongs to, as core and tag with its lanes, or the posted store. -/
  core : Nat
  tag : Option Nat
  lanes : Word
  entry : Option InFlight := none
  pc : DWord := 0
  vaddr : DWord := 0
  asid : Nat := 0
  /-- A collective whose step the neighbour has not answered (R466). -/
  coll : Option Nat := none
  /-- A PSUB request (R470): group and split that wait. -/
  psub : Option (Nat × Nat) := none
  /-- A read that an instruction makes for itself (a record, a WAITA's word): group and split that wait, and its bytes. -/
  waiter : Option (Nat × Nat) := none
  bytes : Nat := 0
  /-- A part of a copy's unit: slot, serial and the box byte where it begins; a CPY.ST's part comes with its bytes (R459). -/
  copy : Option (Nat × Nat × Nat) := none
  piece : Option Piece := none
  deriving DecidableEq, Repr

/-- A subscriber of a pub region (R461, R462). -/
structure Subscriber where
  device : Nat
  copy : DWord
  asid : Nat
  /-- Bytes forwarded and not yet written into the copy: region offset and value, in coherence order. -/
  queue : List (Nat × Byte) := []
  /-- Version doubleword of the copy as the engine last wrote it. -/
  version : DWord := 2
  /-- Versions of batches that ended, with the number of queued bytes they follow. -/
  ends : List (Nat × DWord) := []
  deriving DecidableEq, Repr

/-- A pub region (R461). -/
structure PubRegion where
  asid : Nat
  base : DWord
  pages : Nat
  vaddr : DWord
  subs : List Subscriber := []
  deriving DecidableEq, Repr

/-- A collective in flight (R464 to R467), keyed by the physical address of its descriptor. -/
structure Collective where
  asid : Nat
  /-- The descriptor as read at step 0. -/
  src : DWord
  dst : DWord
  caddr : DWord
  stepAddr : DWord
  cval : Word
  ring : List Nat
  rank : Nat
  shadow : Bool
  op : Nat
  count : Nat
  /-- Steps issued and steps completed, and the first original ring, for a CREFORM. -/
  issued : Nat := 0
  finished : Nat := 0
  /-- The teams that issued the steps not yet completed, in step order. -/
  teams : List Nat := []
  origRing : List Nat
  failed : Option Nat := none
  /-- Complete over a ring that a CREFORM made shorter; later steps have no effect (R466). -/
  done : Bool := false
  /-- The data received for a step that waits at a page or for a bounce slot; the engine tries the step again (R414). -/
  held : Option (List Byte) := none
  deriving DecidableEq, Repr

/-- An access of a peer that waits at a page (R414, R458): the initiating device, the address, the bytes, the operation (0 read,
1 write, 2 + k the atomic of code k) and the data. -/
structure Inbound where
  device : Nat
  addr : Nat
  size : Nat
  code : Nat
  data : List Byte
  deriving DecidableEq, Repr

/-- What the part sends to other devices of the domain and to the host (R458 to R470, R484), beside the requests of `State.peerReqs`. -/
inductive PeerMessage where
  /-- The reply to an inbound access: the bytes read or the old value, or a fault response with its cause; the data carry a soft error
  (R316). -/
  | reply (device : Nat) (r : List Byte ⊕ Cause) (poisoned : Bool := false)
  /-- A byte, or a version, of a pub region's local copy at a subscriber. -/
  | copyByte (device : Nat) (addr : DWord) (b : Byte)
  | copyVersion (device : Nat) (addr version : DWord)
  /-- A collective's data for the next position of the ring. -/
  | chunk (device key step : Nat) (bs : List Byte)
  /-- The answer to a subscription request. -/
  | subscribed (device : Nat) (accepted : Bool)
  /-- The bytes of a host read (R484). -/
  | hostData (bs : List Byte)
  /-- A posted write of the part itself into a peer's frame, by the address that the peer's export context has for it (R408, R458). -/
  | write (device addr : Nat) (bs : List Byte) (poisoned : Bool := false)
  /-- An atomic of a code that the part passes on to a peer's frame, with its operands (R408, R421). -/
  | atomic (device addr code : Nat) (operands : List Byte)
  deriving DecidableEq, Repr

/-- A compute chiplet's own state: shared TLB, rail and trip conditions. -/
structure Chip where
  tlb : List TlbEntry := []
  /-- Core-rail voltage in mV as firmware set it, 0: as at boot (R476). -/
  rail : Nat := 0
  /-- Canary warning unanswered, and the clamp that follows 20 µs of silence (R476, R479). -/
  canary : Bool := false
  canaryAt : Nat := 0
  canaryClamp : Bool := false
  trip : Bool := false
  deriving DecidableEq, Repr

/-- A report to firmware (R150, R153, R455, R476, R479); a limit's chiplet is 16 for the whole package. -/
inductive Report where
  | softError (site : ErrorSite) (uncorrectable : Bool)
  | partialPoison (addr : Nat)
  /-- A store to part of a poisoned 8-byte word of a core's scratchpad, by its offset in its team's (R316). -/
  | partialScratch (core off : Nat)
  | trapDropped (asid : Nat) (addr : DWord)
  | partFailed
  | swapFailed (link : Nat)
  | ageing (plane source : Nat)
  | canary (chip : Nat)
  | limit (chip : Nat)
  | migrationFailed (page : Nat)
  | shareFailed (share : Nat)
  /-- The fence map of a part that stays in reset, through the out-of-band interface (R24). -/
  | fenceMap (map : BitVec 256)
  deriving DecidableEq, Repr

/-- A Filod image as the part keeps it (R488): version and body digest. -/
structure Image where
  version : Nat
  digest : BitVec 256
  deriving DecidableEq, Repr

/-- A canary warning in the ageing log (R480): core, rail voltage in mV, popcount of EFF, temperature in °C, reference time. -/
structure AgeingEntry where
  core : Nat
  rail : Nat
  pattern : Nat
  temperature : Nat
  time : Nat
  deriving DecidableEq, Repr

/-- The configuration image's own record (R26, R480, R488, R489). -/
structure ConfigImage where
  /-- Units recorded faulty, to be fenced at the next boot (R25): FENCEMAP bits and share ids. -/
  fence : BitVec 256 := 0
  fencedShares : BitVec 4096 := 0
  /-- Failed colours, as bits 64 × plane + colour, and comb sources, by 11 × plane + source. -/
  colours : BitVec 128 := 0
  sources : List Nat := []
  ageing : List AgeingEntry := []
  /-- Minimum versions of kinds 1 to 3. -/
  minVersion : Map Nat := []
  /-- The recorded XMSS index (R489). -/
  xmssIndex : Nat := 0
  /-- The body digest of the image in flash that holds this record (R27); none before there is one. -/
  digest : Option (BitVec 256) := none
  deriving DecidableEq, Repr

/-- A background operation of the mailbox (R485, R486). -/
inductive Background where
  | suspend (asid : Nat)
  | qsuspend (queue : Nat)
  | imgload (kind : Nat) (image : Image) (passes : Bool)
  | ckpt (devices : List Nat)
  | ckrestore (devices : List Nat)
  deriving DecidableEq, Repr

/-- The CXL return code of a mailbox command (R485, R486). -/
inductive CxlCode where
  | success | background | busy | unsupported
  deriving DecidableEq, Repr

/-- The mailbox (R485 to R487): the last return code, the OZ7 status and the output payload after it. -/
structure Mailbox where
  code : CxlCode := .success
  status : Nat := 0
  output : List Byte := []
  background : Option Background := none
  deriving DecidableEq, Repr

/-- An IDE key slot (R484, R487): stream, transmit, sub-stream, key set, key and IV bytes. -/
structure IdeKey where
  stream : Nat
  transmit : Bool
  substream : Nat
  keyset : Nat
  key : List Byte
  iv : List Byte
  deriving DecidableEq, Repr

/-- The whole part. The default value of each field is its value after a boot that found every unit healthy. -/
structure State where
  /-- Reference counter, in ns since boot (R4, R481). -/
  time : BitVec 64 := 0
  /-- Master clock cycles since boot (R4, R475). -/
  cycles : Nat := 0
  /-- The model's: events still to come, in order. -/
  agenda : List Instr := []
  /-- The model's: splits, as group and split-table index, whose next instruction is still to be examined in this cycle (R206); the
  arbiters of the cycle have still to choose; the head of `issueQ` has been examined; the instruction that runs now is only examined. -/
  probeQ : List (Nat × Nat) := []
  picking : Bool := false
  probed : Bool := false
  probing : Bool := false
  /-- The model's: splits picked to issue, as group and split-table index, and the one issuing. -/
  issueQ : List (Nat × Nat) := []
  cur : Option (Nat × Nat) := none
  /-- Accesses that their homes hold: they come again in the next master cycle (R397, R453, R484). -/
  again : List Instr := []
  /-- The model's: the counter of free values, and the next object number. -/
  fresh : Nat := 0
  uid : Nat := 1
  /-- Physical memory, device and host, as bytes that differ from what an unlisted address reads as (R13, R408), and the
  poisoned 8-byte words (R316). -/
  mem : List Host.Cell := []
  memPoison : List Nat := []
  /-- Contexts, queues, kernels, teams and groups. A group's key is 32 times its team's key plus its index. -/
  ctxs : Map Ctx := []
  queues : Map Queue := []
  kernels : Map Kernel := []
  teams : Map Team := []
  groups : Map Group := []
  /-- Next launch sequence number (R193). -/
  nextSeq : Nat := 1
  /-- Id last served at each priority (R183). -/
  lastServed : Vector Nat 8 := Vector.replicate 8 1023
  /-- Reference time of the last entry taken (R183). -/
  lastTake : Option Nat := none
  /-- Placer cursor: chiplet and origin position (R194). -/
  cursor : Option (Nat × Nat) := none
  /-- Cores by id and quadrants by 4 × core + quadrant; one that is not listed is as at boot. -/
  cores : Map CoreSt := []
  quads : Map Quad := []
  chips : Map Chip := []
  /-- WTAB of each core, 128 bits (R474); one that is not listed is as at boot. -/
  wtabs : Map (BitVec 128) := []
  /-- Writes of CURCFG and WTAB that take effect at the next cycle (R474): core, register offset, value. -/
  curWrites : List (Nat × Nat × Nat) := []
  /-- Page requests, posted PMIGs (ASID, page, target) and migrations (R414, R420, R428). -/
  pageReqs : List PageReq := []
  pmigs : List (Nat × Nat × Nat) := []
  migrations : List Migration := []
  /-- The PUBLs under way, in the order of their arrival, as group, TAG and pc: the part performs the first one (R426). -/
  publs : List (Nat × Nat × DWord) := []
  /-- Polders, home classes by 64 KiB page, homes, banks (R383 to R404). -/
  polders : Map Polder := [(0, { state := .active, grant := 0, current := BitVec.allOnes 4096 })]
  /-- Completion writes of resizes that wait for their pages (R406, R414). -/
  resizeWrites : List ResizeWrite := []
  classes : Map ClassRec := []
  homes : Map Home := []
  banks : Map Bank := []
  /-- SHAREFAULT (R395). -/
  shareFault : BitVec 4096 := 0
  /-- Tide counter, running and queued grace periods (R432, R433), and quiescent points that await their accesses (R434). -/
  tide : BitVec 64 := 0
  grace : Option Grace := none
  graceQueued : Bool := false
  /-- Grace periods started since boot, which every core compares with those it has seen (R435). -/
  graceStarts : Nat := 0
  quiescent : List Quiescence := []
  spillways : Map Spillway := []
  /-- Links by 2 × (36 i + j) + plane, pairs by 36 i + j; one that is not listed is as at boot (R447). -/
  links : Map Link := []
  pairs : Map Pair := []
  /-- Lane maps (R450): ((2 × port + plane) × 2 + half) × 64 + colour. -/
  laneMaps : Map (BitVec 16) := []
  /-- Comb sources failed, by 11 × plane + source, and rings that are relocking, as plane, spare, position and the reference time of
  the retuning (R17, R455). -/
  failedSources : List Nat := []
  relocking : List (Nat × Nat × Nat × Nat) := []
  /-- Steered spares: plane, spare, position. -/
  steered : List (Nat × Nat × Nat) := []
  /-- Relayed flits that wait at a relay port to go on, oldest first (R452). -/
  relayed : List (Nat × Flit) := []
  ports : Map PortState := []
  portReplays : Map Nat := []
  portMasks : Map (BitVec 20) := []
  /-- Export contexts by initiating device (R458). -/
  exports_ : Map Nat := []
  peerReqs : Map PeerReq := []
  /-- Inbound accesses that wait at a page, and what has been sent to other devices, oldest first (R458). -/
  inbound : Map Inbound := []
  sent : List PeerMessage := []
  pubs : Map PubRegion := []
  colls : Map Collective := []
  /-- FENCEMAP (R26), PWRLIM (R472) and WDLIM (R482). -/
  fenceMap : BitVec 256 := 0
  /-- Compute chiplets that are absent with their interposer ports (R22). -/
  absentChips : BitVec 16 := 0
  plim : Nat := 2400
  ilim : Nat := 5000
  wdlim : Nat := 2 ^ 32
  /-- Reports and interrupts to firmware, oldest first. -/
  reports : List Report := []
  mailbox : Mailbox := {}
  ideKeys : List IdeKey := []
  /-- Lines of device memory that a host cache holds, by 128-byte line number (R484). -/
  hostLines : List Nat := []
  /-- Host lines a back-invalidation snoop waits for, by 128-byte line number (R484). -/
  snoops : List Nat := []
  /-- Images in use by kind, images in flash for the next boot, the configuration image's record (R27, R488). -/
  images : Map Image := []
  flash : Map Image := []
  config : ConfigImage := {}
  /-- The next index of a signature by the device (R489). -/
  xmssNext : Nat := 0
  /-- Safe-tier copy of device memory, by the last CKPT that ended (R491). -/
  safeTier : List Host.Cell := []
  /-- The part stays in reset: fewer than 8 store chiplets or a failed image check (R24), or its supply is gone. -/
  inReset : Bool := false
  deriving DecidableEq, Repr

/-- The part right after a boot that found every unit healthy (R22, R384): no context is bound, no queue exists, T is 0,
launch sequence numbers start at 1. -/
def State.reset : State := {}

end Sys2Proof.Machine
end

