-- ==== Sys2Proof/Machine/Access.lean ====
section
/-! DEFINITION. Where each piece of state is read and written: cores, quadrants, chiplets, groups, splits, registers. -/

namespace Sys2Proof.Machine

/-- A core; one that is not listed is as at boot, each cycle having given it a pulse. -/
def State.core (s : State) (c : Nat) : CoreSt := s.cores.lookD c { pulses := BitVec.ofNat 64 s.cycles }

/-- Replace a core. -/
def State.setCore (s : State) (c : Nat) (x : CoreSt) : State := { s with cores := s.cores.put c x }

/-- Change a core. -/
def State.modCore (s : State) (c : Nat) (f : CoreSt → CoreSt) : State := s.setCore c (f (s.core c))

/-- A quadrant, by 4 × core + quadrant. -/
def State.quad (s : State) (q : Nat) : Quad := s.quads.lookD q {}

/-- Change a quadrant. -/
def State.modQuad (s : State) (q : Nat) (f : Quad → Quad) : State := { s with quads := s.quads.put q (f (s.quad q)) }

/-- A compute chiplet. -/
def State.chip (s : State) (c : Nat) : Chip := s.chips.lookD c {}

/-- Change a compute chiplet. -/
def State.modChip (s : State) (c : Nat) (f : Chip → Chip) : State := { s with chips := s.chips.put c (f (s.chip c)) }

/-- Change a group. -/
def State.modGroup (s : State) (gid : Nat) (f : Group → Group) : State := { s with groups := s.groups.upd gid f }

/-- Change a team. -/
def State.modTeam (s : State) (uid : Nat) (f : Team → Team) : State := { s with teams := s.teams.upd uid f }

/-- Change a kernel. -/
def State.modKernel (s : State) (k : Nat) (f : Kernel → Kernel) : State := { s with kernels := s.kernels.upd k f }

/-- Change a context. -/
def State.modCtx (s : State) (asid : Nat) (f : Ctx → Ctx) : State := { s with ctxs := s.ctxs.upd asid f }

/-- Change a queue. -/
def State.modQueue (s : State) (q : Nat) (f : Queue → Queue) : State := { s with queues := s.queues.upd q f }

/-- Record a report to firmware. -/
def State.report (s : State) (r : Report) : State := { s with reports := s.reports ++ [r] }

/-- A vector register. -/
def Group.vreg (g : Group) (r : Nat) : Lanes := Bits.rd g.v r (Vector.replicate 32 0)

/-- Lane l of a vector register. -/
def Group.vlane (g : Group) (r l : Nat) : Word := Bits.lane (g.vreg r) l

/-- Lane l of the pair r, r + 1 (R5): the lower register holds the low word. -/
def Group.vpair (g : Group) (r l : Nat) : DWord := g.vlane (r + 1) l ++ g.vlane r l

/-- Write a vector register. -/
def Group.setV (g : Group) (r : Nat) (x : Lanes) : Group := { g with v := Bits.wr g.v r x, vPoison := g.vPoison &&& ~~~ (BitVec.twoPow 64 r) }

/-- A g register. -/
def Group.greg (g : Group) (r : Nat) : DWord := Bits.rd g.g r 0

/-- Write a g register; its poison clears (R316). -/
def Group.setG (g : Group) (r : Nat) (x : DWord) : Group := { g with g := Bits.wr g.g r x, gPoison := g.gPoison &&& ~~~ (BitVec.twoPow 64 r) }

/-- Write a mask register; m0 is never written (R94, R204). -/
def Group.setM (g : Group) (k : Nat) (x : Word) : Group :=
  if k = 0 then g else { g with m := Bits.wr g.m k x, mPoison := g.mPoison &&& ~~~ (BitVec.twoPow 8 k) }

/-- A mask register as a split reads it: m0 is the split's MASK (R204). -/
def Group.mreg (g : Group) (sp : Split) (k : Nat) : Word := if k = 0 then sp.mask else Bits.rd g.m k 0

/-- A rejoin register. -/
def Group.jreg (g : Group) (k : Nat) : Word := Bits.rd g.j k 0

/-- Write a rejoin register. -/
def Group.setJ (g : Group) (k : Nat) (x : Word) : Group := { g with j := Bits.wr g.j k x, jPoison := g.jPoison &&& ~~~ (BitVec.twoPow 8 k) }

/-- Raise sticky flags (R46, R47). -/
def Group.raise (g : Group) (f : BitVec 5) : Group := { g with fflags := g.fflags ||| f }

/-- Every split of a group, resident ones by index first, then the stack from its top. -/
def Group.splits (g : Group) : List Split := g.res.map Prod.snd ++ g.stack

/-- The split with a TAG (R204). -/
def Group.byTag (g : Group) (tag : Nat) : Option Split := g.splits.find? fun sp => sp.tag = tag

/-- Change the split with a TAG, resident or stacked. -/
def Group.modTag (g : Group) (tag : Nat) (f : Split → Split) : Group :=
  { g with
    res := g.res.map fun p => if p.2.tag = tag then (p.1, f p.2) else p
    stack := g.stack.map fun sp => if sp.tag = tag then f sp else sp }

/-- The lowest TAG that no split of the group has (R204). -/
def Group.freeTag (g : Group) : Nat := ((List.range 33).find? fun t => (g.byTag t).isNone).getD 32

/-- Change a resident split. -/
def Group.modRes (g : Group) (k : Nat) (f : Split → Split) : Group := { g with res := g.res.upd k f }

/-- Change a resident split of a group. -/
def State.modSplit (s : State) (gid k : Nat) (f : Split → Split) : State := s.modGroup gid fun g => g.modRes k f

/-- Change a split by TAG. -/
def State.modTag (s : State) (gid tag : Nat) (f : Split → Split) : State := s.modGroup gid fun g => g.modTag tag f

/-- The key of group `index` of a team. -/
def groupKey (team index : Nat) : Nat := 32 * team + index

/-- The number of the current issue slot of a core's quadrants: their arbiters have a cycle at each pulse (R4, R475). -/
def State.slotNow (s : State) (core : Nat) : Nat := (s.core core).pulses.toNat

/-- The quadrant in which a group is resident (R189): 4 × core + (group mod 4). -/
def quadOf (t : Team) (g : Group) : Nat := 4 * t.core + g.index % 4

/-- The groups of a team, with their keys. -/
def State.teamGroups (s : State) (uid : Nat) : List (Nat × Group) := s.groups.filter fun p => p.2.team = uid

/-- The teams of a kernel. -/
def State.kernelTeams (s : State) (kseq : Nat) : List (Nat × Team) := s.teams.filter fun p => p.2.kernel = kseq

/-- The band size of a launch (R189). -/
def Launch.bandSize (l : Launch) : Nat := l.bandR * l.bandC

/-- The team in a band slot of the band of team t, resident or retired with its barriers kept. -/
def State.bandTeam (s : State) (t : Team) (n bslot : Nat) : Option (Nat × Team) :=
  s.teams.find? fun p => p.2.kernel = t.kernel && p.2.linear == t.linear / n * n + bslot

end Sys2Proof.Machine
end

