-- ==== Sys2Proof/Machine/Naming.lean ====
section
/-! DEFINITION. Physical registers named by content, and the reuse table (R235 to R241, R247 to R255). The architectural value
of a vector register is held by its group; this file keeps the names, which only timing, the counters and reuse show. -/

namespace Sys2Proof.Machine

/-- The home set of a value (R236): CRC-16, polynomial 0x1021, initial 0xFFFF, mod 240. -/
def homeSet (x : Lanes) : Nat := (Bits.crc (0x1021 : BitVec 16) 0xFFFF (Bits.laneBytes x)).toNat % 240

/-- Remove the reuse entries that a test names, counting them (R253, R255). -/
def Quad.killReuse (q : Quad) (p : ReuseEntry → Bool) : Quad :=
  { q with
    reuse := q.reuse.filter fun e => !p e
    kills := q.kills + BitVec.ofNat 64 (q.reuse.filter p).length }

/-- Kill the reuse entries of one quadrant that a test names. -/
def State.killReuse (s : State) (q : Nat) (p : ReuseEntry → Bool) : State :=
  if (s.quad q).reuse.any p then s.modQuad q fun x => x.killReuse p else s

/-- Kill every reuse entry of a quadrant: an acquire at team scope or wider (R253). -/
def State.killQuad (s : State) (q : Nat) : State := s.killReuse q fun _ => true

/-- The four quadrants of a core. -/
def quadsOf (core : Nat) : List Nat := [4 * core, 4 * core + 1, 4 * core + 2, 4 * core + 3]

/-- Kill in a core the global-load entries that touch one of the given physical 64 KiB pages (R251). -/
def State.killPages (s : State) (core : Nat) (pages : List Nat) : State :=
  (quadsOf core).foldl (fun s q => s.killReuse q fun e => e.pages.any fun p => pages.contains p) s

/-- Kill in every listed core the global-load entries of a page (R251, R397). -/
def State.killPageEverywhere (s : State) (page : Nat) : State :=
  s.quads.keys.foldl (fun s q => s.killReuse q fun e => e.pages.contains page) s

/-- Advance a core's scratchpad generation; on the wrap every scratchpad-load entry of the core dies (R252). -/
def State.bumpScratch (s : State) (core : Nat) : State :=
  let g := (s.core core).scratchGen + 1
  if g = 2 ^ 32 then
    (quadsOf core).foldl (fun s q => s.killReuse q fun e => e.key.generation.isSome) (s.modCore core fun x => { x with scratchGen := 0 })
  else s.modCore core fun x => { x with scratchGen := g }

/-- The reference count of a physical name (R238): rename-map entries of the quadrant's groups, and landing registers. -/
def State.nameRefs (s : State) (q name : Nat) : Nat :=
  (s.groups.map fun p =>
    match s.teams.look p.2.team with
    | some t => if quadOf t p.2 = q then p.2.names.toList.count name else 0
    | none => 0).sum
  + ((s.core (q / 4)).sluice.map fun e =>
      match s.groups.look e.2.group with
      | some g => if g.index % 4 = q % 4 then e.2.landing.count name else 0
      | none => 0).sum
  + ((s.core (q / 4)).matrixQ.map fun e =>
      match e.op with
      | .drain gid _ _ landing _ _ =>
        match s.groups.look gid with
        | some g => if g.index % 4 = q % 4 && landing == name then 1 else 0
        | none => 0
      | _ => 0).sum

/-- The physical names that an entry holds: its results, its sources, and the previous names of its destinations. -/
def ReuseEntry.names (e : ReuseEntry) : List Nat := e.results ++ e.key.sources ++ (e.key.mask.map Prod.snd).getD []

/-- Free a name that nothing references: it leaves the pool and the reuse entries that name it die (R238). R253 names results and
sources; an entry whose key names the freed previous destination dies too, or a hit would give the inactive lanes of another value
(R7, R250; DEDUCED, log entry 60). -/
def State.releaseName (s : State) (q name : Nat) : State :=
  if s.nameRefs q name = 0 then
    (s.killReuse q fun e => e.names.contains name).modQuad q
      fun x => { x with pool := x.pool.del name }
  else s

/-- A free name outside the home set: the lowest free overflow register, otherwise the lowest free way of the lowest set with
one (R237, R240). The stall of R237 before the last step is `State.placeStalls`. -/
def Quad.freeName (q : Quad) : Nat :=
  match Map.freeKey q.pool 1920 2048 with
  | some n => n
  | none => (Map.freeKey q.pool 0 1920).getD 0

/-- The way of the home set that holds a value, live, not poisoned, not landing (R237). -/
def Quad.holder (q : Quad) (x : Lanes) : Option Nat :=
  let set := homeSet x
  ((List.range 8).map fun w => 8 * set + w).find? fun n =>
    match q.pool.look n with
    | some r => !r.poison && !r.landing && r.value == x
    | none => false

/-- place() of R237: the name for a complete value, and the pool that holds it. -/
def Quad.place (q : Quad) (x : Lanes) : Nat × Quad :=
  match q.holder x with
  | some n => (n, q)
  | none =>
    let set := homeSet x
    let n := (Map.freeKey q.pool (8 * set) (8 * set + 8)).getD q.freeName
    (n, { q with pool := q.pool.put n { value := x } })

/-- No overflow register of the quadrant is free (R206, R237). -/
def Quad.overflowFull (q : Quad) : Bool := (Map.freeKey q.pool 1920 2048).isNone

/-- A later state of a quadrant holds a register taken in the last step of place(): a way of a foreign set, or a way as a landing
register (R237, R240). -/
def Quad.tookForeign (before after : Quad) : Bool :=
  after.pool.any fun p =>
    p.1 < 1920 && (before.pool.look p.1).isNone && (p.2.landing || homeSet p.2.value != p.1 / 8)

/-- Give register r of a group a name; its previous name loses a reference (R238). -/
def State.rename (s : State) (q gid r name : Nat) : State :=
  match s.groups.look gid with
  | none => s
  | some g =>
    let old := Bits.rd g.names r 2048
    if old = name then s
    else (s.modGroup gid fun g => { g with names := Bits.wr g.names r name }).releaseName q old

/-- Name the value that register r of a group now holds (R237, R239). -/
def State.nameReg (s : State) (q gid r : Nat) : State :=
  match s.groups.look gid with
  | none => s
  | some g =>
    let p := (s.quad q).place (g.vreg r)
    (s.modQuad q fun _ => p.2).rename q gid r p.1

/-- Name the values of n registers from d. -/
def State.nameRegs (s : State) (q gid d n : Nat) : State := (List.range n).foldl (fun s k => s.nameReg q gid (d + k)) s

/-- Take a landing register holding a value (R240). -/
def State.takeLanding (s : State) (q : Nat) (x : Lanes) : Nat × State :=
  let n := (s.quad q).freeName
  (n, s.modQuad q fun y => { y with pool := y.pool.put n { value := x, landing := true } })

/-- Finish a landing register: if the home set holds an equal value the destination takes that name, otherwise the
landing register keeps the value under its own name (R240). The group's register already holds the value. -/
def State.finishLanding (s : State) (q gid r landing : Nat) : State :=
  match s.groups.look gid with
  | none => s.releaseName q landing
  | some g =>
    let x := g.vreg r
    match (s.quad q).holder x with
    | some n => ((s.rename q gid r n).releaseName q landing)
    | none => s.modQuad q fun y => { y with pool := y.pool.upd landing fun p => { p with value := x, landing := false } }

/-- The reuse entry that a key hits (R249). -/
def State.reuseFind (s : State) (q : Nat) (k : ReuseKey) : Option ReuseEntry := (s.quad q).reuse.find? fun e => e.key == k

/-- Count a lookup. -/
def State.countLookup (s : State) (q : Nat) : State := s.modQuad q fun x => { x with lookups := x.lookups + 1 }

/-- A register takes the value and the name of a live physical register. -/
def Group.takeName (g : Group) (r name : Nat) (p : PhysReg) : Group :=
  let g := g.setV r p.value
  let g := if p.poison then { g with vPoison := g.vPoison ||| BitVec.twoPow 64 r } else g
  { g with names := Bits.wr g.names r name }

/-- A hit: the entry becomes the most recent, the destinations take its result names and values, then their previous names lose their
references, and its flags are raised (R249). -/
def State.reuseHit (s : State) (q gid d : Nat) (e : ReuseEntry) : State :=
  let s := s.modQuad q fun x => { x with hits := x.hits + 1, reuse := (x.reuse.filter fun y => y != e) ++ [e] }
  let pool := (s.quad q).pool
  let old := match s.groups.look gid with
    | some g => (List.range e.results.length).map fun k => Bits.rd g.names (d + k) 2048
    | none => []
  let s := s.modGroup gid fun g =>
    ((List.range e.results.length).foldl (fun (g : Group) k =>
      match pool.look (e.results.getD k 2048) with
      | some p => g.takeName (d + k) (e.results.getD k 2048) p
      | none => g) g).raise e.flags
  old.foldl (fun s n => s.releaseName q n) s

/-- Make a reuse entry; a full table loses its least recently made or hit one (R249). An entry of which a register has been freed by
the instruction itself dies at once (R253). -/
def State.reuseMake (s : State) (q : Nat) (e : ReuseEntry) : State :=
  let s := s.modQuad q fun x =>
    { x with
      made := x.made + 1
      reuse := (if 256 ≤ x.reuse.length then x.reuse.drop 1 else x.reuse) ++ [e] }
  if e.names.all fun n => ((s.quad q).pool.look n).isSome then s else s.killReuse q fun x => x == e

/-- A value is stored uniform or compressed (R241). -/
def compressed (x : Lanes) : Bool :=
  (List.range 32).all fun l =>
    let d := (Bits.lane x l - Bits.lane x 0).toInt
    decide (d ≥ -128) && decide (d ≤ 127)

end Sys2Proof.Machine
end

