-- ==== Sys2Proof/Machine/Mem.lean ====
section
/-! DEFINITION. A sparse byte memory in one canonical form: addresses strictly rising, no byte equal to zero, which is what
an unlisted address reads as. It holds physical memory (R408), a team's scratchpad (R305) and the scale store (R57). -/

namespace Sys2Proof.Memory

/-- What an unlisted address reads as. DESIGN CHOICE (log entry 2) for device and host memory; R305 and R358 state it for
the scratchpad and the scale store. -/
def unlisted : Byte := 0

/-- One byte. -/
def byte (m : List Host.Cell) (a : Nat) : Byte :=
  match m with
  | [] => unlisted
  | (a', b) :: rest => if a' = a then b else if a < a' then unlisted else byte rest a

/-- Write one byte, keeping the canonical form. -/
def setByte (m : List Host.Cell) (a : Nat) (b : Byte) : List Host.Cell :=
  match m with
  | [] => if b = unlisted then [] else [(a, b)]
  | (a', c) :: rest =>
    if a < a' then if b = unlisted then (a', c) :: rest else (a, b) :: (a', c) :: rest
    else if a = a' then if b = unlisted then rest else (a, b) :: rest
    else (a', c) :: setByte rest a b

/-- The n bytes from address a upward. -/
def bytes (m : List Host.Cell) (a n : Nat) : List Byte := (List.range n).map fun k => byte m (a + k)

/-- Write bytes from address a upward. -/
def setBytes (m : List Host.Cell) (a : Nat) (bs : List Byte) : List Host.Cell :=
  match bs with
  | [] => m
  | b :: rest => setBytes (setByte m a b) (a + 1) rest

/-- The number whose little-endian bytes are given (R3). -/
def toNat (bs : List Byte) : Nat :=
  match bs with
  | [] => 0
  | b :: rest => b.toNat + 256 * toNat rest

/-- The n little-endian bytes of a number (R3). -/
def ofNat (n v : Nat) : List Byte :=
  match n with
  | 0 => []
  | n + 1 => BitVec.ofNat 8 v :: ofNat n (v / 256)

/-- The number of n little-endian bytes at address a. -/
def read (m : List Host.Cell) (a n : Nat) : Nat := toNat (bytes m a n)

/-- Write a number as n little-endian bytes at address a. -/
def write (m : List Host.Cell) (a n v : Nat) : List Host.Cell := setBytes m a (ofNat n v)

/-- Every listed byte below address `lo`, or at or above `hi`, is kept; the rest reads as zero. -/
def clearRange (m : List Host.Cell) (lo hi : Nat) : List Host.Cell := m.filter fun c => c.1 < lo || hi ≤ c.1

/-- The canonical form holds: addresses strictly rise and no byte equals what an unlisted address reads as. -/
def wf (m : List Host.Cell) : Bool :=
  match m with
  | [] => true
  | [(_, b)] => b != unlisted
  | (a, b) :: (a', b') :: rest => b != unlisted && a < a' && wf ((a', b') :: rest)

end Sys2Proof.Memory
end

