-- ==== Sys2Proof/Machine/Phys.lean ====
section
/-! DEFINITION. Physical addresses and the bytes behind them (R13, R316, R408, R420, R421, R423). -/

namespace Sys2Proof.Machine

/-- Store chiplets in service, ascending, from FENCEMAP (R26, R423). -/
def State.stores (s : State) : List Nat := (List.range 16).filter fun n => !s.fenceMap.getLsbD (192 + n)

/-- n: the count of store chiplets in service. -/
def State.survivors (s : State) : Nat := s.stores.length

/-- Device memory bytes: n × 48 GiB (R423). -/
def State.deviceBytes (s : State) : Nat := 48 * 2 ^ 30 * s.survivors

/-- Where a physical address lies (R408). -/
inductive PaKind where
  | device | host | peer (d : Nat) | nothing
  deriving DecidableEq, Repr

/-- The address at which an access translated to a is performed: a line of a migrating page below the boundary register is
performed at the new frame (R421). -/
def State.redirect (s : State) (a : Nat) : Nat :=
  match s.migrations.find? (fun m => m.frame = a / 65536 && a % 65536 / 128 < m.bound) with
  | some m => m.target * 65536 + a % 65536
  | none => a

/-- The range in which a physical address lies. A frame that names the device's own number in the peer range is invalid (R408). -/
def State.rangeKind (s : State) (a : Nat) : PaKind :=
  if a < s.deviceBytes then .device
  else if 2 ^ 48 ≤ a ∧ a < 2 ^ 49 then .host
  else if 2 ^ 51 ≤ a ∧ a < 2 ^ 51 + 64 * 2 ^ 40 then
    if (a - 2 ^ 51) / 2 ^ 40 = Config.deviceNumber.toNat then .nothing else .peer ((a - 2 ^ 51) / 2 ^ 40)
  else .nothing

/-- The kind of the address at which an access translated to `a` is performed (R408, R421). -/
def State.paKind (s : State) (a : Nat) : PaKind := s.rangeKind (s.redirect a)

/-- The store chiplet on which the byte at a device address lies, with n survivors (R13, R423). -/
def State.storeOf (s : State) (a : Nat) : Nat :=
  if s.survivors = 16 then ((a / 2 ^ 8 % 16) ^^^ (a / 2 ^ 16 % 16)) ^^^ ((a / 2 ^ 24 % 16) ^^^ (a / 2 ^ 32 % 16))
  else
    let n := s.survivors
    let g := a / 256
    s.stores.getD ((g % n + g / n % n) % n) 0

/-- The store-local address of the byte at a device address (R13, R423). -/
def State.localOf (s : State) (a : Nat) : Nat :=
  if s.survivors = 16 then a / 2 ^ 12 % 2 ^ 28 * 256 + a % 256 else a / 256 / s.survivors * 256 + a % 256

/-- One byte at a physical address. -/
def State.physByte (s : State) (a : Nat) : Byte := Memory.byte s.mem (s.redirect a)

/-- The n bytes at a physical address. -/
def State.physBytes (s : State) (a n : Nat) : List Byte := (List.range n).map fun k => s.physByte (a + k)

/-- The n-byte little-endian number at a physical address. -/
def State.physRead (s : State) (a n : Nat) : Nat := Memory.toNat (s.physBytes a n)

/-- Some byte of [a, a + n) lies in a poisoned 8-byte word (R316). -/
def State.physPoisoned (s : State) (a n : Nat) : Bool := (List.range n).any fun k => s.memPoison.contains (s.redirect (a + k) / 8)

/-- Bytes at a physical address change. A poisoned 8-byte word that the write covers wholly is cleared; one written in part
stays poisoned and is reported (R316). -/
def State.rawWrite (s : State) (a : Nat) (bs : List Byte) : State :=
  let cells := (List.range bs.length).map fun k => (s.redirect (a + k), bs.getD k 0)
  let mem := cells.foldl (fun m c => Memory.setByte m c.1 c.2) s.mem
  if s.memPoison.isEmpty then { s with mem := mem }
  else
    let words := (cells.map fun c => c.1 / 8).eraseDups
    let covered := fun w => (List.range 8).all fun k => cells.any fun c => c.1 == 8 * w + k
    let hit := words.filter fun w => s.memPoison.contains w
    { s with
      mem := mem
      memPoison := s.memPoison.filter fun w => !(hit.contains w && covered w)
      reports := s.reports ++ (hit.filter fun w => !covered w).map fun w => Report.partialPoison (8 * w) }

/-- Poison every 8-byte word that [a, a + n) touches (R316). -/
def State.physPoison (s : State) (a n : Nat) : State :=
  let words := ((List.range n).map fun k => s.redirect (a + k) / 8).eraseDups
  { s with memPoison := s.memPoison ++ words.filter fun w => !s.memPoison.contains w }

/-- Scratchpad bytes of a team. -/
def Team.scratchBytes (t : Team) (off n : Nat) : List Byte := Memory.bytes t.scratch off n

/-- Some byte of the scratchpad range lies in a poisoned 8-byte word. -/
def Team.scratchPoisoned (t : Team) (off n : Nat) : Bool := (List.range n).any fun k => t.scratchPoison.contains ((off + k) / 8)

/-- Write scratchpad bytes: a poisoned word is cleared only when covered wholly (R316). -/
def Team.scratchWrite (t : Team) (off : Nat) (bs : List Byte) : Team :=
  let covered := fun w => off ≤ 8 * w && 8 * w + 8 ≤ off + bs.length
  { t with
    scratch := Memory.setBytes t.scratch off bs
    scratchPoison := t.scratchPoison.filter fun w => !covered w }

/-- The poisoned words of a scratchpad that a write of n bytes covers in part, by their offsets (R316). -/
def Team.partialWords (t : Team) (off n : Nat) : List Nat :=
  (t.scratchPoison.filter fun w => decide (off < 8 * w + 8 ∧ 8 * w < off + n) && !decide (off ≤ 8 * w ∧ 8 * w + 8 ≤ off + n)).map (8 * ·)

/-- Write bytes into a team's scratchpad; a poisoned word written in part stays poisoned and is reported (R316). -/
def State.scratchWrite (s : State) (uid off : Nat) (bs : List Byte) : State :=
  match s.teams.look uid with
  | none => s
  | some t =>
    { s.modTeam uid (fun t => t.scratchWrite off bs) with
      reports := s.reports ++ (t.partialWords off bs.length).map (Report.partialScratch t.core) }

/-- Poison the 8-byte words that a scratchpad range touches. -/
def Team.scratchPoisonAt (t : Team) (off n : Nat) : Team :=
  let words := ((List.range n).map fun k => (off + k) / 8).eraseDups
  { t with scratchPoison := t.scratchPoison ++ words.filter fun w => !t.scratchPoison.contains w }

end Sys2Proof.Machine
end

