-- ==== Sys2Proof/Machine/Walk.lean ====
section
/-! DEFINITION. Address checks and translation (R58 to R60, R391, R408 to R412). -/

namespace Sys2Proof.Machine

/-- Canonical form (R58): bits [63:56] all equal. -/
def canonical (v : Nat) : Bool := v < 2 ^ 56 || (2 ^ 64 - 2 ^ 56 ≤ v && v < 2 ^ 64)

/-- Every byte of an n-byte access is canonical, in one half, without wrapping (R58). -/
def canonicalRange (v n : Nat) : Bool :=
  (v + n ≤ 2 ^ 56) || (2 ^ 64 - 2 ^ 56 ≤ v && v + n ≤ 2 ^ 64)

/-- The address lies in the system window (R58). -/
def inWindow (v : Nat) : Bool := 2 ^ 64 - 2 ^ 56 ≤ v

/-- What a walk ends with (R411). -/
inductive WalkEnd where
  /-- A present leaf: the entry, the page size in address bits (16, 21 or 30), and the entry's own physical address. -/
  | leaf (pte : BitVec 64) (bits at_ : Nat)
  /-- Not present at a level, with the entry and its address. -/
  | absent (level : Nat) (entry : BitVec 64) (at_ : Nat)
  | malformed
  deriving DecidableEq, Repr

/-- The index of a virtual address at a level (R409). -/
def walkIndex (level v : Nat) : Nat :=
  match level with
  | 0 => v / 2 ^ 48 % 512
  | 1 => v / 2 ^ 39 % 512
  | 2 => v / 2 ^ 30 % 512
  | 3 => v / 2 ^ 21 % 512
  | _ => v / 2 ^ 16 % 32

/-- The address bits a leaf of a level maps (R409). -/
def leafBits (level : Nat) : Nat := if level = 2 then 30 else if level = 3 then 21 else 16

/-- The physical base of a leaf's frame (R410). -/
def leafFrame (pte : BitVec 64) : Nat := (pte.extractLsb' 16 36).toNat * 65536

/-- A well-formed leaf at a level (R410, R411). -/
def State.leafOk (s : State) (pte : BitVec 64) (level : Nat) : Bool :=
  2 ≤ level && pte.extractLsb' 52 4 == 0 && pte.extractLsb' 8 8 == 0 && !pte.getLsbD 5
  && (level == 4 || (!pte.getLsbD 7 && !pte.getLsbD 6))
  && leafFrame pte % 2 ^ leafBits level == 0
  && s.rangeKind (leafFrame pte) != .nothing && s.rangeKind (leafFrame pte + 2 ^ leafBits level - 1) == s.rangeKind (leafFrame pte)

/-- A not-present entry at a level that is not malformed (R410, R411): no reserved bit is set, and B = 1 at level 4 only. SLOT has no part
in it. -/
def absentOk (pte : BitVec 64) (level : Nat) : Bool :=
  pte.extractLsb' 28 4 == 0 && pte.extractLsb' 6 10 == 0 && pte.extractLsb' 1 4 == 0 && (!pte.getLsbD 5 || level == 4)

/-- A well-formed table entry at a level (R410, R411): NEXT in device memory, aligned to the next table. -/
def State.tableOk (s : State) (pte : BitVec 64) (level : Nat) : Bool :=
  level < 4 && pte.extractLsb' 52 12 == 0 && pte.extractLsb' 2 6 == 0
  && (level == 3 || pte.extractLsb' 8 4 == 0)
  && s.rangeKind ((pte.extractLsb' 8 44).toNat * 256) == .device

/-- The walk from a table of a level at a physical address (R409, R411); each entry is one 8-byte read at its home. -/
def State.walkFrom (s : State) (v : Nat) (table level fuel : Nat) : WalkEnd :=
  match fuel with
  | 0 => .malformed
  | fuel + 1 =>
    let at_ := table + 8 * walkIndex level v
    let pte := BitVec.ofNat 64 (s.physRead at_ 8)
    if !pte.getLsbD 0 then if absentOk pte level then .absent level pte at_ else .malformed
    else if pte.getLsbD 1 then if s.leafOk pte level then .leaf pte (leafBits level) at_ else .malformed
    else if s.tableOk pte level then s.walkFrom v ((pte.extractLsb' 8 44).toNat * 256) (level + 1) fuel
    else .malformed

/-- The walk of a context's tables for a canonical address (R409). -/
def State.walk (s : State) (c : Ctx) (v : Nat) : WalkEnd := s.walkFrom v (c.ptbase.toNat / 4096 * 4096) 0 5

/-- The offset in a pub region of the byte at a physical address, if a page of the region lies there (R461). -/
def State.regionOffset (s : State) (r : PubRegion) (pa : Nat) : Option Nat :=
  match s.ctxs.look r.asid with
  | none => none
  | some c =>
    (List.range r.pages).findSome? fun k =>
      let v := r.base.toNat + 65536 * k
      match s.walk c v with
      | .leaf pte bits _ => if (leafFrame pte + v % 2 ^ bits) / 65536 = pa / 65536 then some (65536 * k + pa % 65536) else none
      | _ => none

/-- A write to the bytes of a pub region is forwarded to its subscribers (R462). -/
def State.forward (s : State) (a : Nat) (bs : List Byte) : State :=
  if s.pubs.all fun r => r.2.subs.isEmpty then s
  else
    { s with
      pubs := s.pubs.map fun r =>
        if r.2.subs.isEmpty then r
        else
          let new := (List.range bs.length).filterMap fun k => (s.regionOffset r.2 (a + k)).map fun o => (o, bs.getD k 0)
          (r.1, { r.2 with subs := r.2.subs.map fun x => { x with queue := x.queue ++ new } }) }

/-- The access kinds that a leaf permits (R410, R411). -/
def permits (pte : BitVec 64) (k : AccessKind) : Bool :=
  match k with
  | .read => pte.getLsbD 2
  | .write => pte.getLsbD 3
  | .atomic => pte.getLsbD 2 && pte.getLsbD 3
  | .fetch => pte.getLsbD 4

/-- R60 order 6: the polder is ACTIVE or RESIZING (R391). -/
def State.polderOk (s : State) (p : Nat) : Bool :=
  match s.polders.look p with
  | some d => d.state != .empty
  | none => false

/-- The translation of one address: the physical address with the leaf, or the cause (R60 orders 4 to 6, R411). -/
inductive Translation where
  | ok (pa : Nat) (pte : BitVec 64) (bits : Nat)
  | cause (c : Cause)
  deriving DecidableEq, Repr

/-- Checks 5 and 6 of R60 on a present leaf. -/
def State.useLeaf (s : State) (pte : BitVec 64) (bits v : Nat) (k : AccessKind) : Translation :=
  if !permits pte k then .cause .perm
  else if !s.polderOk (pte.extractLsb' 56 8).toNat then .cause .polderShare
  else .ok (leafFrame pte + v % 2 ^ bits) pte bits

/-- The TLB entry of an ASID that covers an address. -/
def tlbFind (t : List TlbEntry) (asid v : Nat) : Option TlbEntry :=
  t.find? fun e => e.asid = asid && e.vpage = v / 2 ^ e.bits

/-- Translate through a core's first-level TLB and its chiplet's shared TLB, then by a walk (R409 to R412). -/
def State.translate (s : State) (core asid v : Nat) (k : AccessKind) : Translation :=
  match tlbFind ((s.core core).tlb ++ (s.chip (core / 12)).tlb) asid v with
  | some e => s.useLeaf e.leaf e.bits v k
  | none =>
    match s.ctxs.look asid with
    | none => .cause .page
    | some c =>
      match s.walk c v with
      | .leaf pte bits _ => s.useLeaf pte bits v k
      | .absent _ _ _ => .cause .page
      | .malformed => .cause .perm

/-- Insert a translation, the oldest leaving a full TLB (R412). DESIGN CHOICE: first in, first out (log entry 10). -/
def tlbInsert (t : List TlbEntry) (cap : Nat) (e : TlbEntry) : List TlbEntry :=
  if t.contains e then t else (if cap ≤ t.length then t.drop 1 else t) ++ [e]

/-- Remember in the TLBs the leaf that a walk found for an address: present leaves only (R412). -/
def State.fillTlb (s : State) (core asid v : Nat) : State :=
  match tlbFind ((s.core core).tlb ++ (s.chip (core / 12)).tlb) asid v with
  | some _ => s
  | none =>
    match s.ctxs.look asid with
    | none => s
    | some c =>
      match s.walk c v with
      | .leaf pte bits _ =>
        let e : TlbEntry := { asid := asid, vpage := v / 2 ^ bits, bits := bits, leaf := pte }
        (s.modCore core fun x => { x with tlb := tlbInsert x.tlb 128 e }).modChip (core / 12)
          fun x => { x with tlb := tlbInsert x.tlb 4096 e }
      | _ => s

/-- Drop from every TLB of the device the entries that a test names (R412, R427). -/
def State.dropTlb (s : State) (p : TlbEntry → Bool) : State :=
  { s with
    cores := s.cores.map fun c => (c.1, { c.2 with
      tlb := c.2.tlb.filter fun e => !p e
      walkTlb := c.2.walkTlb.filter fun e => !p e })
    chips := s.chips.map fun c => (c.1, { c.2 with tlb := c.2.tlb.filter fun e => !p e }) }

/-- Every entry of an ASID that overlaps the virtual range [lo, hi) (R427). -/
def coversRange (asid lo hi : Nat) (e : TlbEntry) : Bool :=
  e.asid == asid && e.vpage * 2 ^ e.bits < hi && lo < (e.vpage + 1) * 2 ^ e.bits

/-- The checks of R60 on one global access of `size` bytes that must be aligned to `align`, in a mode, for an access
kind: the physical address of its first byte, or the cause. -/
def State.checkGlobal (s : State) (core asid : Nat) (firmware : Bool) (v size align : Nat) (k : AccessKind) : Translation :=
  if !canonicalRange v size then .cause .noncanon
  else if v % align != 0 then .cause .misalign
  else if inWindow v && !firmware then .cause .perm
  else s.translate core asid v k

/-- The checks of R60 by an agent outside the cores (dispatcher, tide machine, trap queue), with a walk and no TLB. -/
def State.checkSystem (s : State) (asid : Nat) (v size align : Nat) (k : AccessKind) : Translation :=
  if !canonicalRange v size then .cause .noncanon
  else if v % align != 0 then .cause .misalign
  else
    match s.ctxs.look asid with
    | none => .cause .page
    | some c =>
      match s.walk c v with
      | .leaf pte bits _ => s.useLeaf pte bits v k
      | .absent _ _ _ => .cause .page
      | .malformed => .cause .perm

/-- Physical address of the tail word that the dispatcher watches (R175). -/
def State.watchedTail (s : State) (q : Queue) : Nat :=
  match s.checkSystem q.asid q.tailAddr.toNat 8 8 .read with
  | .ok pa _ _ => pa
  | .cause _ => q.tailPa

/-- A write of n bytes at a physical address touches the tail word of a queue, when only QPOST posts to it, or its line (R174, R175). -/
def State.touchesTail (s : State) (q : Queue) (a n : Nat) : Bool :=
  let pa := s.watchedTail q
  q.state != .created && if q.poster then decide (a < pa + 8) && decide (pa < a + n)
    else decide (a / 128 ≤ pa / 128) && decide (pa / 128 ≤ (a + n - 1) / 128)

/-- The dispatcher's watch on the tail words sees a write (R175). -/
def State.watch (s : State) (a n : Nat) : State :=
  if s.queues.any fun q => s.touchesTail q.2 a n then
    { s with queues := s.queues.map fun q => (q.1, if s.touchesTail q.2 a n then { q.2 with tailHit := true } else q.2) }
  else s

/-- Write bytes at a physical address: an event at their home (R14, R175, R462). -/
def State.physWrite (s : State) (a : Nat) (bs : List Byte) : State := ((s.rawWrite a bs).forward a bs).watch a bs.length

end Sys2Proof.Machine
end

