-- ==== Sys2Proof/Machine/Banks.lean ====
section
/-! DEFINITION. Polder banks, homes and the directory entries that homes keep (R398 to R404). A bank's lines carry no data here: data
lie at their home (DEDUCED, log entry 13). -/

namespace Sys2Proof.Machine

/-- A generation tick count of the reference time (R403): one tick each 2 µs. -/
def State.tick (s : State) : Nat := s.time.toNat / 2000

/-- An event comes after those that are still to come. -/
def State.later (s : State) (i : Instr) : State := { s with agenda := s.agenda ++ [i] }

/-- An access that its home holds comes again in the next master cycle (R397, R453, R484). -/
def State.holdUntil (s : State) (i : Instr) : State := { s with again := s.again ++ [i] }

/-! ### Banks -/

/-- A bank; one that is not listed is empty, its generation that of the reference time. -/
def State.bank (s : State) (b : Nat) : Bank := s.banks.lookD b { generation := s.tick % 65536 }

/-- Change a bank. -/
def State.modBank (s : State) (b : Nat) (f : Bank → Bank) : State := { s with banks := s.banks.put b (f (s.bank b)) }

/-- A bank wakes (R404): its generation advances by the ticks that it slept; after half a period every stamp is oldest. -/
def State.wakeBank (s : State) (bank : Nat) : State :=
  match (s.bank bank).asleep with
  | none => s
  | some at_ =>
    let slept := s.time.toNat - at_
    s.modBank bank fun b =>
      { b with
        asleep := none
        generation := (b.generation + slept / 2000) % 65536
        lines := if 65536000 ≤ slept then b.lines.map fun l => { l with oldest := true } else b.lines }

/-- Age of a stamp (R403). -/
def ageOf (generation stamp : Nat) (oldest : Bool) : Nat := if oldest then 65536 else (generation + 65536 - stamp) % 65536

/-- Bytes of a line of a polder (R385). -/
def Polder.lineBytes (p : Polder) : Nat := 64 * 2 ^ p.line

/-- Line bytes of a bank line, by its polder. -/
def State.bytesOf (s : State) (l : BankLine) : Nat :=
  match s.polders.look l.polder with
  | some p => p.lineBytes
  | none => 128

/-- The 128-byte lines that a bank line lies on (R387). -/
def State.linesOf (s : State) (l : BankLine) : List Nat :=
  let n := s.bytesOf l
  if n = 256 then [2 * l.number, 2 * l.number + 1] else [l.number * n / 128]

/-- A bank line holds a byte of a 128-byte line. -/
def State.covers (s : State) (l : BankLine) (line : Nat) : Bool := (s.linesOf l).contains line

/-- An access of the part to a bank, which wakes it (R404), takes away the lines that a test names. -/
def State.dropLines (s : State) (b : Nat) (p : BankLine → Bool) : State :=
  let s := s.wakeBank b
  if (s.bank b).lines.any p then s.modBank b fun x => { x with lines := x.lines.filter fun l => !p l } else s

/-- Every bank writes back and invalidates its lines of a page (R397). -/
def State.flushPage (s : State) (page : Nat) : State :=
  s.banks.keys.foldl (fun s b => s.dropLines b fun l => decide (l.number * s.bytesOf l / 65536 = page)) s

/-! ### Homes

A home's entry for a region describes the lines of the region that lie at that home (R14, R398; DEDUCED, log entry 25). -/

/-- A home; one that is not listed has no entry, its generation that of the reference time. -/
def State.home (s : State) (h : Nat) : Home := s.homes.lookD h { generation := s.tick % 65536 }

/-- Change a home. -/
def State.modHome (s : State) (h : Nat) (f : Home → Home) : State := { s with homes := s.homes.put h (f (s.home h)) }

/-- The home of a 128-byte line: store(a) of its address (R14). -/
def State.homeOf (s : State) (line : Nat) : Nat := s.storeOf (line * 128)

/-- A bank line lies on a line of a region that lies at a home. -/
def State.inRegion (s : State) (h k n : Nat) (l : BankLine) : Bool :=
  (s.linesOf l).any fun x => decide (k ≤ x) && decide (x < k + n) && s.homeOf x == h

/-- The first line of a region that lies at a home. -/
def State.regionLine (s : State) (h k n : Nat) : Option Nat := ((List.range n).map (k + ·)).find? fun x => s.homeOf x == h

/-- A bank holds a copy of some line of a region that lies at a home. -/
def State.bankHolds (s : State) (b h k n : Nat) : Bool := (s.bank b).lines.any fun l => s.inRegion h k n l

/-- The banks that a sharer state names (R398, R399). -/
def Sharers.banks (x : Sharers) : List Nat :=
  match x with
  | .shared bs => bs
  | .owned b => [b]
  | .coarse v => (List.range 512).filter fun b => v.getLsbD (b / 8)

/-- The coarse vector of a list of banks (R399). -/
def coarseOf (bs : List Nat) : BitVec 64 := bs.foldl (fun v b => v ||| BitVec.twoPow 64 (b / 8)) 0

/-- A bank becomes a sharer (R398, R399). -/
def Sharers.add (x : Sharers) (b : Nat) : Sharers :=
  match x with
  | .coarse v => .coarse (v ||| BitVec.twoPow 64 (b / 8))
  | .owned o => if o = b then .owned o else .shared [o, b]
  | .shared bs => if bs.contains b then .shared bs else if bs.length < 4 then .shared (bs ++ [b]) else .coarse (coarseOf (b :: bs))

/-- A bank's copy is gone (R398). -/
def Sharers.remove (x : Sharers) (b : Nat) : Sharers :=
  match x with
  | .coarse v => .coarse v
  | .owned o => if o = b then .shared [] else .owned o
  | .shared bs => .shared (bs.filter fun c => c != b)

/-- The union of two sharer states (R401). -/
def Sharers.union (x y : Sharers) : Sharers :=
  match x, y with
  | .coarse v, z => .coarse (v ||| coarseOf z.banks)
  | z, .coarse v => .coarse (v ||| coarseOf z.banks)
  | z, w => w.banks.foldl (fun a b => a.add b) (.shared z.banks)

/-- The first line of the entry that covers a line, searching the region sizes from 1 line up (R398). -/
def dirFind (d : Map DirEntry) (line : Nat) : Option (Nat × DirEntry) :=
  [1, 2, 4, 8, 16, 32, 64, 128, 256, 512].findSome? fun n =>
    match d.look (line / n * n) with
    | some e => if e.lines = n then some (line / n * n, e) else none
    | none => none

/-- Split the entry covering a line by halves until the line has an entry of its own (R401); each other half keeps the state. -/
def splitTo (d : Map DirEntry) (line fuel : Nat) : Map DirEntry :=
  match fuel with
  | 0 => d
  | fuel + 1 =>
    match dirFind d line with
    | none => d
    | some (k, e) =>
      if e.lines ≤ 1 then d
      else
        let half := { e with lines := e.lines / 2 }
        splitTo ((d.put k half).put (k + e.lines / 2) half) line fuel

/-- The entry whose last stamp is oldest, other than the one covering a line: the lowest among equals (R402). -/
def Home.oldestEntry (h : Home) (line : Nat) : Option (Nat × DirEntry) :=
  let age := fun (e : DirEntry) => min (ageOf h.generation e.conflict e.conflictOldest) (ageOf h.generation e.fill e.fillOldest)
  (h.dir.filter fun e => !(e.1 ≤ line && line < e.1 + e.2.lines)).foldl (fun best e =>
    match best with
    | none => some e
    | some b => if age b.2 < age e.2 then some e else some b) none

/-- A home gives up an entry (R402): every sharer is sent an invalidation, and the entry is kept aside until all have acknowledged. -/
def State.dirLeave (s : State) (h k : Nat) (e : DirEntry) : State :=
  let s := s.modHome h fun x => { x with dir := x.dir.del k }
  match s.regionLine h k e.lines with
  | none => s
  | some line =>
    let before := (s.home h).leaving.look k
    let owed := match before with
      | some x => x.awaiting
      | none => []
    let targets := (e.sharers.banks ++ e.awaiting).filter fun b => !owed.contains b
    if targets.isEmpty then s
    else
      let lines := match before with
        | some x => max x.lines e.lines
        | none => e.lines
      let s := s.modHome h fun x =>
        { x with leaving := x.leaving.put k { e with lines := lines, sharers := .shared [], awaiting := owed ++ targets.eraseDups } }
      targets.eraseDups.foldl (fun s b => s.later (.invalAck b line)) s

/-- Give up entries until a home has no more than 262,144 (R402). -/
def State.dirRoom (s : State) (h line fuel : Nat) : State :=
  match fuel with
  | 0 => s
  | fuel + 1 =>
    if (s.home h).dir.length ≤ 262144 then s
    else
      match (s.home h).oldestEntry line with
      | none => s
      | some (k, e) => (s.dirLeave h k e).dirRoom h line fuel

/-- The entry of a line, made where none covers it (DESIGN CHOICE, log entry 25). -/
def State.dirEnsure (s : State) (line : Nat) : State :=
  let h := s.homeOf line
  match dirFind (s.home h).dir line with
  | some _ => s
  | none =>
    let g := (s.home h).generation
    (s.modHome h fun x => { x with dir := x.dir.put line { lines := 1, sharers := .shared [], conflict := g, fill := g } }).dirRoom h line 16

/-- The entry that covers a line. -/
def State.dirEntry (s : State) (line : Nat) : Option (Nat × DirEntry) := dirFind (s.home (s.homeOf line)).dir line

/-- The entry that covers a line among those that its home has given up and whose acknowledgements it awaits (R402). -/
def State.leavingEntry (s : State) (line : Nat) : Option (Nat × DirEntry) :=
  (s.home (s.homeOf line)).leaving.find? fun e => decide (e.1 ≤ line) && decide (line < e.1 + e.2.lines)

/-- The acknowledgements that the homes of some lines still await, by bank and line, for entries given up too (R400, R402). -/
def State.awaited (s : State) (lines : List Nat) : List (Nat × Nat) :=
  lines.flatMap fun n =>
    let owed := fun (e : Option (Nat × DirEntry)) => match e with
      | some (_, e) => e.awaiting.map fun b => (b, n)
      | none => []
    owed (s.leavingEntry n) ++ owed (s.dirEntry n)

/-- The invalidations that a core's write of some lines causes are not all sent and acknowledged (R398). -/
def State.acksOwed (s : State) (core : Nat) (lines : List Nat) : Bool :=
  !(s.awaited lines).isEmpty || s.agenda.any fun i =>
    match i with
    | .dirWrite c a _ _ => c == core && lines.contains (a / 128)
    | _ => false

/-- Change the entry that covers a line. -/
def State.modDir (s : State) (line : Nat) (f : DirEntry → DirEntry) : State :=
  match s.dirEntry line with
  | some (k, _) => s.modHome (s.homeOf line) fun x => { x with dir := x.dir.upd k f }
  | none => s

/-- A bank's acknowledgement comes in for an entry that its home has given up. -/
def State.leavingAck (s : State) (line k b : Nat) : State :=
  s.modHome (s.homeOf line) fun x =>
    match x.leaving.look k with
    | some e =>
      let rest := e.awaiting.filter fun c => c != b
      { x with leaving := if rest.isEmpty then x.leaving.del k else x.leaving.put k { e with awaiting := rest } }
    | none => x

/-- A conflict at a line (R401): its entry is split down to the line and stamped. -/
def State.dirConflict (s : State) (line : Nat) : State :=
  let h := s.homeOf line
  let s := (s.modHome h fun x => { x with dir := splitTo x.dir line 10 }).dirRoom h line 16
  s.modDir line fun e => { e with conflict := (s.home h).generation, conflictOldest := false }

/-- The page of a line is tracked by the directory: device memory of class SHARED (R396). -/
def State.tracked (s : State) (line : Nat) : Bool :=
  match s.paKind (line * 128), s.classes.look (line / 512) with
  | .device, some r => r.cls == .shared && !r.held
  | _, _ => false

/-- A fill by a bank (R398): an owner writes back and stays a sharer. -/
def State.dirFill (s : State) (b line : Nat) : State :=
  if !s.tracked line then s
  else
    let s := s.dirEnsure line
    let owner := match s.dirEntry line with
      | some (_, e) => match e.sharers with
        | .owned o => if o = b then none else some o
        | _ => none
      | none => none
    let s := match owner with
      | some o =>
        ((s.dirConflict line).wakeBank o).modBank o fun x =>
          { x with lines := x.lines.map fun l => if s.covers l line then { l with dirty := false } else l }
      | none => s
    s.modDir line fun e => { e with sharers := e.sharers.add b, fill := (s.home (s.homeOf line)).generation, fillOldest := false }

/-- What a write leaves at the directory (R398). -/
inductive WriteKind where
  /-- With allocation by a bank, or through it. -/
  | owns (b : Nat) | through (b : Nat)
  /-- A write that no bank keeps: one forwarded by a bank, an atomic, or one of the host, a peer or an engine, which has no bank. -/
  | forwarded (b : Option Nat)
  deriving DecidableEq, Repr

/-- The writing bank. -/
def WriteKind.bank (k : WriteKind) : Option Nat :=
  match k with
  | .owns b => some b
  | .through b => some b
  | .forwarded b => b

/-- A write at the directory (R398, R400, R401): the other sharers, for a forwarded write every sharer, are sent invalidations. -/
def State.dirWrite (s : State) (line : Nat) (k : WriteKind) : State :=
  if !s.tracked line then s
  else
    let s := s.dirEnsure line
    match s.dirEntry line with
    | none => s
    | some (_, e) =>
      let others := e.sharers.banks.filter fun b => some b != k.bank
      let s := if others.isEmpty then s else s.dirConflict line
      let targets := match k with
        | .forwarded _ => e.sharers.banks
        | _ => others
      let s := s.modDir line fun e =>
        { e with
          sharers := match k with
            | .owns b => .owned b
            | .through b => .shared [b]
            | .forwarded _ => .shared []
          awaiting := e.awaiting ++ targets.filter fun b => !e.awaiting.contains b }
      targets.foldl (fun s b => s.later (.invalAck b line)) s

/-- A write of the host, a peer or an engine of the part to the n bytes at a device address comes to the directory at each line (R398). -/
def State.agentWrote (s : State) (pa n : Nat) : State :=
  match s.paKind pa with
  | .device =>
    let a := s.redirect pa
    ((List.range ((a + n - 1) / 128 + 1 - a / 128)).map (a / 128 + ·)).foldl (fun s l => s.dirWrite l (.forwarded none)) s
  | _ => s

/-- An eviction notice at the entry that covers the line (R398, R400): it counts as the acknowledgement that the home awaits; else the
bank leaves the entry, unless it still holds a copy in the entry's region. -/
def State.dirNotice (s : State) (b line : Nat) : State :=
  match s.dirEntry line with
  | none => s
  | some (k, e) =>
    if e.awaiting.contains b then s.modDir line fun e => { e with awaiting := e.awaiting.filter fun c => c != b }
    else if s.bankHolds b (s.homeOf line) k e.lines then s
    else s.modDir line fun e => { e with sharers := e.sharers.remove b }

/-- An eviction notice from a bank (R398, R400, R402): one that an entry given up awaits is its acknowledgement. -/
def State.evictNotice (s : State) (b line : Nat) : State :=
  match s.leavingEntry line with
  | some (k, e) => if e.awaiting.contains b then s.leavingAck line k b else s.dirNotice b line
  | none => s.dirNotice b line

/-- A line leaves its bank, dirty data written back, and the bank sends its notices (R389, R398). -/
def State.evictLine (s : State) (b : Nat) (l : BankLine) : State :=
  let s := s.modBank b fun x => { x with lines := x.lines.filter fun y => y != l }
  (s.linesOf l).foldl (fun s n => if s.bankHolds b (s.homeOf n) n 1 then s else s.later (.evictionNotice b n)) s

/-- The drain of a share, as its visit leaves it: the lines that a test names are written back, invalidated and noticed (R392). -/
def State.drainLines (s : State) (b : Nat) (p : BankLine → Bool) : State :=
  if (s.bank b).lines.any p then
    let s := s.wakeBank b
    ((s.bank b).lines.filter p).foldl (fun s l =>
      let s := s.modBank b fun x => { x with lines := x.lines.filter fun y => y != l }
      (s.linesOf l).foldl (fun s n => if s.bankHolds b (s.homeOf n) n 1 then s else s.evictNotice b n) s) s
  else s

/-- The directory entries of a page, at every home. -/
def State.pageEntries (s : State) (page : Nat) : List DirEntry :=
  s.homes.flatMap fun h => ((h.2.dir ++ h.2.leaving).filter fun e => e.1 / 512 == page).map Prod.snd

/-- Free the directory entries of a page. -/
def State.freeEntries (s : State) (page : Nat) : State :=
  { s with
    homes := s.homes.map fun h =>
      (h.1, { h.2 with
        dir := h.2.dir.filter fun e => e.1 / 512 != page
        leaving := h.2.leaving.filter fun e => e.1 / 512 != page }) }

/-- A page becomes SHARED (R397): no bank holds a line of it, and each home has one entry for it, UNCACHED. -/
def State.makeShared (s : State) (page : Nat) (line : List Accessor) : State :=
  let s := (s.flushPage page).freeEntries page
  let s := { s with classes := s.classes.put page { cls := .shared, stamp := s.tick, line := line, turn := s.cycles } }
  s.stores.foldl (fun s h =>
    let g := (s.home h).generation
    (s.modHome h fun x =>
      { x with dir := x.dir.put (page * 512) { lines := 512, sharers := .shared [], conflict := g, fill := g } }).dirRoom h (page * 512) 16) s

end Sys2Proof.Machine
end

