-- ==== Sys2Proof/Machine/Home.lean ====
section
/-! DEFINITION. The home class of a page as an access finds it (R396, R397) and page requests (R414). -/

namespace Sys2Proof.Machine

/-- What an access does to a page's class (R396). -/
inductive ClassStep where
  | to (c : PageClass)
  /-- Reclassification to SHARED, which holds the access (R397). -/
  | reclassify
  deriving DecidableEq, Repr

/-- The transition of R396 for an access. -/
def classStep (c : Option PageClass) (who : Accessor) (write : Bool) : ClassStep :=
  match c with
  | none => .to (.priv who write)
  | some (.priv o w) =>
    if o = who then .to (.priv o (w || write))
    else if write || w then .reclassify
    else .to .readOnly
  | some .readOnly => if write then .reclassify else .to .readOnly
  | some .shared => .to .shared

/-- The class record of the page where an access translated to a device address is performed (R396, R421). -/
def State.classRec (s : State) (pa : Nat) : Option ClassRec := s.classes.look (s.redirect pa / 65536)

/-- The interposer port of the bridge chiplet that carries host attach and management (R15, R22). -/
def State.hostBridge (s : State) : Nat := if s.fenceMap.getLsbD 208 then 33 else 32

/-- The interposer port by which an accessor reaches the store chiplets (R15): a core its compute chiplet's, the host that of the bridge
that carries host attach. A peer's accesses arrive at a bridge of the device's own, and the part's own agents sit there too: theirs is
taken to be that one (DESIGN CHOICE, log entry 65). -/
def State.portAt (s : State) (who : Accessor) : Nat :=
  match who with
  | .core c => c / 12
  | _ => s.hostBridge

/-- The pairs of an accessor's port and a device address's store chiplet, both ways, can carry an access (R15, R453). -/
def State.reachable (s : State) (who : Accessor) (pa : Nat) : Bool :=
  let i := s.portAt who
  let j := 16 + s.storeOf (s.redirect pa)
  [36 * i + j, 36 * j + i].all fun k =>
    match s.pairs.look k with
    | some p => !p.down
    | none => true

/-- A host cache holds the line of a device address, which an access of any other agent needs back (R484; DESIGN CHOICE, log entry 66). -/
def State.hostHolds (s : State) (who : Accessor) (pa : Nat) : Bool := who != .host && s.hostLines.contains (s.redirect pa / 128)

/-- The accessors whose accesses a page's reclassification has held and that are still to be served, in their order of arrival (R397). One
that has not come for its turn within 256 master cycles has withdrawn its access (DESIGN CHOICE, log entry 16). -/
def State.heldLine (s : State) (r : ClassRec) : List Accessor := r.line.drop ((s.cycles - r.turn) / 256)

/-- Accessor `who` comes before everyone that a page's reclassification has held (R397). -/
def State.hasTurn (s : State) (r : ClassRec) (who : Accessor) : Bool :=
  match s.heldLine r with
  | [] => true
  | x :: _ => x == who

/-- An access to an address is served at once: host and peer addresses have no class; a device page must not be under
reclassification nor need one, no access that was held before is still to be served (R397), no host cache holds the line, and the pair
of ports is not DOWN. -/
def State.homeReady (s : State) (who : Accessor) (pa : Nat) (write : Bool) : Bool :=
  match s.paKind pa with
  | .device =>
    (match s.classRec pa with
     | some r => !r.held && classStep (some r.cls) who write != .reclassify && s.hasTurn r who
     | none => true)
    && !s.hostHolds who pa && s.reachable who pa
  | _ => true

/-- The home asks a host cache for a line back (R484). -/
def State.snoop (s : State) (line : Nat) : State := if s.snoops.contains line then s else { s with snoops := s.snoops ++ [line] }

/-- A list with an accessor at its end, once. -/
def joinLine (line : List Accessor) (who : Accessor) : List Accessor := if line.contains who then line else line ++ [who]

/-- The class of a page after an access of an agent (R396), with its stamp refreshed. An access that needs a reclassification starts it
(R397): every core's reuse entries of the page die, and the access is held; so is one that comes during it. One that comes after it waits
until all that it held are served. -/
def State.classTouch (s : State) (who : Accessor) (page : Nat) (write : Bool) : State :=
  match s.classes.look page with
  | none => { s with classes := s.classes.put page { cls := .priv who write, stamp := s.tick } }
  | some r =>
    if r.held then { s with classes := s.classes.put page { r with line := joinLine r.line who } }
    else
      match classStep (some r.cls) who write with
      | .to c =>
        match s.heldLine r with
        | [] => { s with classes := s.classes.put page { r with cls := c, stamp := s.tick, line := [], turn := 0 } }
        | x :: rest =>
          if x == who then
            { s with classes := s.classes.put page { r with cls := c, stamp := s.tick, line := rest, turn := s.cycles } }
          else s
      | .reclassify => { s with classes := s.classes.put page { r with held := true, line := [who] } }.killPageEverywhere page

/-- The class of a page after an access that the part itself makes in the step (R396): a reclassification that it needs, or meets, is
complete before it is performed (R397; DESIGN CHOICE, log entry 16). -/
def State.classServe (s : State) (who : Accessor) (page : Nat) (write : Bool) : State :=
  match s.classes.look page with
  | none => { s with classes := s.classes.put page { cls := .priv who write, stamp := s.tick } }
  | some r =>
    if r.held then s.makeShared page r.line
    else
      match classStep (some r.cls) who write with
      | .to c => { s with classes := s.classes.put page { r with cls := c, stamp := s.tick } }
      | .reclassify => (s.killPageEverywhere page).makeShared page []

/-- An access reaches the home: the class of a device page follows R396, and a line that a host cache holds is snooped (R484). -/
def State.homeTouch (s : State) (who : Accessor) (pa : Nat) (write : Bool) : State :=
  match s.paKind pa with
  | .device => (if s.hostHolds who pa then s.snoop (s.redirect pa / 128) else s).classTouch who (s.redirect pa / 65536) write
  | _ => s

/-- An access of the part itself reaches the home and is served in the step. -/
def State.homeServe (s : State) (who : Accessor) (pa : Nat) (write : Bool) : State :=
  match s.paKind pa with
  | .device => (if s.hostHolds who pa then s.snoop (s.redirect pa / 128) else s).classServe who (s.redirect pa / 65536) write
  | _ => s

/-- Bytes of a write that no core's polder carries, a host's, a peer's or an engine's: the directory invalidates the copies (R398). -/
def State.homeWrite (s : State) (pa : Nat) (bs : List Byte) : State := (s.agentWrote pa bs.length).physWrite pa bs

/-- The accesses of a list are all served at once. -/
def State.homesReady (s : State) (who : Accessor) (write : Bool) (pas : List Nat) : Bool :=
  pas.all fun a => s.homeReady who a write

/-- Touch the homes of a list of addresses. -/
def State.homesTouch (s : State) (who : Accessor) (write : Bool) (pas : List Nat) : State :=
  pas.foldl (fun s a => s.homeTouch who a write) s

/-- The addresses of the table entries that a walk reads (R409). -/
def State.walkTrail (s : State) (v : Nat) (table level fuel : Nat) : List Nat :=
  match fuel with
  | 0 => []
  | fuel + 1 =>
    let at_ := table + 8 * walkIndex level v
    let pte := BitVec.ofNat 64 (s.physRead at_ 8)
    at_ :: (if pte.getLsbD 0 && !pte.getLsbD 1 && s.tableOk pte level then
        s.walkTrail v ((pte.extractLsb' 8 44).toNat * 256) (level + 1) fuel
      else [])

/-- The walker's reads of the table entries count as accesses of the system agent (R396), whatever the walk ends in. -/
def State.walkTouch (s : State) (asid v : Nat) : State :=
  match s.ctxs.look asid with
  | some c => (s.walkTrail v (c.ptbase.toNat / 4096 * 4096) 0 5).foldl (fun s a => s.homeServe .system a false) s
  | none => s

/-- A core translates an address: a TLB miss walks and remembers the leaf of a walk that ends in one (R412). -/
def State.learn (s : State) (core asid v : Nat) : State :=
  match tlbFind ((s.core core).tlb ++ (s.chip (core / 12)).tlb) asid v with
  | some _ => s
  | none => (s.walkTouch asid v).fillTlb core asid v

/-- The check of R60 on an access has come to its translation: none of the checks before it fails. -/
def reachesWalk (firmware : Bool) (v size align : Nat) : Bool :=
  canonicalRange v size && v % align == 0 && (!inWindow v || firmware)

/-- A core translates an address whose earlier checks pass, whatever the translation ends in (R396, R412). -/
def State.learnIf (s : State) (core asid : Nat) (firmware : Bool) (v size align : Nat) : State :=
  if reachesWalk firmware v size align then s.learn core asid v else s

/-- A system agent's walk for an address whose earlier checks pass. -/
def State.walkIf (s : State) (asid v size align : Nat) : State := if reachesWalk true v size align then s.walkTouch asid v else s

/-- The polder that the page of an address names (R85, R391). -/
def State.polderOf (s : State) (core asid v : Nat) : Option Nat :=
  match tlbFind ((s.core core).tlb ++ (s.chip (core / 12)).tlb) asid v with
  | some e => some (e.leaf.extractLsb' 56 8).toNat
  | none =>
    match s.ctxs.look asid with
    | none => none
    | some c =>
      match s.walk c v with
      | .leaf pte _ _ => some (pte.extractLsb' 56 8).toNat
      | _ => none

/-- A core's accesses to device addresses, as virtual and physical ones, go through the polders that their pages name: a lookup of
each line that may fill, with a hint of R389, when `kind` is none, else a write of a kind of R388 and R398. The effects on
banks and directory come as events of their own: they change no outcome (R82). -/
def State.throughPolders (s : State) (core asid hint : Nat) (kind : Option Nat) (as : List (Nat × Nat)) : State :=
  let units := as.foldl (fun (l : List (Nat × Nat)) a => if l.any fun b => b.2 / 64 == a.2 / 64 then l else l ++ [a]) []
  units.foldl (fun s a =>
    match s.paKind a.2, s.polderOf core asid a.1 with
    | .device, some p =>
      s.later (match kind with
        | none => .dirFill core (s.redirect a.2) p hint
        | some k => .dirWrite core (s.redirect a.2) p k)
    | _, _ => s) s

/-- Open or join a page request (R414). Requests beyond the first 4,096 wait until one frees. -/
def State.pageRequest (s : State) (asid va : Nat) (k : AccessKind) (r : Requester) : State :=
  let page := va / 65536
  let add := fun (q : PageReq) =>
    { q with
      kinds := if q.kinds.contains k then q.kinds else q.kinds ++ [k]
      requesters := if q.requesters.contains r then q.requesters else q.requesters ++ [r] }
  if s.pageReqs.any (fun q => q.asid == asid && q.page == page) then
    { s with pageReqs := s.pageReqs.map fun q => if q.asid == asid && q.page == page then add q else q }
  else { s with pageReqs := s.pageReqs ++ [{ asid := asid, page := page, kinds := [k], requesters := [r] }] }

/-- An address range of n bytes cut at the ends of 128-byte lines: addresses and lengths. -/
def lineRuns (pa n : Nat) : List (Nat × Nat) :=
  (List.range ((pa + n + 127) / 128 - pa / 128)).map fun k =>
    let lo := if k = 0 then pa else (pa / 128 + k) * 128
    (lo, min (pa + n) ((pa / 128 + k + 1) * 128) - lo)

/-- Bytes within one line go to a peer's memory by a posted write (R408, R459). -/
def State.peerWrite (s : State) (device pa : Nat) (bs : List Byte) (bad : Bool) : State :=
  { s with sent := s.sent ++ [.write device (s.redirect pa % 2 ^ 40) bs bad] }

/-- A core's own write within one line that no polder carries: at its home, at the host, or at a peer (R408). -/
def State.coreWrite (s : State) (pa : Nat) (bs : List Byte) : State :=
  match s.paKind pa with
  | .peer d => s.peerWrite d pa bs false
  | _ => s.homeWrite pa bs

/-- The part itself writes bytes within one line, as the access of an agent (R396): at its home, at the host, or by a posted write to the
peer that has the frame (R408, R459). A write held at a DOWN pair is never performed (R453). -/
def State.lineStore (s : State) (who : Accessor) (pa : Nat) (bs : List Byte) (bad : Bool) : State :=
  match s.paKind pa with
  | .peer d => s.peerWrite d pa bs bad
  | _ =>
    if s.paKind pa == .device && !s.reachable who pa then s
    else
      let s := (s.homeServe who pa true).homeWrite pa bs
      if bad then s.physPoison pa bs.length else s

/-- The part itself writes bytes at a physical address, as the access of an agent, line by line. -/
def State.agentStore (s : State) (who : Accessor) (pa : Nat) (bs : List Byte) (bad : Bool := false) : State :=
  (lineRuns pa bs.length).foldl (fun s r => s.lineStore who r.1 ((bs.drop (r.1 - pa)).take r.2) bad) s

/-- What a peer answers to a read that the part itself makes: its memory is not this device's, so the bytes are free (DESIGN CHOICE, log
entry 64). -/
def State.peerBytes (s : State) (n : Nat) : State × List Byte :=
  ({ s with fresh := s.fresh + n }, (List.range n).map fun k => (Config.freeValue (s.fresh + k)).setWidth 8)

/-- The part itself reads bytes within one line, as the access of an agent (R396): the bytes, and whether any carries a soft error. -/
def State.lineRead (s : State) (who : Accessor) (pa n : Nat) : State × List Byte × Bool :=
  match s.paKind pa with
  | .peer _ => ((s.peerBytes n).1, (s.peerBytes n).2, false)
  | _ => (s.homeServe who pa false, s.physBytes pa n, s.physPoisoned pa n)

/-- The part itself reads n bytes at a physical address, as the access of an agent, line by line. -/
def State.agentRead (s : State) (who : Accessor) (pa n : Nat) : State × List Byte × Bool :=
  (lineRuns pa n).foldl (fun a r =>
    let b := a.1.lineRead who r.1 r.2
    (b.1, a.2.1 ++ b.2.1, a.2.2 || b.2.2)) (s, [], false)

/-- A write by the part itself of bytes that must be aligned to `align`, as the access of an agent (R396), in firmware mode: with the
cause when a check of R60 fails, its walk made. -/
def State.writeAs (s : State) (who : Accessor) (asid va align : Nat) (bs : List Byte) : State × Option Cause :=
  let walked := s.walkIf asid va bs.length align
  match s.checkSystem asid va bs.length align .write with
  | .ok pa _ _ => (walked.agentStore who pa bs, none)
  | .cause c => (walked, some c)

/-- A read by the part itself of n bytes that must be aligned to `align`, as the access of an agent, in firmware mode. -/
def State.readAs (s : State) (who : Accessor) (asid va align n : Nat) : State × (List Byte ⊕ Cause) :=
  let walked := s.walkIf asid va n align
  match s.checkSystem asid va n align .read with
  | .ok pa _ _ => ((walked.agentRead who pa n).1, .inl (walked.agentRead who pa n).2.1)
  | .cause c => (walked, .inr c)

end Sys2Proof.Machine
end

