-- ==== Sys2Proof/Machine/Ops.lean ====
section
/-! DEFINITION. The operations every meaning shares: the issuing split, the checks before an instruction executes, taking a
trap and returning from one, the reconvergence stack, rejoining, releases and acquires, and retiring. -/

namespace Sys2Proof.Machine

/-- The outcome of a meaning. -/
abbrev Result := Host.Outcome State Fault Refusal

/-- The split that issues, with the objects it belongs to. -/
structure Cx where
  gid : Nat
  k : Nat
  grp : Group
  sp : Split
  uid : Nat
  team : Team
  kern : Kernel
  ctx : Ctx
  deriving DecidableEq, Repr

/-- The core the team is resident on. -/
def Cx.core (cx : Cx) : Nat := cx.team.core

/-- The context's ASID. -/
def Cx.asid (cx : Cx) : Nat := cx.kern.asid

/-- The quadrant of the group (R189). -/
def Cx.quad (cx : Cx) : Nat := quadOf cx.team cx.grp

/-- The objects of the resident split at an index of a group. -/
def State.cxOf (s : State) (gid k : Nat) : Option Cx :=
  match s.groups.look gid with
  | none => none
  | some g =>
    match g.res.look k, s.teams.look g.team with
    | some sp, some t =>
      match s.kernels.look t.kernel with
      | none => none
      | some kn =>
        match s.ctxs.look kn.asid with
        | none => none
        | some c => some { gid := gid, k := k, grp := g, sp := sp, uid := g.team, team := t, kern := kn, ctx := c }
    | _, _ => none

/-- A split may issue: its team is resident, its group runs, and it is READY (R203, R205). -/
def Cx.canIssue (cx : Cx) : Bool :=
  cx.team.state == .resident && cx.grp.state == .running && cx.sp.state == .ready

/-- The split whose instruction runs now. -/
def State.chosen (s : State) : Option Cx :=
  match s.cur with
  | none => none
  | some (gid, k) =>
    match s.cxOf gid k with
    | some cx => if cx.canIssue then some cx else none
    | none => none

/-- The split that issues now: its instruction is not only examined. -/
def State.issuer (s : State) : Option Cx := if s.probing then none else s.chosen

/-! ### Replies owed and pending registers (R215 to R218) -/

/-- Registers a destination covers, vector registers and g registers. -/
def Dest.regs (d : Dest) : List Nat × List Nat :=
  match d with
  | .vec d n => ((List.range n).map (d + ·), [])
  | .grp d => ([], [d])
  | .none => ([], [])

/-- The group, split TAG and destination of a matrix drain, if the operation is one. -/
def MatrixOp.drainOf (m : MatrixOp) : Option (Nat × Nat × Nat) :=
  match m with
  | .drain g sp d _ _ _ => some (g, sp, d)
  | _ => none

/-- The tag of a matrix drain in windows and parked splits: the sluice tags are 0 to 191. -/
def drainTag (serial : Nat) : Nat := 256 + serial

/-- The tag on which a split parks until stores are acknowledged (R68, R74). -/
def storeTag : Nat := 255

/-- The tag on which a split parks until its group's stores have left the store queue (R324). -/
def leftTag : Nat := 252

/-- The tag on which a split parks until its group's posted peer stores are answered (R76). -/
def postTag : Nat := 251

/-- The tag on which a split parks for a peer's answer to a read of its instruction. -/
def peerTag : Nat := 253

/-- The tag on which a PUBL parks for its turn and for the end of migrations (R426). -/
def publTag : Nat := 250

/-- The tag on which a PDEF parks for the drain of polder 0 (R405). -/
def zeroTag : Nat := 254

/-- The tags whose replies are owed to a split. -/
def State.owed (s : State) (core gid tag : Nat) : List Nat :=
  ((s.core core).sluice.filter fun e => e.2.group == gid && e.2.split == tag && e.2.pend != 0).map Prod.fst
  ++ ((s.core core).matrixQ.filter fun e =>
        match e.op.drainOf with
        | some (g, sp, _) => g == gid && sp == tag
        | none => false).map fun e => drainTag e.serial

/-- The registers of a group that are pending, as (vector registers, g registers), for the split TAGs that a test names
(R218). -/
def State.pending (s : State) (core gid : Nat) (who : Nat → Bool) : List Nat × List Nat :=
  let es := (s.core core).sluice.filter fun e => e.2.group == gid && e.2.pend != 0 && who e.2.split
  let ms := (s.core core).matrixQ.filterMap fun e =>
    match e.op.drainOf with
    | some (g, sp, d) => if g == gid && who sp then some d else none
    | none => none
  ((es.flatMap fun e => e.2.access.dest.regs.1) ++ ms, es.flatMap fun e => e.2.access.dest.regs.2)

/-- What an instruction touches, for the checks before it executes. -/
structure Uses where
  /-- Vector and g registers read and written. -/
  vr : List Nat := []
  vw : List Nat := []
  gr : List Nat := []
  gw : List Nat := []
  /-- Mask and rejoin registers read. -/
  mr : List Nat := []
  jr : List Nat := []
  /-- Firmware only (R100). -/
  firmware : Bool := false
  /-- Ends every open window (R216). -/
  ends : Bool := false
  /-- Performs or requests a memory event (R300). -/
  memory : Bool := false
  deriving DecidableEq, Repr

/-- Two register lists share a register. -/
def overlap (a b : List Nat) : Bool := a.any fun r => b.contains r

/-- The instruction names a pending register. -/
def Uses.touches (u : Uses) (p : List Nat × List Nat) : Bool :=
  overlap (u.vr ++ u.vw) p.1 || overlap (u.gr ++ u.gw) p.2

/-- A source holds poisoned data (R150, R242, R316). -/
def Uses.poisoned (u : Uses) (g : Group) : Bool :=
  u.vr.any (fun r => g.vPoison.getLsbD r) || u.gr.any (fun r => g.gPoison.getLsbD r)
  || u.mr.any (fun r => r != 0 && g.mPoison.getLsbD r) || u.jr.any (fun r => g.jPoison.getLsbD r)

/-- The tags on which a split must park before it issues an instruction: owed and in no window that still admits one; every
owed one for the instructions that end windows; those of an acquire's window for a memory event (R216, R300). -/
def parkTags (owed : List Nat) (ws : List Window) (u : Uses) : List Nat :=
  owed.filter fun t =>
    u.ends || !(ws.any fun w => w.tag == t && w.left != 0) || (u.memory && ws.any fun w => w.tag == t && w.acquire)

/-- Park a split on tags, closing their windows; nothing else changes (R205, R216). -/
def State.park (s : State) (gid tag : Nat) (tags : List Nat) : State :=
  s.modTag gid tag fun sp =>
    { sp with
      state := .parked
      windows := sp.windows.filter fun w => !tags.contains w.tag
      parkOn := tags }

/-! ### The reconvergence stack (R208 to R211) -/

/-- Virtual address of position p of a group's spill ring (R210). -/
def ringAddr (c : Ctx) (slot index p : Nat) : Nat := c.stkbase.toNat + (slot * 32 + index) * 2048 + p % 32 * 64

/-- The code of a split state in a spilled entry (R211). -/
def SplitState.code (x : SplitState) : Nat :=
  match x with
  | .ready => 0
  | .parked => 1
  | .faulted => 2
  | .waiting => 3
  | .stopped => 4

/-- Four windows as R211 packs them. The window of an MDRAIN has no sluice tag (R217): its tag byte is the low byte of `drainTag`
(DESIGN CHOICE, log entry 23). -/
def packWindows (ws : List Window) : Nat :=
  ((List.range 4).map fun k =>
    match ws[k]? with
    | some w => (w.tag % 256 * 256 + w.left % 16 * 16 + 1) * 2 ^ (16 * k)
    | none => 0).sum

/-- A spilled entry (R211), as a 512-bit number. -/
def packSplit (sp : Split) : Nat :=
  sp.pc.toNat + sp.mask.toNat * 2 ^ 64 + sp.tag % 32 * 2 ^ 96 + sp.firmware.toNat * 2 ^ 101 + sp.nr.toNat * 2 ^ 102
  + sp.state.code * 2 ^ 103 + sp.age % 2 ^ 64 * 2 ^ 128 + packWindows sp.windows * 2 ^ 192 + sp.trap61.toNat * 2 ^ 256
  + sp.trap62.toNat * 2 ^ 320 + sp.trap63.toNat * 2 ^ 384

/-- The team holds its places in a core: it is neither SAVED nor RE-ENQUEUED (R197). -/
def Team.placed (t : Team) : Bool := t.state != .saved && t.state != .reenqueued

/-- SRAM entries in use in a quadrant, by every group that is resident in it (R209). -/
def State.sramUsed (s : State) (q : Nat) : Nat :=
  (s.groups.map fun p =>
    match s.teams.look p.2.team with
    | some t => if quadOf t p.2 = q && t.placed then p.2.stack.length - p.2.spilled else 0
    | none => 0).sum

/-- Write a split to a position of a group's spill ring (R210, R211), checked by R60 in firmware mode: with the cause when a check fails. -/
def State.ringWrite (s : State) (core asid : Nat) (c : Ctx) (slot index at_ : Nat) (x : Split) : State × Option Cause :=
  s.writeAs (.core core) asid (ringAddr c slot index at_) 64 (Memory.ofNat 64 (packSplit x))

/-- Push a split (R209): false when the spill write fails. -/
def State.pushSplit (s : State) (cx : Cx) (x : Split) : State × Bool :=
  match s.groups.look cx.gid with
  | none => (s, false)
  | some g =>
    if s.sramUsed cx.quad < 32 then (s.modGroup cx.gid fun g => { g with stack := x :: g.stack }, true)
    else
      let inSram := g.stack.length - g.spilled
      let out := if inSram = 0 then x else g.stack.getD (inSram - 1) x
      match s.ringWrite cx.core cx.asid cx.ctx cx.team.slot g.index (g.ringBottom + g.spilled) out with
      | (s, some _) => (s, false)
      | (s, none) => (s.modGroup cx.gid fun g => { g with stack := x :: g.stack, spilled := g.spilled + 1 }, true)

/-! ### Trap records and delivery (R146 to R154) -/

/-- The cause codes of R149. -/
def Cause.code (c : Cause) : Nat :=
  match c with
  | .illegal => 1
  | .priv => 2
  | .lookahead => 3
  | .misalign => 4
  | .noncanon => 5
  | .perm => 6
  | .page => 7
  | .peerFault => 8
  | .peerTimeout => 9
  | .barrierOverrun => 10
  | .matrixNotHeld => 11
  | .stackSpill => 12
  | .polderShare => 13
  | .formatSlot => 14
  | .software => 15
  | .watchdog => 16
  | .softError => 17

/-- The fields of a trap record (R154). -/
structure Record where
  time : BitVec 64
  aux : DWord := 0
  addr : DWord := 0
  pc : DWord := 0
  lanes : Word := 0
  kernel : Nat := 0
  team : Nat := 0
  group : Nat := 0
  split : Nat := 0
  nested : Bool := false
  handled : Bool := false
  core : Nat := 0
  cause : Cause
  deriving DecidableEq, Repr

/-- A record as the 512-bit number of R154. -/
def Record.pack (r : Record) : Nat :=
  r.cause.code + r.core % 256 * 2 ^ 175 + r.handled.toNat * 2 ^ 183 + r.nested.toNat * 2 ^ 184 + r.split % 4 * 2 ^ 185
  + r.group % 32 * 2 ^ 187 + r.team % 65536 * 2 ^ 192 + r.kernel % 65536 * 2 ^ 208 + r.lanes.toNat * 2 ^ 224
  + r.pc.toNat * 2 ^ 256 + r.addr.toNat * 2 ^ 320 + r.aux.toNat * 2 ^ 384 + r.time.toNat * 2 ^ 448

/-- The context once a trap has stopped a split of it, or the tide machine its spillway: FAULTED, at once or when its suspension is over
(R141, R441). -/
def Ctx.fault (c : Ctx) : Ctx :=
  match c.state with
  | .active => { c with state := .faulted }
  | .suspending => { c with wasFaulted := true }
  | .suspended => { c with wasFaulted := true }
  | .faulted => c

/-- A context that has dropped a record (R153). -/
def Ctx.lose (c : Ctx) : Ctx := { c with tqlost := c.tqlost + 1 }

/-- The trap queue's tail after one more record; a full queue's head equals it (R153). -/
def Ctx.nextTail (c : Ctx) : Nat := (c.tqtail.toNat + 1) % c.tqsize.toNat

/-- Virtual address of the next trap record (R153). -/
def Ctx.recordAddr (c : Ctx) : Nat := c.tqbase.toNat + 64 * c.tqtail.toNat

/-- Write a trap record, or drop it and advance TQLOST when the queue is full or the write fails a check (R153). -/
def State.trapRecord (s : State) (asid : Nat) (r : Record) : State :=
  match s.ctxs.look asid with
  | none => s
  | some c =>
    if c.nextTail = c.tqhead.toNat then s.modCtx asid Ctx.lose
    else
      match s.writeAs .system asid c.recordAddr 1 (Memory.ofNat 64 r.pack) with
      | (s, none) => s.modCtx asid fun c => { c with tqtail := BitVec.ofNat 64 c.nextTail }
      | (s, some _) => (s.modCtx asid Ctx.lose).report (.trapDropped asid (BitVec.ofNat 64 c.recordAddr))

/-- The context goes FAULTED; in SUSPENDING, the state after suspension is FAULTED (R141). -/
def State.faultCtx (s : State) (asid : Nat) : State := s.modCtx asid Ctx.fault

/-- The handler address, if TRAPH holds a valid handler (R145): bits [1:0] zero, in the system window. -/
def Ctx.handler (c : Ctx) : Option DWord :=
  if c.traph.toNat % 4 = 0 ∧ inWindow c.traph.toNat then some c.traph else none

/-- The record of a trap of a split. -/
def trapRecordOf (cx : Cx) (t : Trap) (index : Nat) : Record :=
  { time := t.time, aux := t.aux, addr := t.addr, pc := if t.atNext then cx.sp.pc + 4 else cx.sp.pc, lanes := t.lanes
    kernel := cx.team.kernel, team := cx.team.linear, group := cx.grp.index, split := index, nested := cx.sp.firmware
    core := cx.core, cause := t.cause }

/-- g63 on delivery (R148): LANES, CODE, LANE, CAUSE. -/
def Trap.g63 (t : Trap) : DWord :=
  BitVec.ofNat 64 (t.lanes.toNat * 2 ^ 32 + t.code.toNat * 2 ^ 16 + Bits.lowest t.lanes * 2 ^ 8 + t.cause.code)

/-- The objects of the split with a TAG, resident or stacked, with its split-table index. A stacked split has none: 0 stands for it, in the
SPLIT field of its records too (DESIGN CHOICE, log entry 56). -/
def State.cxByTag (s : State) (gid tag : Nat) : Option Cx :=
  match s.groups.look gid with
  | none => none
  | some g =>
    match g.byTag tag, s.teams.look g.team with
    | some sp, some t =>
      match s.kernels.look t.kernel with
      | none => none
      | some kn =>
        match s.ctxs.look kn.asid with
        | none => none
        | some c =>
          let k := match g.res.find? (fun p => p.2.tag == tag) with
            | some p => p.1
            | none => 0
          some { gid := gid, k := k, grp := g, sp := sp, uid := g.team, team := t, kern := kn, ctx := c }
    | _, _ => none

/-- A group is HALTED once every split that holds a lane is STOPPED (R203). -/
def Group.halt (g : Group) : Group :=
  if g.state = .running ∧ g.splits ≠ [] ∧ ∀ sp ∈ g.splits, sp.state = .stopped then { g with state := .halted } else g

/-- HALT a group whose splits are all STOPPED. -/
def State.haltCheck (s : State) (gid : Nat) : State := s.modGroup gid Group.halt

/-- The entry without its faulted lanes. -/
def SluiceEntry.dropFaults (e : SluiceEntry) : SluiceEntry :=
  { e with fault := 0, reqs := e.reqs.filter fun r => !e.fault.getLsbD r.lane, reuse := none }

/-- The faulted lanes of a split that stops are given up (R147): an entry that owes no reply frees, and its landing registers keep
what has arrived. -/
def State.dropFaults (s : State) (q gid tag : Nat) : State :=
  let core := q / 4
  ((s.core core).sluice.filter fun e => e.2.group == gid && e.2.split == tag && e.2.fault != 0).foldl (fun s e =>
    if e.2.pend != 0 then s.modCore core fun c => { c with sluice := c.sluice.put e.1 e.2.dropFaults }
    else
      let s := s.modCore core fun c => { c with sluice := c.sluice.del e.1 }
      (e.2.access.dest.regs.1.zip e.2.landing).foldl (fun s p => s.finishLanding q gid p.1 p.2) s) s

/-- A split whose spill-ring entry could not be read, resident again: it stops as one without a handler does, once every reply owed to
it has arrived (R147, R210, R222). -/
def Split.unread (sp : Split) (owed : List Nat) (time : BitVec 64) : Split :=
  { sp with
    state := .parked
    wait := none
    windows := []
    parkOn := owed
    pendingTrap := some { cause := .stackSpill, lanes := sp.mask, time := time, stop := true } }

/-- Pop the top stacked split into a free split-table entry (R208, R209); a spill-ring read that fails stops the split
(R210). -/
def State.popInto (s : State) (asid gid k : Nat) : State :=
  match s.groups.look gid with
  | none => s
  | some g =>
    match g.stack with
    | [] => s
    | x :: rest =>
      let x := { x with bbc := 0, idle := 0, ready := false, readySlots := 0 }
      let fromRing := g.stack.length ≤ g.spilled
      let place := fun (s : State) (y : Split) => s.modGroup gid fun g =>
        { g with stack := rest, spilled := if fromRing then g.spilled - 1 else g.spilled, res := g.res.put k y }
      if !fromRing then place s x
      else
        match s.teams.look g.team, s.ctxs.look asid with
        | some t, some c =>
          let at_ := ringAddr c t.slot g.index (g.ringBottom + g.spilled - 1)
          match s.readAs (.core t.core) asid at_ 64 64 with
          | (s, .inl _) => place s x
          | (s, .inr _) =>
            let owed := s.owed t.core gid x.tag
            let s := place s (x.unread owed s.time)
            if owed.isEmpty then s.later (.trapDelivery gid x.tag) else s
        | _, _ => s

/-- Fill every free split-table entry from the stack, lowest index first (R208). -/
def State.fillEntries (s : State) (asid gid : Nat) : State :=
  [0, 1, 2, 3].foldl (fun (s : State) k =>
    match s.groups.look gid with
    | some g => if (g.res.look k).isNone then s.popInto asid gid k else s
    | none => s) s

/-- Swap the resident split at index k to the bottom of the stack and pop the top into its entry (R214). A failed write to
the ring leaves the stack as it is, with a record and the context FAULTED (R210). -/
def State.swapOut (s : State) (asid gid k : Nat) : State :=
  match s.groups.look gid with
  | none => s
  | some g =>
    match g.res.look k, s.teams.look g.team, s.ctxs.look asid with
    | some x, some t, some c =>
      if g.stack.isEmpty then s
      else
        let x := { x with bbc := 0, idle := 0, ready := false }
        let ring := g.spilled != 0 || 32 ≤ s.sramUsed (quadOf t g)
        let removed := fun (s : State) => s.modGroup gid fun g => { g with res := g.res.del k }
        if !ring then
          ((removed s).modGroup gid fun g => { g with stack := g.stack ++ [x] }).popInto asid gid k
        else
          let bottom := (g.ringBottom + 31) % 32
          match s.ringWrite t.core asid c t.slot g.index bottom x with
          | (s, none) =>
            ((removed s).modGroup gid fun g =>
              { g with stack := g.stack ++ [x], spilled := g.spilled + 1, ringBottom := bottom }).popInto asid gid k
          | (s, some _) =>
            let s := s.modSplit gid k fun y => { y with bbc := 0, idle := 0 }
            let s := s.trapRecord asid
              { time := s.time, pc := x.pc, lanes := x.mask, kernel := t.kernel, team := t.linear, group := g.index
                split := k, nested := x.firmware, core := t.core, cause := .stackSpill }
            s.faultCtx asid
    | _, _, _ => s

/-! ### JOIN (R228) -/

/-- The rejoin register of a split that waits at a JOIN. -/
def Split.joinReg (sp : Split) : Option Nat :=
  match sp.state, sp.wait with
  | .waiting, some (.join j) => some j
  | _, _ => none

/-- The splits of a group that wait at the JOIN where `sp` waits: same address, rejoin register and mode (R228). -/
def Group.joiners (g : Group) (sp : Split) : List Split :=
  g.splits.filter fun y => y.joinReg == sp.joinReg && y.joinReg.isSome && y.pc == sp.pc && y.firmware == sp.firmware

/-- The lanes a JOIN of rejoin register j still waits for (R228). -/
def Group.joinWanted (g : Group) (j : Nat) : Word :=
  let stopped := (g.splits.filter fun y => y.state == .stopped).foldl (fun m y => m ||| y.mask) 0
  g.jreg j &&& ~~~ g.exited &&& ~~~ stopped

/-- A split waiting at a JOIN whose condition holds, if the group has one. -/
def Group.joinable (g : Group) : Option Split :=
  g.splits.find? fun sp =>
    match sp.joinReg with
    | some j => g.joinWanted j &&& ~~~ ((g.joiners sp).foldl (fun m y => m ||| y.mask) 0) == 0
    | none => false

/-- Merge the splits that wait with `sp` at a JOIN into one READY split: at the lowest resident index among them, or at the
topmost one's place in the stack (R228). It keeps the TAG and BBC of the split whose index or place it takes: R228 names neither, and
that split has not become resident anew (DEDUCED, log entry 56). -/
def Group.mergeJoin (g : Group) (sp : Split) : Group :=
  let js := g.joiners sp
  let tags := js.map Split.tag
  let finish := fun (y : Split) =>
    { y with
      mask := js.foldl (fun m z => m ||| z.mask) 0
      pc := y.pc + 4
      state := .ready
      wait := none
      waitPulses := 0
      idle := 0
      readySlots := 0
      nr := false
      windows := []
      drainArmed := js.any Split.drainArmed
      age := js.foldl (fun a z => min a z.age) y.age }
  match g.res.find? (fun p => tags.contains p.2.tag) with
  | some (k, y) =>
    let inSram := g.stack.take (g.stack.length - g.spilled)
    let inRing := g.stack.drop (g.stack.length - g.spilled)
    let keep := fun (l : List Split) => l.filter fun z => !tags.contains z.tag
    { g with
      res := (g.res.filter fun p => p.1 == k || !tags.contains p.2.tag).map fun p => if p.1 == k then (k, finish y) else p
      stack := keep inSram ++ keep inRing
      spilled := (keep inRing).length }
  | none =>
    match g.stack.find? (fun y => tags.contains y.tag) with
    | some y =>
      let change := fun (l : List Split) =>
        (l.filter fun z => z.tag == y.tag || !tags.contains z.tag).map fun z => if z.tag == y.tag then finish z else z
      let inSram := g.stack.take (g.stack.length - g.spilled)
      let inRing := g.stack.drop (g.stack.length - g.spilled)
      { g with stack := change inSram ++ change inRing, spilled := (change inRing).length }
    | none => g

/-- Evaluate the pending JOINs of a group until none is released, filling the freed entries (R228). -/
def State.rejoinFuel (s : State) (asid gid fuel : Nat) : State :=
  match fuel with
  | 0 => s
  | fuel + 1 =>
    match s.groups.look gid with
    | none => s
    | some g =>
      match g.joinable with
      | none => s
      | some sp => ((s.modGroup gid fun g => g.mergeJoin sp).fillEntries asid gid).rejoinFuel asid gid fuel

/-- Evaluate the pending JOINs of a group (R228); a group has at most 32 splits. -/
def State.rejoin (s : State) (asid gid : Nat) : State := s.rejoinFuel asid gid 32

/-- What a split that is stopped keeps and loses (R147). -/
def Split.stop (sp : Split) : Split :=
  { sp with state := .stopped, wait := none, parkOn := [], windows := [], pendingTrap := none, peerRead := [] }

/-- Stop a split: it issues nothing more, a record is written and the context goes FAULTED (R147). -/
def State.stopSplit (s : State) (cx : Cx) (r : Record) : State :=
  let s := (s.modTag cx.gid cx.sp.tag Split.stop).dropFaults cx.quad cx.gid cx.sp.tag
  let s := (s.trapRecord cx.asid r).faultCtx cx.asid
  (s.haltCheck cx.gid).rejoin cx.asid cx.gid

/-- Deliver a trap to a split (R147, R148, R101): to the handler in program mode with a valid handler, otherwise the split
stops. -/
def State.deliver (s : State) (cx : Cx) (t : Trap) : State :=
  match cx.sp.firmware || t.stop, cx.ctx.handler with
  | false, some h =>
    let pc := if t.atNext then cx.sp.pc + 4 else cx.sp.pc
    s.modGroup cx.gid fun g =>
      (((g.setG 61 pc).setG 62 t.addr).setG 63 t.g63).modTag cx.sp.tag fun sp =>
        { sp with
          pc := h
          firmware := true
          nr := false
          state := .ready
          wait := none
          waitPulses := 0
          windows := []
          parkOn := []
          pendingTrap := none
          peerRead := []
          idle := 0
          trap61 := pc
          trap62 := t.addr
          trap63 := t.g63
          trapNr := sp.nr
          trapAux := t.aux
          trapTime := t.time
          placeWait := none
          drainTo := none
          tshad61 := g.greg 61
          tshad62 := g.greg 62
          tshad63 := g.greg 63 }
  | _, _ => s.stopSplit cx (trapRecordOf cx t cx.k)

/-- Raise a trap at the issuing split: delivered at once, or after every reply owed to the split (R222). -/
def State.raiseTrap (s : State) (cx : Cx) (t : Trap) : State :=
  let t := { t with time := s.time }
  match s.owed cx.core cx.gid cx.sp.tag with
  | [] => s.deliver cx t
  | tags => s.modTag cx.gid cx.sp.tag fun sp =>
      { sp with state := .parked, windows := [], parkOn := tags, pendingTrap := some t, peerRead := [] }

/-- Raise a cause for the whole split, with a faulting address. -/
def State.trapAll (s : State) (cx : Cx) (c : Cause) (addr : DWord := 0) (aux : DWord := 0) : State :=
  s.raiseTrap cx { cause := c, lanes := cx.sp.mask, addr := addr, aux := aux }

/-- One instruction has issued: it counts in every window that was open (R216), and its stalls and drains are over. -/
def Split.tick (sp : Split) : Split :=
  { sp with windows := sp.windows.map (fun w => { w with left := w.left - 1 }), placeWait := none, drainTo := none }

/-- Return from a trap (R151): pc := g61, g61 to g63 from the shadow, program mode, the saved no-reuse mark put back
(R101). -/
def State.returnTrap (s : State) (cx : Cx) : State :=
  s.modGroup cx.gid fun g =>
    (((g.setG 61 cx.sp.tshad61).setG 62 cx.sp.tshad62).setG 63 cx.sp.tshad63).modTag cx.sp.tag fun sp =>
      { sp.tick with pc := cx.grp.greg 61, firmware := false, nr := sp.trapNr, trapNr := false }

/-- Decline a trap (R152): the record holds g61 to g63 as delivered, with HANDLED, and the split stops. -/
def State.declineTrap (s : State) (cx : Cx) : State :=
  let g63 := cx.sp.trap63.toNat
  let cause := ([Cause.illegal, .priv, .lookahead, .misalign, .noncanon, .perm, .page, .peerFault, .peerTimeout
    , .barrierOverrun, .matrixNotHeld, .stackSpill, .polderShare, .formatSlot, .software, .watchdog].find?
      fun c => c.code == g63 % 256).getD .softError
  s.stopSplit cx
    { time := cx.sp.trapTime
      aux := if cause == .software then BitVec.ofNat 64 (g63 / 2 ^ 16 % 16) else cx.sp.trapAux
      addr := cx.sp.trap62, pc := cx.sp.trap61, lanes := BitVec.ofNat 32 (g63 / 2 ^ 32)
      kernel := cx.team.kernel, team := cx.team.linear, group := cx.grp.index, split := cx.k, nested := false
      handled := true, core := cx.core, cause := cause }

/-! ### Releases and acquires (R72 to R76, R253, R314) -/

/-- Every earlier store of a group has left its store queue (R324). -/
def State.storesLeft (s : State) (gid : Nat) : Bool :=
  match s.groups.look gid with
  | some g => g.storeQ.isEmpty
  | none => true

/-- Every earlier store of a group has been acknowledged (R158, R197, R434). -/
def State.storesAcked (s : State) (core gid : Nat) : Bool := s.storesLeft gid && (s.core core).inflight.all fun x => x.group != gid

/-- The drain before a release at band scope or wider and before an engine request: every earlier store of the group, and every store
that the core's L1 had taken by then, is acknowledged (R74). R74 asks the second of an engine request; a release needs it too, since
R68 orders before it what the group has read from another group's store (DEDUCED, log entry 57). -/
def State.drained (s : State) (cx : Cx) : Bool :=
  match cx.sp.drainTo with
  | some n => (s.core cx.core).inflight.all fun x => decide (n ≤ x.serial)
  | none => s.storesLeft cx.gid && (s.core cx.core).inflight.isEmpty

/-- An L1 line, by its line number, lies in a page that an acquire invalidates: SHARED, host or peer (R75). -/
def State.acquireDrops (s : State) (line : Nat) : Bool :=
  match s.paKind (line * 128) with
  | .device =>
    match s.classes.look (s.redirect (line * 128) / 65536) with
    | some r => r.cls == .shared
    | none => false
  | _ => true

/-- The effect of an acquire at a scope: reuse entries die at team scope and wider, L1 lines of SHARED, host and peer pages
are invalidated at band scope and wider (R75, R253). -/
def State.acquire (s : State) (core quad scope : Nat) : State :=
  let s := if 2 ≤ scope then s.killQuad quad else s
  if 3 ≤ scope then s.modCore core fun x => { x with l1 := x.l1.filter fun p => !s.acquireDrops p.1 } else s

/-- Every earlier posted store of a group to a peer has been answered (R76). -/
def State.peerStoresAcked (s : State) (gid : Nat) : Bool :=
  s.peerReqs.all fun r =>
    match r.2.entry with
    | some e => e.group != gid
    | none => true

/-- The tags on which a release at a scope must still wait (R74, R76, R303, R312). -/
def State.releaseTags (s : State) (cx : Cx) (scope : Nat) : List Nat :=
  (if 3 ≤ scope && !s.drained cx then [storeTag] else []) ++ (if scope == 5 && !s.peerStoresAcked cx.gid then [postTag] else [])

/-- A release at a scope must still wait. -/
def State.releaseWaits (s : State) (cx : Cx) (scope : Nat) : Bool := !(s.releaseTags cx scope).isEmpty

/-- Park on stores: the ones that the L1 has taken by now are awaited, once those of the group are among them (R74). -/
def State.parkStores (s : State) (cx : Cx) (tags : List Nat) : State :=
  (s.park cx.gid cx.sp.tag tags).modTag cx.gid cx.sp.tag fun sp =>
    { sp with drainTo := if s.storesLeft cx.gid then some (sp.drainTo.getD (s.core cx.core).taken) else sp.drainTo }

/-- Park until a release at a scope may be performed. -/
def State.parkRelease (s : State) (cx : Cx) (scope : Nat) : State := s.parkStores cx (s.releaseTags cx scope)

/-- The trap a system-scope release or fence raises for a posted peer store that faulted or timed out (R76). -/
def Cx.postedTrap (cx : Cx) (scope : Nat) : Option Trap :=
  if scope = 5 then
    match cx.grp.postedFault with
    | some (timedOut, device) =>
      some { cause := if timedOut then .peerTimeout else .peerFault, lanes := cx.sp.mask, aux := BitVec.ofNat 64 device }
    | none => none
  else none

/-! ### Issue and retirement -/

/-- The weight that WTAB gives for a 5-bit set and major (R474); 8 at boot. -/
def State.weight (s : State) (core code : Nat) : Nat :=
  match s.wtabs.look core with
  | some w => w.toNat / 2 ^ (4 * code) % 16
  | none => 8

/-- Add a charge to a core's current account (R473). -/
def State.charge (s : State) (core n : Nat) : State :=
  s.modCore core fun x => { x with account := min (x.account + n) (2 ^ 24 - 1) }

/-- The charge of an instruction: group set W, lane set W times the active lanes, half of W rounded up when every vector
source is stored compressed or uniform (R473). -/
def chargeOf (w code active : Nat) (compressed : Bool) : Nat :=
  if 16 ≤ code then w else (if compressed then (w + 1) / 2 else w) * active

/-- Retire the instruction: next pc, no-reuse mark consumed, windows counted. -/
def Split.retire (sp : Split) : Split := { sp.tick with pc := sp.pc + 4, nr := false, peerRead := [], wait := none, waitPulses := 0 }

/-- Retire the issuing split's instruction with its charge. -/
def State.retire (s : State) (cx : Cx) (n : Nat) : State := (s.modTag cx.gid cx.sp.tag Split.retire).charge cx.core n

/-- The group-set charge of a word's class. -/
def State.retireG (s : State) (cx : Cx) (code : Nat) : State := s.retire cx (s.weight cx.core code)

/-- Invalidate what a wait's release clears: the split becomes READY past the wait (R205). -/
def Split.released (sp : Split) : Split :=
  { sp with state := .ready, pc := sp.pc + 4, nr := false, wait := none, waitPulses := 0, idle := 0, readySlots := 0 }

/-- A WAITING split looks again at what it waits for, by executing its instruction again: the pulses of the wait stay counted. -/
def Split.lookAgain (sp : Split) : Split := { sp with state := .ready, idle := 0 }

/-- Put the issuing split in WAITING (R205); one that goes back to the same wait has waited in it all along (R482). -/
def State.waitOn (s : State) (cx : Cx) (w : Wait) : State :=
  s.modTag cx.gid cx.sp.tag fun sp =>
    { sp with state := .waiting, wait := some w, waitPulses := if sp.wait = some w then sp.waitPulses else 0, idle := 0, windows := [] }

/-- Release every WAITING split of a resident team that a test of its group, its wait and itself names: it becomes READY past
the wait, with an acquire at a scope by its group (R205, R72). -/
def State.releaseWhere (s : State) (p : Nat → Wait → Split → Bool) (scope : Nat) : State :=
  s.groups.foldl (fun s e =>
    let hit := fun (sp : Split) =>
      match sp.state, sp.wait with
      | .waiting, some w => p e.1 w sp
      | _, _ => false
    match e.2.splits.any hit, s.teams.look e.2.team with
    | true, some t =>
      if t.state == .resident || t.state == .saving then
        (s.modGroup e.1 fun g =>
          { g with
            res := g.res.map fun q => if hit q.2 then (q.1, q.2.released) else q
            stack := g.stack.map fun sp => if hit sp then sp.released else sp }).acquire t.core (quadOf t e.2) scope
      else s
    | _, _ => s) s

/-- Park a split FAULTED at an access without a sluice entry, with its page request (R221, R414). -/
def State.parkFault (s : State) (cx : Cx) (va : DWord) (k : AccessKind) : State :=
  (s.pageRequest cx.asid va.toNat k (.split cx.gid cx.sp.tag)).modTag cx.gid cx.sp.tag fun sp =>
    { sp with state := .faulted, idle := 0, faultAddr := va, wait := none }

/-- A state after a trial of a split's instruction in which it has not issued: the split is as it was, or parks until replies or stores
have arrived. One that parks for a peer's answer or for polder 0's drain has issued. -/
def State.heldBack (t : State) (cx : Cx) : Bool :=
  let bare := fun (sp : Split) => { sp with ready := false, placeWait := none, drainTo := none }
  match t.groups.look cx.gid with
  | none => false
  | some g =>
    match g.byTag cx.sp.tag with
    | none => false
    | some sp =>
      bare sp == bare cx.sp
      || (sp.state == .parked && sp.pendingTrap.isNone && !(sp.parkOn.contains peerTag || sp.parkOn.contains zeroTag))

/-- The examination of a split's next instruction, whose trial leaves `r` (R206): one that has not issued keeps what the trial has begun
(its place among the stalled, a request that it waits for, its parking) and is not ready; any other is ready, and nothing else changes. -/
def State.examined (s : State) (cx : Cx) (r : Result) : State :=
  match r with
  | .next t => if t.heldBack cx then t else s.modTag cx.gid cx.sp.tag fun sp => { sp with ready := true }
  | _ => s.modTag cx.gid cx.sp.tag fun sp => { sp with ready := true }

/-- A result would take the last step of place() before the split has stalled for 64 issue slots (R237). -/
def State.placeStalls (s t : State) (cx : Cx) : Bool :=
  (s.quad cx.quad).overflowFull && decide (cx.sp.placeWait.getD 0 < 64) && (s.quad cx.quad).tookForeign (t.quad cx.quad)

/-- The split stalls on the overflow region (R206, R237). -/
def State.placeStall (s : State) (cx : Cx) : State :=
  s.modTag cx.gid cx.sp.tag fun sp => { sp with placeWait := some (sp.placeWait.getD 0) }

/-- The result of an instruction with a vector destination, or the stall of R237 before it. -/
def State.unlessPlaceStalls (s : State) (cx : Cx) (r : Result) : Result :=
  match r with
  | .next t => if s.placeStalls t cx then .next (s.placeStall cx) else .next t
  | x => x

/-- The checks before an instruction of a split executes (R99 check 6, R216, R218, R242, R300), then its effect. A split that must
park or stall issues nothing in this step. A poisoned source raises SOFT_ERROR before the body's own checks, FORMAT_SLOT among them: the
spec orders the two nowhere (DESIGN CHOICE, log entry 58). -/
def checked (u : Uses) (body : Cx → State → Result) (cx : Cx) (s : State) : Result :=
  let tags := parkTags (s.owed cx.core cx.gid cx.sp.tag) cx.sp.windows u
  if tags ≠ [] then .next (s.park cx.gid cx.sp.tag tags)
  else if u.firmware && !cx.sp.firmware then .next (s.trapAll cx .priv)
  else if u.touches (s.pending cx.core cx.gid fun t => t == cx.sp.tag) then .next (s.trapAll cx .lookahead)
  else if u.touches (s.pending cx.core cx.gid fun t => t != cx.sp.tag) then .next s
  else if u.poisoned cx.grp then .next (s.trapAll cx .softError)
  else if u.vw = [] then body cx s
  else s.unlessPlaceStalls cx (body cx s)

/-- An instruction word of the split that the part runs or examines. -/
def gate (u : Uses) (body : Cx → State → Result) (s : State) : Result :=
  match s.chosen with
  | none => .fault .noIssuer
  | some cx => if s.probing then .next (s.examined cx (checked u body cx s)) else checked u body cx s

/-! ### The configuration image (R25, R27, R489) -/

/-- Firmware writes a newly signed configuration image with another record to flash (R27, R488, R489): it is signed under a fresh index, and
advances the recorded index when that is its last. None when the indices are exhausted. What the image's digest is, is free (DESIGN CHOICE,
log entry 29). -/
def State.signConfig (s : State) (f : ConfigImage → ConfigImage) : Option State :=
  if 2 ^ 20 ≤ s.xmssNext then none
  else
    let d := Config.signedImage s.xmssNext
    let c := f s.config
    let version := match s.flash.look 3 with
      | some x => x.version
      | none => 0
    some { s with
      config := { c with digest := some d, xmssIndex := if c.xmssIndex ≤ s.xmssNext + 1 then c.xmssIndex + 1024 else c.xmssIndex }
      flash := s.flash.put 3 { version := version, digest := d }
      xmssNext := s.xmssNext + 1 }

/-- Firmware records something in the configuration image, if it can still sign one (R25, R27). -/
def State.recordConfig (s : State) (f : ConfigImage → ConfigImage) : State := (s.signConfig f).getD s

end Sys2Proof.Machine
end

