-- ==== Sys2Proof/Machine/Operands.lean ====
section
/-! DEFINITION. Operand forms and the shared execution of lane-set and group-set instructions: guards, broadcasts, pairs,
merging under the active mask, naming and reuse (R5 to R7, R89, R90, R239, R247 to R249, R256, R268). -/

namespace Sys2Proof.Machine

/-- The registers d to d + n − 1. -/
def regRun (d n : Nat) : List Nat := (List.range n).map (d + ·)

/-- A lane instruction: its word with the operand fields and la cleared, its guard, its destination registers, and what it
reads, in operand order. -/
structure LaneOp where
  key : Word
  /-- Guard mask; 0 is unguarded (R89). -/
  guard : Nat := 0
  d : Nat
  n : Nat := 1
  vr : List Nat
  gr : List Nat := []
  /-- Mask registers read as operands (R258). -/
  mr : List Nat := []
  /-- Format slot read (R287). -/
  slot : Option Nat := none
  /-- A reuse candidate by its opcode (R247). -/
  candidate : Bool := true
  deriving DecidableEq, Repr

/-- The set and major of a word, which index WTAB (R474): bits [31:27]. -/
def classOf (key : Word) : Nat := key.toNat / 2 ^ 27

/-- The active lanes of a lane instruction (R5, R89). -/
def Cx.active (cx : Cx) (guard : Nat) : Word := if guard = 0 then cx.sp.mask else cx.sp.mask &&& cx.grp.mreg cx.sp guard

/-- The value of a format slot (R40). -/
def Cx.slotWord (cx : Cx) (k : Nat) : Word := cx.kern.launch.slots.getD k 0

/-- The reuse key of a lane instruction (R248, R258). -/
def LaneOp.reuseKey (o : LaneOp) (cx : Cx) (active : Word) : ReuseKey :=
  { word := o.key
    sources := o.vr.map fun r => Bits.rd cx.grp.names r 2048
    gvals := (o.gr.map fun r => cx.grp.greg r) ++ (o.mr.map fun k => (cx.grp.mreg cx.sp k).zeroExtend 64)
    slot := o.slot.map cx.slotWord
    mask := if active = BitVec.allOnes 32 then none
      else some (active, (regRun o.d o.n).map fun r => Bits.rd cx.grp.names r 2048)
    asid := cx.asid
    firmware := cx.sp.firmware
    generation := none }

/-- The split may look up and make reuse entries (R101, R247). -/
def Cx.reuses (cx : Cx) : Bool := !cx.sp.nr && !cx.kern.launch.noreuse

/-- Write the active lanes of n registers from d: register d takes word 0 of each lane's value, d + 1 word 1 (R5, R239). A
register that keeps an inactive lane keeps its poison. -/
def Group.writeLanes (g : Group) (active : Word) (d n : Nat) (f : Nat → BitVec 128) : Group :=
  (List.range n).foldl (fun g k =>
    let new := Bits.tab fun l => (f l).extractLsb' (32 * k) 32
    let old := g.vreg (d + k)
    let bad := active != BitVec.allOnes 32 && g.vPoison.getLsbD (d + k)
    let g := g.setV (d + k) (Bits.merge active old new)
    if bad then { g with vPoison := g.vPoison ||| BitVec.twoPow 64 (d + k) } else g) g

/-- All vector sources are stored compressed or uniform (R241, R473); so are those of an instruction that has none (DEDUCED, log entry 17). -/
def Group.narrowSources (g : Group) (vr : List Nat) : Bool := vr.all fun r => compressed (g.vreg r)

/-- Execute a lane instruction with vector destinations: a reuse hit retires it (R249); otherwise each active lane takes its
value, the flags are raised, and the results are named (R237, R239). -/
def laneBody (o : LaneOp) (f : Cx → Word → (Nat → BitVec 128) × FlagSet) (cx : Cx) (s : State) : State :=
  let active := cx.active o.guard
  let key := o.reuseKey cx active
  let try_ := o.candidate && cx.reuses
  let hit := if try_ then s.reuseFind cx.quad key else none
  let s := if try_ then s.countLookup cx.quad else s
  match hit with
  | some e => (s.reuseHit cx.quad cx.gid o.d e).retire cx 0
  | none =>
    let r := f cx active
    let s := s.modGroup cx.gid fun g => (g.writeLanes active o.d o.n r.1).raise r.2
    let s := s.nameRegs cx.quad cx.gid o.d o.n
    let s := if try_ then s.reuseMake cx.quad
        { key := key
          results := match s.groups.look cx.gid with
            | some g => (regRun o.d o.n).map fun k => Bits.rd g.names k 2048
            | none => []
          flags := r.2
          pages := [] }
      else s
    s.retire cx (chargeOf (s.weight cx.core (classOf o.key)) (classOf o.key) (Bits.popcount active) (cx.grp.narrowSources o.vr))

/-- What a lane instruction touches. -/
def LaneOp.uses (o : LaneOp) : Uses :=
  { vr := o.vr, vw := regRun o.d o.n, gr := o.gr, mr := o.guard :: o.mr }

/-- A lane instruction whose lanes may read each other. -/
def laneWhole (o : LaneOp) (f : Cx → Word → (Nat → BitVec 128) × FlagSet) : State → Result :=
  gate o.uses fun cx s => .next (laneBody o f cx s)

/-- The OR of the flags of the active lanes (R47). -/
def orFlags (active : Word) (f : Nat → FlagSet) : FlagSet := (Bits.lanes active).foldl (fun a l => a ||| f l) 0

/-- A lane instruction computed lane by lane. -/
def laneEach (o : LaneOp) (f : Cx → Nat → BitVec 128 × FlagSet) : State → Result :=
  laneWhole o fun cx active => (fun l => (f cx l).1, orFlags active fun l => (f cx l).2)

/-! ### LR rows (R87, R89, R90, R256) -/

/-- The key of an LR word. -/
def keyLR (maj min : Nat) (g : BitVec 3) : Word := BitVec.ofNat 32 (maj * 2 ^ 27 + min * 2 ^ 21 + g.toNat * 2 ^ 18)

/-- The guard mask of an LR word: gd = 7 broadcasts and is unguarded. -/
def guardLR (g : BitVec 3) : Nat := if g = 7 then 0 else g.toNat

/-- An LR row with destination run, first source run and second source of `bn` registers (0: none) or a broadcast. -/
def opLR (maj min : Nat) (g : BitVec 3) (d n a an b bn : Nat) (readsD : Bool := false) : LaneOp :=
  { key := keyLR maj min g
    guard := guardLR g
    d := d
    n := n
    vr := (if readsD then regRun d n else []) ++ regRun a an ++ (if g = 7 then [] else regRun b bn)
    gr := if g = 7 ∧ bn ≠ 0 then [b] else [] }

/-- The word operand b (R90, R256). -/
def Cx.bWord (cx : Cx) (g : BitVec 3) (b l : Nat) : Word := if g = 7 then (cx.grp.greg b).setWidth 32 else cx.grp.vlane b l

/-- The pair operand b. -/
def Cx.bPair (cx : Cx) (g : BitVec 3) (b l : Nat) : DWord := if g = 7 then cx.grp.greg b else cx.grp.vpair b l

/-- A lane result of one word. -/
def word1 (x : Word) : BitVec 128 := x.zeroExtend 128
/-- A lane result of a pair. -/
def word2 (x : DWord) : BitVec 128 := x.zeroExtend 128

/-- Word result of word a. -/
def lr1 (maj min : Nat) (g : BitVec 3) (d a : BitVec 6) (f : Word → Word × FlagSet) : State → Result :=
  laneEach (opLR maj min g d.toNat 1 a.toNat 1 0 0) fun cx l =>
    let r := f (cx.grp.vlane a.toNat l); (word1 r.1, r.2)

/-- Word result of words a and b. -/
def lr2 (maj min : Nat) (g : BitVec 3) (d a b : BitVec 6) (f : Word → Word → Word × FlagSet) : State → Result :=
  laneEach (opLR maj min g d.toNat 1 a.toNat 1 b.toNat 1) fun cx l =>
    let r := f (cx.grp.vlane a.toNat l) (cx.bWord g b.toNat l); (word1 r.1, r.2)

/-- Pair result of words a and b. -/
def lrPww (maj min : Nat) (g : BitVec 3) (d a b : BitVec 6) (f : Word → Word → DWord) : State → Result :=
  laneEach (opLR maj min g d.toNat 2 a.toNat 1 b.toNat 1) fun cx l =>
    (word2 (f (cx.grp.vlane a.toNat l) (cx.bWord g b.toNat l)), 0)

/-- Pair result of pairs a and b. -/
def lrPpp (maj min : Nat) (g : BitVec 3) (d a b : BitVec 6) (f : DWord → DWord → DWord × FlagSet) : State → Result :=
  laneEach (opLR maj min g d.toNat 2 a.toNat 2 b.toNat 2) fun cx l =>
    let r := f (cx.grp.vpair a.toNat l) (cx.bPair g b.toNat l); (word2 r.1, r.2)

/-- Pair result of pair a and word b. -/
def lrPpw (maj min : Nat) (g : BitVec 3) (d a b : BitVec 6) (f : DWord → Word → DWord) : State → Result :=
  laneEach (opLR maj min g d.toNat 2 a.toNat 2 b.toNat 1) fun cx l =>
    (word2 (f (cx.grp.vpair a.toNat l) (cx.bWord g b.toNat l)), 0)

/-- Pair result of pair a. -/
def lrPp (maj min : Nat) (g : BitVec 3) (d a : BitVec 6) (f : DWord → DWord × FlagSet) : State → Result :=
  laneEach (opLR maj min g d.toNat 2 a.toNat 2 0 0) fun cx l =>
    let r := f (cx.grp.vpair a.toNat l); (word2 r.1, r.2)

/-- Pair result of word a. -/
def lrPw (maj min : Nat) (g : BitVec 3) (d a : BitVec 6) (f : Word → DWord × FlagSet) : State → Result :=
  laneEach (opLR maj min g d.toNat 2 a.toNat 1 0 0) fun cx l =>
    let r := f (cx.grp.vlane a.toNat l); (word2 r.1, r.2)

/-- Word result of pair a. -/
def lrWp (maj min : Nat) (g : BitVec 3) (d a : BitVec 6) (f : DWord → Word × FlagSet) : State → Result :=
  laneEach (opLR maj min g d.toNat 1 a.toNat 2 0 0) fun cx l =>
    let r := f (cx.grp.vpair a.toNat l); (word1 r.1, r.2)

/-! ### Compares and V2M: lane instructions that write a mask register (R261, R262, R283) -/

/-- Write the active lanes' bits of mask register k, keep the others (R7, R261). A mask that keeps a bit keeps its poison. -/
def Group.writeMask (g : Group) (active : Word) (k : Nat) (f : Nat → Bool) : Group :=
  let bad := active != BitVec.allOnes 32 && g.mPoison.getLsbD k
  let g := g.setM k ((Bits.rd g.m k 0 &&& ~~~ active) ||| (Bits.maskBy f &&& active))
  if bad then { g with mPoison := g.mPoison ||| BitVec.twoPow 8 k } else g

/-- A lane instruction that writes a mask register. It is never a reuse candidate (R247). -/
def laneMask (code guard k : Nat) (vr gr : List Nat) (f : Cx → Nat → Bool × FlagSet) : State → Result :=
  gate { vr := vr, gr := gr, mr := [guard] } fun cx s =>
    let active := cx.active guard
    let s := s.modGroup cx.gid fun g =>
      (g.writeMask active k fun l => (f cx l).1).raise (orFlags active fun l => (f cx l).2)
    .next (s.retire cx (chargeOf (s.weight cx.core code) code (Bits.popcount active) (cx.grp.narrowSources vr)))

/-- A compare of words a and b. -/
def lrCmp (g k : BitVec 3) (a b : BitVec 6) (f : Word → Word → Bool × FlagSet) : State → Result :=
  laneMask 2 (guardLR g) k.toNat (a.toNat :: if g = 7 then [] else [b.toNat]) (if g = 7 then [b.toNat] else []) fun cx l =>
    f (cx.grp.vlane a.toNat l) (cx.bWord g b.toNat l)

/-- A compare of pairs a and b. -/
def lrCmpP (g k : BitVec 3) (a b : BitVec 6) (f : DWord → DWord → Bool × FlagSet) : State → Result :=
  laneMask 2 (guardLR g) k.toNat (regRun a.toNat 2 ++ if g = 7 then [] else regRun b.toNat 2)
    (if g = 7 then [b.toNat] else []) fun cx l => f (cx.grp.vpair a.toNat l) (cx.bPair g b.toNat l)

/-! ### LF, LI, LK and LX rows -/

/-- An LF row: three source runs. -/
def opLF (maj min d n a an b bn c cn : Nat) : LaneOp :=
  { key := BitVec.ofNat 32 (maj * 2 ^ 27 + min * 2 ^ 24), d := d, n := n, vr := regRun a an ++ regRun b bn ++ regRun c cn }

/-- Word result of words a, b and c. -/
def lf3 (maj min : Nat) (d a b c : BitVec 6) (f : Word → Word → Word → Word × FlagSet) : State → Result :=
  laneEach (opLF maj min d.toNat 1 a.toNat 1 b.toNat 1 c.toNat 1) fun cx l =>
    let r := f (cx.grp.vlane a.toNat l) (cx.grp.vlane b.toNat l) (cx.grp.vlane c.toNat l); (word1 r.1, r.2)

/-- Pair result of pairs a, b and c. -/
def lfP3 (maj min : Nat) (d a b c : BitVec 6) (f : DWord → DWord → DWord → DWord × FlagSet) : State → Result :=
  laneEach (opLF maj min d.toNat 2 a.toNat 2 b.toNat 2 c.toNat 2) fun cx l =>
    let r := f (cx.grp.vpair a.toNat l) (cx.grp.vpair b.toNat l) (cx.grp.vpair c.toNat l); (word2 r.1, r.2)

/-- Pair result of words a and b and pair c. -/
def lfPwwp (maj min : Nat) (d a b c : BitVec 6) (f : Word → Word → DWord → DWord) : State → Result :=
  laneEach (opLF maj min d.toNat 2 a.toNat 1 b.toNat 1 c.toNat 2) fun cx l =>
    (word2 (f (cx.grp.vlane a.toNat l) (cx.grp.vlane b.toNat l) (cx.grp.vpair c.toNat l)), 0)

/-- The key of an LI word. -/
def keyLI (maj min : Nat) (g : BitVec 3) (imm : Nat) : Word := BitVec.ofNat 32 (maj * 2 ^ 27 + min * 2 ^ 23 + g.toNat * 2 ^ 20 + imm)

/-- Word result of word a and the immediate in the word; `readsD` for BFI. -/
def li1 (maj min : Nat) (g : BitVec 3) (d a : BitVec 6) (imm : Nat) (readsD : Bool) (f : Cx → Nat → Word → Word) : State → Result :=
  laneEach { key := keyLI maj min g imm, guard := g.toNat, d := d.toNat
             vr := (if readsD then [d.toNat] else []) ++ [a.toNat] } fun cx l =>
    (word1 (f cx l (cx.grp.vlane a.toNat l)), 0)

/-- A compare of word a with an immediate. -/
def liCmp (g k : BitVec 3) (a : BitVec 6) (r : Rel) (i : Word) : State → Result :=
  laneMask 8 g.toNat k.toNat [a.toNat] [] fun cx l => (r.holds (cx.grp.vlane a.toNat l) i, 0)

/-- An LK row: the destination and a 16-bit immediate. -/
def lk1 (min : Nat) (g : BitVec 3) (d : BitVec 6) (i : BitVec 16) (readsD : Bool) (f : Word → Word) : State → Result :=
  laneEach { key := BitVec.ofNat 32 (10 * 2 ^ 27 + min * 2 ^ 25 + g.toNat * 2 ^ 22 + i.toNat), guard := g.toNat, d := d.toNat
             vr := if readsD then [d.toNat] else [] } fun cx l => (word1 (f (cx.grp.vlane d.toNat l)), 0)

/-- An LX row that is a reuse candidate: words or pairs of lanes. -/
def lx (min : Nat) (d a : BitVec 6) (n c : Nat) (readsD : Bool) (f : Cx → Word → (Nat → BitVec 128) × FlagSet) : State → Result :=
  laneWhole { key := BitVec.ofNat 32 (14 * 2 ^ 27 + min * 2 ^ 21 + c), d := d.toNat, n := n
              vr := (if readsD then [d.toNat] else []) ++ regRun a.toNat n } f

/-! ### Group-set rows (R96, R268, R269) -/

/-- The width in bits that w names (R96). -/
def widthOf (w : BitVec 3) : Nat :=
  match w.toNat with
  | 0 => 64
  | 1 => 32
  | 2 => 32
  | 3 => 16
  | 4 => 16
  | _ => 8

/-- The low n bits of a result, extended to 64 bits as w states (R96, R268). -/
def extendW (w : BitVec 3) (x : Nat) : DWord :=
  match w.toNat with
  | 0 => BitVec.ofNat 64 x
  | 1 => (BitVec.ofNat 32 x).signExtend 64
  | 2 => (BitVec.ofNat 32 x).zeroExtend 64
  | 3 => (BitVec.ofNat 16 x).signExtend 64
  | 4 => (BitVec.ofNat 16 x).zeroExtend 64
  | 5 => (BitVec.ofNat 8 x).signExtend 64
  | _ => (BitVec.ofNat 8 x).zeroExtend 64

/-- The low n bits of a value as an unsigned number, n the width of w. -/
def lowW (w : BitVec 3) (x : DWord) : Nat := x.toNat % 2 ^ widthOf w

/-- The same as a signed number. -/
def signedW (w : BitVec 3) (x : DWord) : Int :=
  let k := lowW w x
  if k < 2 ^ (widthOf w - 1) then k else (k : Int) - 2 ^ widthOf w

/-- A group-set instruction with its own effect on the state, retired with the charge of its class. -/
def groupOp (code : Nat) (u : Uses) (f : Cx → State → State) : State → Result :=
  gate u fun cx s => .next ((f cx s).retireG cx code)

/-- A group-set instruction that writes a g register. -/
def groupG (code : Nat) (u : Uses) (d : BitVec 6) (f : Cx → DWord) : State → Result :=
  groupOp code { u with gw := d.toNat :: u.gw } fun cx s => s.modGroup cx.gid fun g => g.setG d.toNat (f cx)

/-- A group-set instruction that writes a mask register whole (R231, R272). -/
def groupM (code : Nat) (u : Uses) (k : BitVec 3) (f : Cx → Word) : State → Result :=
  groupOp code u fun cx s => s.modGroup cx.gid fun g => g.setM k.toNat (f cx)

/-- A GR row of two g sources at a width. -/
def gr2 (code : Nat) (w : BitVec 3) (d a b : BitVec 6) (f : DWord → DWord → Nat) : State → Result :=
  groupG code { gr := [a.toNat, b.toNat] } d fun cx => extendW w (f (cx.grp.greg a.toNat) (cx.grp.greg b.toNat))

/-- A GR row of one g source at a width. -/
def gr1 (code : Nat) (w : BitVec 3) (d a : BitVec 6) (f : DWord → Nat) : State → Result :=
  groupG code { gr := [a.toNat] } d fun cx => extendW w (f (cx.grp.greg a.toNat))

/-- A GI row. -/
def gi1 (d a : BitVec 6) (f : DWord → DWord) : State → Result :=
  groupG 19 { gr := [a.toNat] } d fun cx => f (cx.grp.greg a.toNat)

/-- M[0] when a relation of the issuing split holds, else 0 (R272). -/
def maskIf (cx : Cx) (b : Bool) : Word := if b then cx.sp.mask else 0

end Sys2Proof.Machine
end

