-- ==== Sys2Proof/Machine/MemOps.lean ====
section
/-! DEFINITION. Memory accesses of the cores: store queues and L1 (R69, R75, R301), checks over the lanes of an instruction
(R60), the sluice and replay (R215 to R221), scratchpads (R59, R297, R305, R306), atomics (R308, R309). A load or atomic is
performed when its lanes' requests are sent; its reply delivers the value that its event read (R219). -/

namespace Sys2Proof.Machine

/-! ### Bytes as a core sees them -/

/-- The byte that a store piece writes at an address. -/
def Piece.byteAt (p : Piece) (k : StoreKind) (a : Nat) : Option Byte :=
  if p.kind = k ∧ p.addr ≤ a then p.bytes[a - p.addr]? else none

/-- The byte that a store entry writes at an address: the highest-numbered lane's (R64). -/
def StoreEntry.byteAt (e : StoreEntry) (k : StoreKind) (a : Nat) : Option Byte :=
  e.pieces.reverse.findSome? fun p => p.byteAt k a

/-- The byte of the youngest entry of a list, oldest first, that writes an address (R301). -/
def youngest (es : List StoreEntry) (k : StoreKind) (a : Nat) : Option Byte := es.reverse.findSome? fun e => e.byteAt k a

/-- The core's L1 line that holds the byte at an address. -/
def CoreSt.l1Line (c : CoreSt) (a : Nat) : Option L1Line :=
  match c.l1.look (a / 128) with
  | some l => if l.valid.getLsbD (a % 128) then some l else none
  | none => none

/-- The core's L1 holds the n bytes at an address. -/
def CoreSt.l1Has (c : CoreSt) (a n : Nat) : Bool := (List.range n).all fun k => (c.l1Line (a + k)).isSome

/-- The core's stores that are on their way to their homes, oldest first. -/
def CoreSt.onWay (c : CoreSt) : List StoreEntry := (c.inflight.filter fun x => !x.performed).map InFlight.entry

/-- A global byte as the core's groups see it: its L1 line if present and not bypassed, else memory under the core's stores
that are on their way (R69, R75, R301). -/
def State.coreByte (s : State) (core a : Nat) (bypass : Bool) : Byte :=
  let c := s.core core
  match (if bypass then none else c.l1Line a) with
  | some l => l.bytes.getD (a % 128) 0
  | none =>
    match youngest c.onWay .global a with
    | some b => b
    | none => s.physByte a

/-- The bytes that a group's load reads: its own queued stores first (R69). -/
def State.loadBytes (s : State) (core gid a n : Nat) (bypass : Bool) : List Byte :=
  let q := match s.groups.look gid with
    | some g => g.storeQ
    | none => []
  (List.range n).map fun k =>
    match youngest q .global (a + k) with
    | some b => b
    | none => s.coreByte core (a + k) bypass

/-- Whether the youngest entry of a list that writes an address holds poisoned data there, if one writes it (R150, R301). -/
def youngestBad (es : List StoreEntry) (k : StoreKind) (a : Nat) : Option Bool :=
  es.reverse.findSome? fun e => e.pieces.reverse.findSome? fun p => if (p.byteAt k a).isSome then some p.bad else none

/-- A global byte as the core's groups see it carries a soft error (R316): as `State.coreByte` takes it. -/
def State.coreBad (s : State) (core a : Nat) (bypass : Bool) : Bool :=
  let c := s.core core
  match (if bypass then none else c.l1Line a) with
  | some l => l.poison.getLsbD (a % 128 / 8)
  | none =>
    match youngestBad c.onWay .global a with
    | some b => b
    | none => s.physPoisoned a 1

/-- Data that a group reads from its queue, L1 or memory carries a soft error (R316). -/
def State.loadPoisoned (s : State) (core gid a n : Nat) (bypass : Bool) : Bool :=
  let q := match s.groups.look gid with
    | some g => g.storeQ
    | none => []
  (List.range n).any fun k =>
    match youngestBad q .global (a + k) with
    | some b => b
    | none => s.coreBad core (a + k) bypass

/-- The lines that a core's L1 holds: 320 KiB of 128 bytes (R12). -/
def l1Lines : Nat := 2560

/-- Room in a core's L1 for one more line: a full one loses a line that a free value names (R12; DESIGN CHOICE, log entry 14). -/
def State.roomL1 (s : State) (core a : Nat) : State :=
  let c := s.core core
  if (c.l1.look (a / 128)).isSome || decide (c.l1.length < l1Lines) then s
  else
    let victim := (c.l1.getD ((Config.freeValue s.fresh).toNat % l1Lines) (0, { bytes := [] })).1
    ({ s with fresh := s.fresh + 1 } : State).modCore core fun c => { c with l1 := c.l1.del victim }

/-- The bytes that a group's load takes from its store queue, by position in the access (R69). -/
def State.ownBytes (s : State) (gid a n : Nat) : List (Nat × Byte) :=
  match s.groups.look gid with
  | some g => (List.range n).filterMap fun k => (youngest g.storeQ .global (a + k)).map fun b => (k, b)
  | none => []

/-- A reply from a peer enters the core's L1 (R75, R299). -/
def State.fillPeer (s : State) (core a : Nat) (bs : List Byte) : State :=
  (s.roomL1 core a).modCore core fun c =>
    let l := (c.l1.look (a / 128)).getD { bytes := List.replicate 128 0, valid := 0 }
    let put := (List.range bs.length).foldl (fun (l : L1Line) k =>
      { l with
        bytes := l.bytes.set ((a + k) % 128) (bs.getD k 0)
        valid := l.valid ||| BitVec.twoPow 128 ((a + k) % 128) }) l
    { c with l1 := c.l1.put (a / 128) put }

/-- Bring the line of an address into L1 (R299). -/
def State.fillL1 (s : State) (core a : Nat) : State :=
  if (s.core core).l1Has a 1 then s
  else
    let s := s.roomL1 core a
    let base := a / 128 * 128
    let bytes := (List.range 128).map fun k => s.coreByte core (base + k) true
    let poison := Bits.maskBy fun w => w < 16 && (List.range 8).any fun k => s.coreBad core (base + 8 * w + k) true
    s.modCore core fun c => { c with l1 := c.l1.put (a / 128) { bytes := bytes, poison := poison.setWidth 16 } }

/-- Drop a core's L1 copy of the line of an address (R309). -/
def State.dropL1 (s : State) (core a : Nat) : State := s.modCore core fun c => { c with l1 := c.l1.del (a / 128) }

/-- Update the present L1 lines with a store piece (R301). A word covered wholly loses its poison. -/
def updateL1 (l1 : Map L1Line) (p : Piece) : Map L1Line :=
  l1.map fun e =>
    let base := e.1 * 128
    if p.kind = .global ∧ p.addr < base + 128 ∧ base < p.addr + p.bytes.length then
      (e.1, { e.2 with
        bytes := (List.range 128).map fun k => (p.byteAt .global (base + k)).getD (e.2.bytes.getD k 0)
        valid := e.2.valid ||| (Bits.maskBy fun k => k < 128 && (p.byteAt .global (base + k)).isSome).setWidth 128
        poison := (e.2.poison &&& ~~~ (Bits.maskBy fun w =>
            w < 16 && (List.range 8).all fun k => (p.byteAt .global (base + 8 * w + k)).isSome).setWidth 16)
          ||| (Bits.maskBy fun w =>
            w < 16 && p.bad && (List.range 8).any fun k => (p.byteAt .global (base + 8 * w + k)).isSome).setWidth 16 })
    else e

/-- Two byte ranges share a byte. -/
def rangesMeet (a n b m : Nat) : Bool := a < b + m && b < a + n

/-- A store of this core on its way to its home writes a byte of a range. -/
def State.inflightMeets (s : State) (core : Nat) (k : StoreKind) (a n : Nat) : Bool :=
  (s.core core).onWay.any fun e => e.pieces.any fun p => p.kind == k && rangesMeet p.addr p.bytes.length a n

/-- An acquire of device scope or wider does not read L1 (R75). -/
def Access.bypass (a : Access) : Bool := a.acquire.any fun sc => decide (3 ≤ sc)

/-- Bytes an access of an operation covers. -/
def atomicSize (code : Nat) : Nat := if 11 ≤ code then 8 else 4

/-- Bytes of a lane's access. -/
def MemOp.size (m : MemOp) : Nat :=
  match m with
  | .load n _ => n
  | .store n => n
  | .atomic c => atomicSize c

/-- The access kind for permissions (R296). -/
def MemOp.kind (m : MemOp) : AccessKind :=
  match m with
  | .load _ _ => .read
  | .store _ => .write
  | .atomic _ => .atomic

/-- The operation is an atomic. -/
def MemOp.isAtomic (m : MemOp) : Bool :=
  match m with
  | .atomic _ => true
  | _ => false

/-- The operation is a store. -/
def MemOp.isStore (m : MemOp) : Bool :=
  match m with
  | .store _ => true
  | _ => false

/-- The operation is a load. -/
def MemOp.isLoad (m : MemOp) : Bool :=
  match m with
  | .load _ _ => true
  | _ => false

/-- An atomic of the group whose reply is owed covers a byte of a range: a later access of the group waits (R309). -/
def State.atomicOwed (s : State) (core gid a n : Nat) : Bool :=
  (s.core core).sluice.any fun e =>
    e.2.group == gid && e.2.access.op.isAtomic && e.2.reqs.any fun r =>
      (e.2.pend &&& BitVec.twoPow 32 r.lane) != 0 && rangesMeet r.pa e.2.access.op.size a n

/-! ### Atomics (R308) -/

/-- The new value of a location, or none where the operation writes nothing (R116, R308). -/
def atomicNew (code old x y : Nat) : Option Nat :=
  let a : Word := BitVec.ofNat 32 old
  let b : Word := BitVec.ofNat 32 x
  let big := fun (v : Nat) => v % 2 ^ 64
  match code with
  | 0 => some (a + b).toNat
  | 1 => some (a &&& b).toNat
  | 2 => some (a ||| b).toNat
  | 3 => some (a ^^^ b).toNat
  | 4 => some b.toNat
  | 5 => if old = b.toNat then some (y % 2 ^ 32) else none
  | 6 => some (if a.sle b then a else b).toNat
  | 7 => some (if b.sle a then a else b).toNat
  | 8 => some (min old b.toNat)
  | 9 => some (max old b.toNat)
  | 10 => some (fp32.add old b.toNat).1
  | 11 => some (big (old + x))
  | 12 => some (big x)
  | 13 => if old = big x then some (big y) else none
  | 14 => some (min old (big x))
  | _ => some (max old (big x))

/-- Perform an atomic at its home: the old value and whether it was poisoned; a poisoned location is left alone (R316). -/
def State.atomicAt (s : State) (code pa x y : Nat) : Nat × Bool × State :=
  let n := atomicSize code
  let old := s.physRead pa n
  if s.physPoisoned pa n then (old, true, s)
  else
    match atomicNew code old x y with
    | some v => (old, false, s.physWrite pa (Memory.ofNat n v))
    | none => (old, false, s)

/-! ### Performing lanes -/

/-- A loaded value as its destination takes it (R299, R311): narrow values extended to 32 bits for a vector register, to 64
for a g register, where a word is zero-extended. -/
def extendLoad (size : Nat) (signed : Bool) (d : Dest) (v : Nat) : Nat :=
  match d with
  | .grp _ => if signed && size < 4 then ((BitVec.ofNat (8 * size) v).signExtend 64).toNat else v
  | _ => if signed && size < 4 then ((BitVec.ofNat (8 * size) v).signExtend 32).toNat else v

/-- The accessor of a core. -/
def coreAgent (core : Nat) : Accessor := .core core

/-- Perform one translated lane of a load or atomic of the core. A peer lane that L1 does not serve waits for the peer's reply (R459);
bytes of it that the group's store queue holds are taken from there (R69). -/
def State.performLane (s : State) (core gid : Nat) (acc : Access) (r : LaneReq) : State × LaneReq :=
  let isPeer := match s.paKind r.pa with
    | .peer _ => true
    | _ => false
  match acc.op with
  | .load n signed =>
    let bypass := acc.bypass
    let hit := !bypass && (s.core core).l1Has r.pa n
    let own := s.ownBytes gid r.pa n
    if isPeer && !hit then (s, { r with peer := true, own := own })
    else
      let v := Memory.toNat (s.loadBytes core gid r.pa n bypass)
      let bad := s.loadPoisoned core gid r.pa n bypass
      let s := if hit then s else s.homeTouch (coreAgent core) r.pa false
      let s := if bypass || hit then s else s.fillL1 core r.pa
      (s, { r with val := extendLoad n signed acc.dest v, bad := bad, own := own })
  | _ =>
    if isPeer then (s, { r with peer := true })
    else
    match acc.op with
    | .load _ _ => (s, r)
    | .atomic c =>
      let s := (s.homeTouch (coreAgent core) r.pa true).dropL1 core r.pa
      let a := s.atomicAt c r.pa r.opA r.opB
      (a.2.2, { r with val := a.1, bad := a.2.1 })
    | .store _ => (s, r)

/-- Perform translated lanes in ascending lane order (R64). -/
def State.performLanes (s : State) (core gid : Nat) (acc : Access) (rs : List LaneReq) : State × List LaneReq :=
  rs.foldl (fun p r =>
    let q := p.1.performLane core gid acc r
    (q.1, p.2 ++ [q.2])) (s, [])

/-- The pieces of a store. -/
def storePieces (size : Nat) (rs : List LaneReq) : List Piece :=
  rs.map fun r => { kind := .global, addr := r.pa, bytes := Memory.ofNat size r.opA, lane := r.lane, va := r.va }

/-- Append an entry to a group's store queue. -/
def State.enqueueStore (s : State) (gid : Nat) (e : StoreEntry) : State :=
  s.modGroup gid fun g => { g with storeQ := g.storeQ ++ [e] }

/-- The 64 KiB pages that lanes touch: those that they translated to, and those where they are performed (R421). -/
def State.pagesOf (s : State) (rs : List LaneReq) : List Nat :=
  ((rs.map fun (r : LaneReq) => r.pa / 65536) ++ rs.map fun (r : LaneReq) => s.redirect r.pa / 65536).eraseDups

/-- The lanes of requests. -/
def laneSet (rs : List LaneReq) : Word := Bits.maskOf (rs.map LaneReq.lane)

/-- Enter the peer requests of an access's lanes (R459). -/
def State.sendPeers (s : State) (core tag : Nat) (pc : DWord) (asid : Nat) (rs : List LaneReq) : State :=
  (rs.filter LaneReq.peer).foldl (fun s r =>
    match s.paKind r.pa with
    | .peer d =>
      { s with
        peerReqs := s.peerReqs.put s.uid
          { device := d, sent := s.time.toNat, core := core, tag := some tag, lanes := BitVec.twoPow 32 r.lane, pc := pc
            vaddr := r.va, asid := asid }
        uid := s.uid + 1 }
    | _ => s) s

/-! ### Issue of a global access (R215 to R221, R296, R299 to R313) -/

/-- A global access at issue: what it does, its lanes' requests before translation, whether each group-set access stands for
the whole split, and what it touches. -/
structure GlobalOp where
  code : Nat
  access : Access
  reqs : Cx → List LaneReq
  /-- Group-set: one event of the group. -/
  whole : Bool := false
  uses : Uses
  /-- The reuse key, for a plain load (R247). -/
  key : Option (Cx → ReuseKey) := none
  align : Nat

/-- The charge of an access (R473). -/
def GlobalOp.charge (o : GlobalOp) (s : State) (cx : Cx) : Nat :=
  chargeOf (s.weight cx.core o.code) o.code (Bits.popcount cx.sp.mask) (cx.grp.narrowSources o.uses.vr)

/-- Translate every request; lanes in order. -/
def State.translateReqs (s : State) (cx : Cx) (o : GlobalOp) : List (LaneReq × Translation) :=
  (o.reqs cx).map fun r =>
    (r, s.checkGlobal cx.core cx.asid cx.sp.firmware r.va.toNat o.access.op.size o.align o.access.op.kind)

/-- The requests that translated, with their physical addresses. -/
def okReqs (ts : List (LaneReq × Translation)) : List LaneReq :=
  ts.filterMap fun t =>
    match t.2 with
    | .ok pa _ _ => some { t.1 with pa := pa }
    | .cause _ => none

/-- The requests whose cause is PAGE. -/
def pageReqsOf (ts : List (LaneReq × Translation)) : List LaneReq := (ts.filter fun t => t.2 == .cause .page).map Prod.fst

/-- The trap of a list of checks: the cause and address of the lowest lane with a non-replayable cause, and every lane with
that cause (R60). -/
def checkTrap (whole : Option Word) (ts : List (LaneReq × Translation)) : Option Trap :=
  let bad := ts.filterMap fun t =>
    match t.2 with
    | .cause .page => none
    | .cause c => some (t.1, c)
    | .ok _ _ _ => none
  match bad with
  | [] => none
  | (r, c) :: _ =>
    some { cause := c, addr := r.va
           lanes := match whole with
             | some m => m
             | none => Bits.maskOf ((bad.filter fun x => x.2 == c).map fun x => x.1.lane) }

/-- The translations of some requests leave their traces, whatever they end in (R396, R412). -/
def State.learnReqs (s : State) (cx : Cx) (firmware : Bool) (size align : Nat) (rs : List LaneReq) : State :=
  rs.foldl (fun s r => s.learnIf cx.core cx.asid firmware r.va.toNat size align) s

/-- The translations of an access leave their traces. -/
def State.learnOp (s : State) (cx : Cx) (o : GlobalOp) : State := s.learnReqs cx cx.sp.firmware o.access.op.size o.align (o.reqs cx)

/-- Take a landing register for each vector destination (R240). -/
def State.takeLandings (s : State) (q gid : Nat) (d : Dest) : State × List Nat :=
  d.regs.1.foldl (fun p r =>
    match p.1.groups.look gid with
    | some g =>
      let t := p.1.takeLanding q (g.vreg r)
      (t.2.rename q gid r t.1, p.2 ++ [t.1])
    | none => p) (s, [])

/-- A split stalled for a sluice entry still asks for it: it is resident, READY and at the same instruction, in a team whose groups issue
(R220). -/
def State.stillWaits (s : State) (w : Nat × Nat × DWord) : Bool :=
  match s.groups.look w.1 with
  | some g =>
    (g.res.any fun p => p.2.tag == w.2.1 && p.2.state == .ready && p.2.pc == w.2.2)
    && match s.teams.look g.team with
      | some t => t.state == .resident
      | none => false
  | none => false

/-- Splits that are stalled for a sluice entry, longest first (R220). -/
def State.sluiceWaiters (s : State) (core : Nat) : List (Nat × Nat × DWord) := (s.core core).sluiceWait.filter s.stillWaits

/-- A free sluice tag (R215). -/
def CoreSt.freeTag (c : CoreSt) : Option Nat := Map.freeKey c.sluice 0 192

/-- How many sluice entries are free (R215). -/
def CoreSt.freeEntries (c : CoreSt) : Nat := 192 - c.sluice.length

/-- What a split stands for among those stalled for a sluice entry. -/
def Cx.waiter (cx : Cx) : Nat × Nat × DWord := (cx.gid, cx.sp.tag, cx.sp.pc)

/-- The split may take a sluice entry now: as many are free as splits have been stalled longer, and one more (R220). -/
def State.sluiceGranted (s : State) (cx : Cx) : Bool :=
  decide (((s.sluiceWaiters cx.core).takeWhile fun w => w != cx.waiter).length < (s.core cx.core).freeEntries)

/-- Join the splits stalled for a sluice entry. -/
def State.sluiceStall (s : State) (cx : Cx) : State :=
  let ws := s.sluiceWaiters cx.core
  s.modCore cx.core fun c => { c with sluiceWait := if ws.contains cx.waiter then ws else ws ++ [cx.waiter] }

/-- The granted split leaves the stalled ones. -/
def State.sluiceGrant (s : State) (cx : Cx) : State :=
  if (s.core cx.core).sluiceWait.isEmpty then s
  else s.modCore cx.core fun c => { c with sluiceWait := c.sluiceWait.filter fun w => w != cx.waiter }

/-- A posted store of the core to a peer that has not been answered writes a byte of a range (R459). -/
def State.postedMeets (s : State) (core a n : Nat) : Bool :=
  s.peerReqs.any fun r => r.2.core == core && match r.2.entry with
    | some e => e.entry.pieces.any fun p => p.kind == .global && rangesMeet p.addr p.bytes.length a n
    | none => false

/-- The ok lanes of an access wait at their homes: a reclassification is under way or needed (R397), a lane's bytes lie in
an atomic still owed (R309), a store of the core to an atomic's bytes is on its way (R65), or a posted store of the core to a peer's
bytes is unanswered (R67). -/
def State.lanesWait (s : State) (core gid : Nat) (acc : Access) (rs : List LaneReq) : Bool :=
  rs.any fun r =>
    s.atomicOwed core gid r.pa acc.op.size
    || (acc.op.isAtomic && s.inflightMeets core .global r.pa acc.op.size)
    || (!acc.op.isStore && s.postedMeets core r.pa acc.op.size)
    || (!acc.op.isStore && !(acc.op.isLoad && acc.acquire.isNone && (s.core core).l1Has r.pa acc.op.size)
        && !s.homeReady (coreAgent core) r.pa acc.op.isAtomic)

/-- Start the reclassifications that waiting lanes need (R397). -/
def State.lanesHold (s : State) (core : Nat) (acc : Access) (rs : List LaneReq) : State :=
  rs.foldl (fun s r =>
    if !acc.op.isStore && !s.homeReady (coreAgent core) r.pa acc.op.isAtomic then s.homeTouch (coreAgent core) r.pa acc.op.isAtomic
    else s) s

/-- Open the window of a sluice instruction (R216). -/
def Split.openWindow (sp : Split) (tag la : Nat) (acquire : Bool) : Split :=
  if la = 0 then sp else { sp with windows := sp.windows ++ [{ tag := tag, left := la, acquire := acquire }] }

/-- The core's reuse entries of the pages that a store or atomic names die (R251). -/
def State.killWritten (s : State) (core : Nat) (op : MemOp) (rs : List LaneReq) : State :=
  if op.isLoad then s else s.killPages core (s.pagesOf rs)

/-- The lanes of a load or atomic that leave the core go through the polders of their pages (R387, R388, R398). -/
def State.lanesThrough (s : State) (core asid : Nat) (acc : Access) (rs : List LaneReq) : State :=
  let pairs := fun (rs : List LaneReq) => rs.map fun r => (r.va.toNat, r.pa)
  match acc.op with
  | .load _ _ =>
    let bypass := acc.bypass
    s.throughPolders core asid 0 none (pairs (rs.filter fun r => bypass || !(s.core core).l1Has r.pa acc.op.size))
  | .atomic _ => s.throughPolders core asid 0 (some 1) (pairs rs)
  | .store _ => s

/-- Issue a sluice instruction whose lanes are checked: perform the translated lanes, keep an entry for replies and faults,
park FAULTED on a PAGE, else retire and open the window; an access with a peer lane opens none (R459). -/
def State.issueSluice (s : State) (cx : Cx) (o : GlobalOp) (ts : List (LaneReq × Translation)) (key : Option ReuseKey) : State :=
  let ok := okReqs ts
  let pg := pageReqsOf ts
  match (s.core cx.core).freeTag with
  | none => s.sluiceStall cx
  | some tag =>
    let s := (s.sluiceGrant cx).learnOp cx o
    let s := s.killWritten cx.core o.access.op ok
    let s := s.lanesThrough cx.core cx.asid o.access ok
    let p := s.performLanes cx.core cx.gid o.access ok
    let l := p.1.takeLandings cx.quad cx.gid o.access.dest
    let e : SluiceEntry :=
      { group := cx.gid, split := cx.sp.tag, pc := cx.sp.pc, access := o.access, pend := laneSet p.2, fault := laneSet pg
        reqs := p.2 ++ pg, landing := l.2, reuse := if pg = [] then key else none, firmware := cx.sp.firmware, nr := cx.sp.nr }
    let s := l.1.modCore cx.core fun c => { c with sluice := c.sluice.put tag e }
    let s := s.sendPeers cx.core tag cx.sp.pc cx.asid p.2
    if pg = [] then
      (s.retire cx (o.charge s cx)).modTag cx.gid cx.sp.tag fun sp => sp.openWindow tag (if p.2.any LaneReq.peer then 0 else o.access.la) o.access.acquire.isSome
    else
      let s := pg.foldl (fun s r => s.pageRequest cx.asid r.va.toNat o.access.op.kind (.split cx.gid cx.sp.tag)) s
      s.modTag cx.gid cx.sp.tag fun sp => { sp with state := .faulted, idle := 0 }

/-- Issue a store whose lanes are checked: one queue entry for the translated lanes, a fault record for the PAGE lanes
(R301, R304). -/
def State.issueStore (s : State) (cx : Cx) (o : GlobalOp) (ts : List (LaneReq × Translation)) : State :=
  let ok := okReqs ts
  let pg := pageReqsOf ts
  let put := fun (s : State) =>
    let s := (s.learnOp cx o).killWritten cx.core o.access.op ok
    if ok = [] then s else s.enqueueStore cx.gid { pieces := storePieces o.access.op.size ok, pc := cx.sp.pc }
  if pg = [] then (put s).retire cx (o.charge s cx)
  else
    match if s.sluiceGranted cx then (s.core cx.core).freeTag else none with
    | none => s.sluiceStall cx
    | some tag =>
      let s := put (s.sluiceGrant cx)
      let e : SluiceEntry :=
        { group := cx.gid, split := cx.sp.tag, pc := cx.sp.pc, access := o.access, pend := 0, fault := laneSet pg, reqs := pg
          firmware := cx.sp.firmware, nr := cx.sp.nr }
      let s := s.modCore cx.core fun c => { c with sluice := c.sluice.put tag e }
      let s := pg.foldl (fun s r => s.pageRequest cx.asid r.va.toNat o.access.op.kind (.split cx.gid cx.sp.tag)) s
      s.modTag cx.gid cx.sp.tag fun sp => { sp with state := .faulted, idle := 0 }

/-- The body of a global access once its reuse lookup has missed. -/
def globalBody (o : GlobalOp) (key : Option ReuseKey) (cx : Cx) (s : State) : State :=
  let ts := s.translateReqs cx o
  let counted := fun (s : State) => if key.isSome then s.countLookup cx.quad else s
  match checkTrap (if o.whole then some cx.sp.mask else none) ts with
  | some t => ((counted s).learnOp cx o).raiseTrap cx t
  | none =>
    let ok := okReqs ts
    if s.lanesWait cx.core cx.gid o.access ok then s.lanesHold cx.core o.access ok
    else if o.access.op.isStore then s.issueStore cx o ts
    else (counted s).issueSluice cx o ts key

/-- A global load, store or atomic of either set: the waits of a release (R303), the posted-store trap (R76), the window
reuse lookup (R249), the window limit (R216), the sluice entry or store-queue entry (R206, R220), an atomic's wait for the
store queue (R309), then the access. -/
def globalOp (o : GlobalOp) : State → Result :=
  gate { o.uses with memory := true, ends := o.uses.ends || o.access.release.isSome } fun cx s =>
    let scope := o.access.release.getD 0
    if s.releaseWaits cx scope then .next (s.parkRelease cx scope)
    else
      match cx.postedTrap scope with
      | some t => .next ((s.modGroup cx.gid fun g => { g with postedFault := none }).raiseTrap cx t)
      | none =>
        let key := if cx.reuses then o.key.map fun k => k cx else none
        match key.bind (fun k => s.reuseFind cx.quad k), o.access.dest with
        | some e, .vec d _ => .next (((s.countLookup cx.quad).reuseHit cx.quad cx.gid d e).retire cx 0)
        | _, _ =>
          if o.access.la ≠ 0 ∧ 4 ≤ cx.sp.windows.length then
            .next (s.park cx.gid cx.sp.tag ((cx.sp.windows.take 1).map Window.tag))
          else if o.access.op.isStore && 32 ≤ cx.grp.storeQ.length then .next s
          else if o.access.op.isAtomic && !cx.grp.storeQ.isEmpty then .next s
          else if !o.access.op.isStore && !s.sluiceGranted cx then .next (s.sluiceStall cx)
          else .next (globalBody o key cx s)

/-! ### Addresses of the LM, LA and GS forms (R92, R296, R307) -/

/-- The address of lane l of an LM form: base 7 takes the pair, base 0 to 6 adds the extended offset (R92). -/
def Cx.lmAddr (cx : Cx) (base a l : Nat) (signed : Bool) : DWord :=
  if base = 7 then cx.grp.vpair a l
  else cx.grp.greg base + if signed then (cx.grp.vlane a l).signExtend 64 else (cx.grp.vlane a l).zeroExtend 64

/-- Vector registers an LM address reads. -/
def lmRegs (base a : Nat) : List Nat := if base = 7 then [a, a + 1] else [a]

/-- g registers an LM address reads. -/
def lmBase (base : Nat) : List Nat := if base = 7 then [] else [base]

/-- The n-word value of registers from d in a lane, low word first. -/
def Group.vword (g : Group) (d n l : Nat) : Nat := ((List.range n).map fun k => (g.vlane (d + k) l).toNat * 2 ^ (32 * k)).sum

/-- Words of a size in bytes. -/
def wordsOf (size : Nat) : Nat := (size + 3) / 4

/-- A lane load of major 0xB (R299, R300). -/
def laneLoad (min : Nat) (l : BitVec 4) (d a : BitVec 6) (b : BitVec 3) (size : Nat) (signed : Bool) (acquire : Option Nat) :
    State → Result :=
  let regs := lmRegs b.toNat a.toNat
  let keyWord : Word := BitVec.ofNat 32 (11 * 2 ^ 27 + min * 2 ^ 22 + b.toNat)
  globalOp
    { code := 11
      access := { op := .load size signed, dest := .vec d.toNat (wordsOf size), la := l.toNat, acquire := acquire }
      reqs := fun cx => (Bits.lanes cx.sp.mask).map fun l => { lane := l, va := cx.lmAddr b.toNat a.toNat l true }
      uses := { vr := regs, vw := regRun d.toNat (wordsOf size), gr := lmBase b.toNat }
      key := if acquire.isSome then none else some fun cx =>
        LaneOp.reuseKey { key := keyWord, d := d.toNat, n := wordsOf size, vr := regs, gr := lmBase b.toNat } cx cx.sp.mask
      align := size }

/-- A lane store of major 0xC (R302, R303). -/
def laneStore (sr a : BitVec 6) (b : BitVec 3) (size : Nat) (release : Option Nat) : State → Result :=
  globalOp
    { code := 12
      access := { op := .store size, dest := .none, release := release }
      reqs := fun cx => (Bits.lanes cx.sp.mask).map fun l =>
        { lane := l, va := cx.lmAddr b.toNat a.toNat l true
          opA := cx.grp.vword sr.toNat (wordsOf size) l % 2 ^ (8 * size) }
      uses := { vr := lmRegs b.toNat a.toNat ++ regRun sr.toNat (wordsOf size), gr := lmBase b.toNat }
      align := size }

/-- A lane atomic (R307, R308): minor[4] = 1 is .ar at device or system scope (R117). -/
def laneAtomic (code : Nat) (r : BitVec 1) (l : BitVec 4) (d : BitVec 6) (a : BitVec 5) (sc : BitVec 1) (b : BitVec 6) :
    State → Result :=
  let n := atomicSize code / 4
  let cas := code = 5 ∨ code = 13
  let scope := if r = 1 then some (if sc = 1 then 5 else 4) else none
  globalOp
    { code := 13
      access := { op := .atomic code, dest := .vec d.toNat n, la := l.toNat, acquire := scope, release := scope }
      reqs := fun cx => (Bits.lanes cx.sp.mask).map fun l =>
        { lane := l, va := cx.grp.vpair (2 * a.toNat) l, opA := cx.grp.vword b.toNat n l
          opB := if cas then cx.grp.vword (b.toNat + n) n l else 0 }
      uses := { vr := regRun (2 * a.toNat) 2 ++ regRun b.toNat (if cas then 2 * n else n), vw := regRun d.toNat n }
      align := atomicSize code }

/-- The scope of an order nibble, if c4[3] is set (R95). -/
def orderScope (o : BitVec 4) : Option Nat := if o.getLsbD 3 then some (o.toNat % 8) else none

/-- A uniform load (R311). -/
def groupLoad (l : BitVec 4) (a b : BitVec 6) (o : BitVec 4) (size : Nat) (signed : Bool) : State → Result :=
  globalOp
    { code := 26
      access := { op := .load size signed, dest := .grp b.toNat, la := l.toNat, acquire := orderScope o }
      reqs := fun cx => [{ lane := 0, va := cx.grp.greg a.toNat }]
      whole := true
      uses := { gr := [a.toNat], gw := [b.toNat] }
      align := size }

/-- A uniform store (R312). -/
def groupStore (a b : BitVec 6) (o : BitVec 4) (size : Nat) (code : Nat := 26) : State → Result :=
  globalOp
    { code := code
      access := { op := .store size, dest := .none, release := orderScope o }
      reqs := fun cx => [{ lane := 0, va := cx.grp.greg a.toNat, opA := (cx.grp.greg b.toNat).toNat % 2 ^ (8 * size) }]
      whole := true
      uses := { gr := [a.toNat, b.toNat] }
      align := size }

/-- A uniform atomic (R313). -/
def groupAtomic (code : Nat) (l : BitVec 4) (a b : BitVec 6) (o : BitVec 4) : State → Result :=
  let cas := code = 5 ∨ code = 13
  let n := atomicSize code
  globalOp
    { code := 26
      access := { op := .atomic code, dest := .grp b.toNat, la := l.toNat, acquire := orderScope o, release := orderScope o }
      reqs := fun cx =>
        [{ lane := 0, va := cx.grp.greg a.toNat, opA := (cx.grp.greg b.toNat).toNat % 2 ^ (8 * n)
           opB := if cas then (cx.grp.greg (b.toNat + 1)).toNat % 2 ^ (8 * n) else 0 }]
      whole := true
      uses := { gr := [a.toNat, b.toNat] ++ if cas then [b.toNat + 1] else [], gw := [b.toNat] }
      align := n }

/-! ### Scratchpad (R59, R297, R305, R306) -/

/-- The swizzle of R297 on a 32-bit scratchpad address: bits [6:4] xor bits [k+8:k+6]. -/
def swizzle (k a : Nat) : Nat := if k = 0 then a else a ^^^ (a / 2 ^ (k + 6) % 8 * 16)

/-- Where a 32-bit scratchpad address lies (R59): the team's key and the offset, or PERM. -/
def State.scratchTarget (s : State) (uid a size : Nat) : Option (Nat × Nat) :=
  match s.teams.look uid with
  | none => none
  | some t =>
    match s.kernels.look t.kernel with
    | none => none
    | some kn =>
      let win := a / 2 ^ 20 % 16
      let off := a % 2 ^ 20
      let n := kn.launch.bandSize
      if a / 2 ^ 24 % 256 ≠ 0 ∨ 12 < win ∨ kn.launch.scratch < off + size then none
      else if win = 0 then some (uid, off)
      else if n < win then none
      else
        match s.bandTeam t n (win - 1) with
        | some (u, t') => if t'.retired then none else some (u, off)
        | none => none

/-- The check of R60 on a scratchpad access: alignment, then WIN and OFF. -/
def State.checkScratch (s : State) (uid a size align : Nat) : (Nat × Nat) ⊕ Cause :=
  if a % align ≠ 0 then .inr .misalign
  else
    match s.scratchTarget uid (a % 2 ^ 32) size with
    | some x => .inl x
    | none => .inr .perm

/-- A scratchpad byte as a group sees it: its own queued stores, then the scratchpad (R69, R301). -/
def State.scratchByte (s : State) (gid team off : Nat) : Byte :=
  let q := match s.groups.look gid with
    | some g => g.storeQ
    | none => []
  match youngest q (.scratch team) off with
  | some b => b
  | none =>
    match s.teams.look team with
    | some t => Memory.byte t.scratch off
    | none => 0

/-- Scratchpad bytes as a group sees them carry a soft error (R316): as `State.scratchByte` takes each. -/
def State.scratchBad (s : State) (gid team off n : Nat) : Bool :=
  let q := match s.groups.look gid with
    | some g => g.storeQ
    | none => []
  (List.range n).any fun k =>
    match youngestBad q (.scratch team) (off + k) with
    | some b => b
    | none =>
      match s.teams.look team with
      | some t => t.scratchPoisoned (off + k) 1
      | none => false

/-- Requests of the lanes of a scratchpad instruction with their checks: `Translation.ok` carries the offset and, in its size
field, the target team's key. -/
def State.scratchReqs (s : State) (cx : Cx) (b a x size : Nat) (opA opB : Nat → Nat) : List (LaneReq × Translation) :=
  (Bits.lanes cx.sp.mask).map fun l =>
    let va := cx.lmAddr b a l false
    let addr := swizzle x (va.toNat % 2 ^ 32)
    ({ lane := l, va := va, opA := opA l, opB := opB l },
      match s.checkScratch cx.uid addr size size with
      | .inl (u, off) => .ok off 0 u
      | .inr c => .cause c)

/-- The target teams and offsets of checked lanes. -/
def scratchOk (ts : List (LaneReq × Translation)) : List (LaneReq × Nat) :=
  ts.filterMap fun t =>
    match t.2 with
    | .ok off _ u => some ({ t.1 with pa := off }, u)
    | .cause _ => none

/-- The uses of a scratchpad instruction. -/
def scratchUses (b a : Nat) (vr vw : List Nat) : Uses :=
  { vr := lmRegs b a ++ vr, vw := vw, gr := lmBase b, memory := true }

/-- A scratchpad address names the issuing team's own scratchpad: WIN is 0 or its band slot (R59, R252). -/
def Cx.ownWindow (cx : Cx) (a : Nat) : Bool :=
  a / 2 ^ 20 % 16 == 0 || a / 2 ^ 20 % 16 == cx.team.linear % cx.kern.launch.bandSize + 1

/-- A scratchpad load (R299, R305): no sluice entry, no window; the destination is written before a later instruction of the
group names it. A store of the core to the bytes that is on its way to another core's scratchpad is acknowledged first: nobody sees
it before, and the core's groups see it before what follows it (R69, R301; DEDUCED, log entry 59). -/
def scratchLoad (min : Nat) (d a : BitVec 6) (x b : BitVec 3) (size : Nat) (signed : Bool) : State → Result :=
  let n := wordsOf size
  gate (scratchUses b.toNat a.toNat [] (regRun d.toNat n)) fun cx s =>
    let ts := s.scratchReqs cx b.toNat a.toNat x.toNat size (fun _ => 0) (fun _ => 0)
    let own := ts.all fun t => cx.ownWindow (swizzle x.toNat (t.1.va.toNat % 2 ^ 32))
    let counted := fun (s : State) => if cx.reuses && own then s.countLookup cx.quad else s
    match checkTrap none ts with
    | some t => .next ((counted s).raiseTrap cx t)
    | none =>
      let rs := scratchOk ts
      if rs.any fun r => s.inflightMeets cx.core (.scratch r.2) r.1.pa size then .next s else
      let keyWord : Word := BitVec.ofNat 32 (12 * 2 ^ 27 + min * 2 ^ 22 + x.toNat * 8 + b.toNat)
      let o : LaneOp := { key := keyWord, d := d.toNat, n := n, vr := lmRegs b.toNat a.toNat, gr := lmBase b.toNat }
      let key := { o.reuseKey cx cx.sp.mask with generation := some (s.core cx.core).scratchGen }
      let try_ := cx.reuses && own
      let hit := if try_ then s.reuseFind cx.quad key else none
      let s := counted s
      match hit with
      | some e => .next ((s.reuseHit cx.quad cx.gid d.toNat e).retire cx 0)
      | none =>
        let val := fun (l : Nat) =>
          match rs.find? fun r => r.1.lane == l with
          | some (r, u) =>
            extendLoad size signed (.vec d.toNat n)
              (Memory.toNat ((List.range size).map fun k => s.scratchByte cx.gid u (r.pa + k)))
          | none => 0
        let bad := rs.any fun r => s.scratchBad cx.gid r.2 r.1.pa size
        let s := s.modGroup cx.gid fun g =>
          let g := g.writeLanes cx.sp.mask d.toNat n fun l => BitVec.ofNat 128 (val l)
          if bad then { g with vPoison := (regRun d.toNat n).foldl (fun p r => p ||| BitVec.twoPow 64 r) g.vPoison } else g
        let s := s.nameRegs cx.quad cx.gid d.toNat n
        let s := if try_ && !bad then s.reuseMake cx.quad
            { key := key
              results := match s.groups.look cx.gid with
                | some g => (regRun d.toNat n).map fun k => Bits.rd g.names k 2048
                | none => []
              flags := 0
              pages := [] }
          else s
        .next (s.retire cx (chargeOf (s.weight cx.core 12) 12 (Bits.popcount cx.sp.mask) (cx.grp.narrowSources o.vr)))

/-- A scratchpad store (R302, R304): one queue entry; the generation advances at issue (R252). -/
def scratchStore (sr a : BitVec 6) (x b : BitVec 3) (size : Nat) : State → Result :=
  gate (scratchUses b.toNat a.toNat (regRun sr.toNat (wordsOf size)) []) fun cx s =>
    if 32 ≤ cx.grp.storeQ.length then .next s
    else
      let ts := s.scratchReqs cx b.toNat a.toNat x.toNat size
        (fun l => cx.grp.vword sr.toNat (wordsOf size) l % 2 ^ (8 * size)) (fun _ => 0)
      match checkTrap none ts with
      | some t => .next (s.raiseTrap cx t)
      | none =>
        let rs := scratchOk ts
        let s := s.enqueueStore cx.gid
          { pieces := rs.map fun r => ({ kind := .scratch r.2, addr := r.1.pa, bytes := Memory.ofNat size r.1.opA } : Piece) }
        .next ((s.bumpScratch cx.core).retire cx
          (chargeOf (s.weight cx.core 12) 12 (Bits.popcount cx.sp.mask)
            (cx.grp.narrowSources (lmRegs b.toNat a.toNat ++ regRun sr.toNat (wordsOf size)))))

/-- The new value of a scratchpad word (R306): add, exchange, compare and swap. -/
def atsNew (which old x y : Nat) : Option Nat :=
  match which with
  | 0 => some ((old + x) % 2 ^ 32)
  | 1 => some x
  | _ => if old = x then some y else none

/-- The generations of the issuing core and of each other core in whose scratchpad an atomic is performed advance (R252). -/
def State.bumpScratches (s : State) (cx : Cx) (targets : List Nat) : State :=
  let others := (targets.filterMap fun u => (s.teams.look u).map Team.core).filter fun c => c != cx.core
  others.eraseDups.foldl State.bumpScratch (s.bumpScratch cx.core)

/-- A scratchpad atomic (R306): waits for the group's store queue and for its core's stores to the words, then performs the
lanes in ascending order; a poisoned word is left and its lane's result is poisoned. -/
def scratchAtomic (which : Nat) (d a : BitVec 6) (x b : BitVec 3) : State → Result :=
  let src := if which = 2 then regRun d.toNat 2 else [d.toNat]
  gate (scratchUses b.toNat a.toNat src [d.toNat]) fun cx s =>
    let ts := s.scratchReqs cx b.toNat a.toNat x.toNat 4 (fun l => (cx.grp.vlane d.toNat l).toNat)
      (fun l => (cx.grp.vlane (d.toNat + 1) l).toNat)
    match checkTrap none ts with
    | some t => .next (s.raiseTrap cx t)
    | none =>
      let rs := scratchOk ts
      if !cx.grp.storeQ.isEmpty || rs.any (fun r => s.inflightMeets cx.core (.scratch r.2) r.1.pa 4) then .next s
      else
        let run := rs.foldl (fun (p : State × List (Nat × Nat × Bool)) r =>
          match p.1.teams.look r.2 with
          | none => p
          | some t =>
            let old := Memory.read t.scratch r.1.pa 4
            if t.scratchPoisoned r.1.pa 4 then (p.1, p.2 ++ [(r.1.lane, old, true)])
            else
              let s := match atsNew which old r.1.opA r.1.opB with
                | some v => p.1.modTeam r.2 fun t => t.scratchWrite r.1.pa (Memory.ofNat 4 v)
                | none => p.1
              (s, p.2 ++ [(r.1.lane, old, false)])) (s, [])
        let olds := run.2
        let s := run.1.modGroup cx.gid fun g =>
          let g := g.writeLanes cx.sp.mask d.toNat 1 fun l =>
            word1 (BitVec.ofNat 32 (match olds.find? fun o => o.1 == l with
              | some o => o.2.1
              | none => 0))
          if olds.any (fun o => o.2.2) then { g with vPoison := g.vPoison ||| BitVec.twoPow 64 d.toNat } else g
        let s := (s.bumpScratches cx (rs.map Prod.snd)).nameRegs cx.quad cx.gid d.toNat 1
        .next (s.retire cx (chargeOf (s.weight cx.core 12) 12 (Bits.popcount cx.sp.mask) 
          (cx.grp.narrowSources (lmRegs b.toNat a.toNat ++ src))))

end Sys2Proof.Machine
end

