-- ==== Sys2Proof/Machine/Records.lean ====
section
/-! DEFINITION. Reads that an instruction makes for itself (records and descriptors), and the engines' accesses to global
memory (R346, R347, R349, R350, R417, R419). -/

namespace Sys2Proof.Machine

/-! ### Reads of a record by the issuing split -/

/-- A record read: its bytes, or the state in which the instruction has trapped, parked or must retry. -/
inductive RecordRead where
  | bytes (s : State) (bs : List Byte)
  | stop (s : State)

/-- Send a split's own read to a peer, unless one is on its way (DEDUCED, log entry 21). -/
def State.askPeer (s : State) (cx : Cx) (device : Nat) (va : DWord) (n : Nat) : State :=
  if s.peerReqs.any fun r => r.2.waiter == some (cx.gid, cx.sp.tag) then s
  else
    { s with
      peerReqs := s.peerReqs.put s.uid
        { device := device, sent := s.time.toNat, core := cx.core, tag := none, lanes := cx.sp.mask, pc := cx.sp.pc, vaddr := va
          asid := cx.asid, waiter := some (cx.gid, cx.sp.tag), bytes := n }
      uid := s.uid + 1 }

/-- A CPY whose record faults PAGE takes a sluice entry for its fault record, in the order of R220, and parks FAULTED (R215, R221). -/
def State.parkRecord (s : State) (cx : Cx) (va : DWord) : State :=
  match if s.sluiceGranted cx then (s.core cx.core).freeTag else none with
  | none => s.sluiceStall cx
  | some tag =>
    let e : SluiceEntry :=
      { group := cx.gid, split := cx.sp.tag, pc := cx.sp.pc, access := { op := .load 64 false, dest := .none }, pend := 0
        fault := cx.sp.mask, reqs := [{ lane := Bits.lowest cx.sp.mask, va := va }], firmware := cx.sp.firmware, nr := cx.sp.nr
        retry := true }
    ((s.sluiceGrant cx).modCore cx.core fun c => { c with sluice := c.sluice.put tag e }).parkFault cx va .read

/-- A split's own read of n bytes within one page, in a mode, checked by R60: served through L1 like a load of the group; PAGE
parks the split FAULTED (R221), with a sluice entry for a CPY, any other cause traps with the address as g62, and so does a soft error. -/
def State.readPiece (s : State) (cx : Cx) (firmware : Bool) (va : DWord) (n align : Nat) (trapAddr : DWord) (copy : Bool) : RecordRead :=
  let end_ := s.checkGlobal cx.core cx.asid firmware va.toNat n align .read
  let s := s.learnIf cx.core cx.asid firmware va.toNat n align
  match end_ with
  | .cause .page => .stop (if copy then s.parkRecord cx va else s.parkFault cx va .read)
  | .cause c => .stop (s.trapAll cx c trapAddr)
  | .ok pa _ _ =>
    match s.paKind pa with
    | .peer d =>
      match cx.sp.peerRead.find? fun x => x.1 == va with
      | some (_, .inl bs) => .bytes s bs
      | some (_, .inr timedOut) =>
        .stop (s.trapAll cx (if timedOut then .peerTimeout else .peerFault) va (BitVec.ofNat 64 d))
      | none => .stop ((s.askPeer cx d va n).park cx.gid cx.sp.tag [peerTag])
    | _ =>
      if !s.homeReady (.core cx.core) pa false then .stop (s.homeTouch (.core cx.core) pa false)
      else if s.loadPoisoned cx.core cx.gid pa n false then .stop (s.trapAll cx .softError trapAddr)
      else .bytes (s.homeTouch (.core cx.core) pa false) (s.loadBytes cx.core cx.gid pa n false)

/-- A split's own read of n bytes, which may cross into a second 64 KiB page: each page is checked and translated (R60, R405, R406). -/
def State.readRecord (s : State) (cx : Cx) (firmware : Bool) (va : DWord) (n align : Nat) (trapAddr : DWord) (copy : Bool := false) :
    RecordRead :=
  let k := 65536 - va.toNat % 65536
  if n ≤ k then s.readPiece cx firmware va n align trapAddr copy
  else
    match s.readPiece cx firmware va k align trapAddr copy with
    | .stop s => .stop s
    | .bytes s first =>
      match s.readPiece cx firmware (va + BitVec.ofNat 64 k) (n - k) 1 trapAddr copy with
      | .stop s => .stop s
      | .bytes s second => .bytes s (first ++ second)

/-! ### Engine accesses -/

/-- What an engine's translation of one byte ends with. -/
inductive EngineEnd where
  | ok (pa : Nat)
  /-- Not present or bounced at level 4: the entry and its address. -/
  | absent (entry : DWord) (at_ : Nat)
  /-- Not present above level 4. -/
  | page
  | cause (c : Cause)
  deriving DecidableEq, Repr

/-- The leaf for an address: a copy engine's walk-ahead TLB, then a walk (R346). -/
def State.engineWalk (s : State) (core : Option Nat) (c : Ctx) (asid v : Nat) : WalkEnd :=
  match core with
  | some k =>
    match tlbFind (s.core k).walkTlb asid v with
    | some e => if e.leaf.getLsbD 7 then s.walk c v else .leaf e.leaf e.bits 0
    | none => s.walk c v
  | none => s.walk c v

/-- A twin descriptor is well formed (R419): a level-4 leaf with S, M and B zero. -/
def State.twinOk (s : State) (twin : DWord) : Bool :=
  twin.getLsbD 0 && twin.getLsbD 1 && !twin.getLsbD 7 && !twin.getLsbD 6 && s.leafOk twin 4

/-- Translate one byte of an engine's access (R347, R350, R411, R417, R419): `twin` says that the access goes to the twin's frame of
a page whose twin pointer is valid. -/
def State.engineXlateAt (s : State) (core : Option Nat) (asid v : Nat) (write twin : Bool) : EngineEnd :=
  match s.ctxs.look asid with
  | none => .page
  | some c =>
    match s.engineWalk core c asid v with
    | .malformed => .cause .perm
    | .absent level e at_ => if write && level == 4 then .absent e at_ else .page
    | .leaf pte bits at_ =>
      let k : AccessKind := if write then .write else .read
      match s.useLeaf pte bits v k with
      | .cause k => .cause k
      | .ok pa _ _ =>
        if twin && pte.getLsbD 7 then
          let twin := BitVec.ofNat 64 (s.physRead (at_ + 256) 8)
          if !s.twinOk twin then .cause .perm
          else
            match s.useLeaf twin 16 v k with
            | .ok pa _ _ => .ok pa
            | .cause k => .cause k
        else .ok pa

/-- Translate one byte of a copy's access: a write to a page whose twin pointer is valid goes to the twin's frame (R350). -/
def State.engineXlate (s : State) (core : Option Nat) (asid v : Nat) (write : Bool) : EngineEnd :=
  s.engineXlateAt core asid v write write

/-- A copy engine translates an address: a walk, whatever it ends in, and a leaf remembered in the walk-ahead TLB of the core (R346, R396). -/
def State.engineLearn (s : State) (core asid v : Nat) : State :=
  match tlbFind (s.core core).walkTlb asid v, s.ctxs.look asid with
  | none, some c =>
    let walked := s.walkTouch asid v
    match s.walk c v with
    | .leaf pte bits _ =>
      walked.modCore core fun x =>
        { x with walkTlb := tlbInsert x.walkTlb 64 { asid := asid, vpage := v / 2 ^ bits, bits := bits, leaf := pte } }
    | _ => walked
  | _, _ => s

/-- The bounce slot of a not-present level-4 entry: its own, or the lowest free one (R417). An entry with B = 1 that names no slot of
the 3,640 has none, and a write to it waits like one that finds none free (DESIGN CHOICE, log entry 28). -/
def Ctx.bounceSlot (c : Ctx) (entry : DWord) : Option Nat :=
  if entry.getLsbD 5 then if (entry.extractLsb' 16 12).toNat < 3640 then some (entry.extractLsb' 16 12).toNat else none
  else Map.freeKey c.bounce 0 3640

/-- Write bytes of one page into its bounce slot (R417): none when no slot is free. -/
def State.bounceWrite (s : State) (asid v : Nat) (entry : DWord) (at_ : Nat) (bs : List Byte) : Option State :=
  match s.ctxs.look asid with
  | none => none
  | some c =>
    match c.bounceSlot entry with
    | none => none
    | some k =>
      let s := if entry.getLsbD 5 then s
        else s.agentStore .system at_ (Memory.ofNat 8 (entry.toNat / 2 ^ 32 * 2 ^ 32 + k * 2 ^ 16 + 0x20))
      some (s.modCtx asid fun c =>
        let old := (c.bounce.lookD k (v / 65536, [])).2
        let new := (List.range bs.length).foldl (fun m i => Map.put m (v % 65536 + i) (bs.getD i 0)) old
        { c with
          bounce := c.bounce.put k (v / 65536, new)
          bouncePoison := c.bouncePoison.filter fun w => !(v ≤ 8 * w && 8 * w + 8 ≤ v + bs.length) })

/-- Poison bounced bytes by their virtual addresses (R316, R417). -/
def State.bouncePoisonAt (s : State) (asid : Nat) (vas : List Nat) : State :=
  s.modCtx asid fun c =>
    { c with bouncePoison := c.bouncePoison ++ ((vas.map (· / 8)).eraseDups.filter fun w => !c.bouncePoison.contains w) }

end Sys2Proof.Machine
end

