-- ==== Sys2Proof/Machine/Barrier.lean ====
section
/-! DEFINITION. Barriers and waits on a word (R317 to R337). -/

namespace Sys2Proof.Machine

/-! ### Barrier storage (R317 to R321) -/

/-- The team whose barrier storage a barrier operand names, the id, and the B bit; none breaks a rule of R317. -/
def Cx.barrierOf (cx : Cx) (s : State) (x : DWord) : Option (Nat × Nat × Bool) :=
  let id := x.toNat % 128
  if 256 ≤ x.toNat ∨ cx.kern.launch.barriers ≤ id then none
  else if !x.getLsbD 7 then some (cx.uid, id, false)
  else
    match s.bandTeam cx.team cx.kern.launch.bandSize 0 with
    | some (u, _) => some (u, id, true)
    | none => some (cx.uid, id, true)

/-- A barrier by holder, id and B; one reached with a B that does not match its scope is INVALID (R317). -/
def State.barrier (s : State) (holder id : Nat) (band : Bool) : Option Barrier :=
  match s.teams.look holder with
  | none => none
  | some t =>
    match t.barriers.look id with
    | some b => if b.band == band then some b else none
    | none => none

/-- Replace a barrier. -/
def State.setBarrier (s : State) (holder id : Nat) (b : Barrier) : State :=
  s.modTeam holder fun t => { t with barriers := t.barriers.put id b }

/-- The barrier flips now (R320). -/
def Barrier.flips (b : Barrier) : Bool := b.arrived == b.expect && b.pending == 0 && (b.expect != 0 || b.posted)

/-- The barrier after a flip (R319). -/
def Barrier.flipped (b : Barrier) : Barrier := { b with phase := !b.phase, arrived := 0, pending := 0, posted := false }

/-- The scope of a barrier (R318, R324): 2 team, 3 band. -/
def Barrier.scope (b : Barrier) : Nat := if b.band then 3 else 2

/-- Store an updated barrier; if it flips, its parked waiters return, each an acquire at its scope (R320, R323, R324). -/
def State.updateBarrier (s : State) (holder id : Nat) (b : Barrier) : State :=
  if b.flips then
    (s.setBarrier holder id b.flipped).releaseWhere (fun _ w _ => w == .barrier holder id b.band) b.scope
  else s.setBarrier holder id b

/-- Post n bytes (R319): none overruns. -/
def Barrier.post (b : Barrier) (n : Nat) : Option Barrier :=
  if n = 0 then some b
  else if b.pending + n > 2 ^ 31 - 1 then none
  else some { b with pending := b.pending + n, posted := true }

/-- Count an arrival (R319): none overruns. -/
def Barrier.arrive (b : Barrier) : Option Barrier :=
  if b.arrived = b.expect then none else some { b with arrived := b.arrived + 1 }

/-- n bytes land (R319); at an INVALID barrier nothing changes. -/
def State.landBarrier (s : State) (holder id : Nat) (band : Bool) (n : Nat) : State :=
  match s.barrier holder id band with
  | some b => s.updateBarrier holder id { b with pending := b.pending - n }
  | none => s

/-- The state of a barrier as BAR.TEST returns it (R318). -/
def Barrier.word (b : Barrier) : DWord :=
  BitVec.ofNat 64
    ((b.scope - 1) * 2 ^ 62 + b.phase.toNat * 2 ^ 61 + b.posted.toNat * 2 ^ 60 + b.expect.toNat * 2 ^ 48
      + b.arrived.toNat * 2 ^ 36 + (BitVec.ofInt 32 b.pending).toNat)

/-! ### Barrier instructions (R329 to R334) -/

/-- A barrier instruction: windows end, and the operand's rules hold or PERM is raised. -/
def barrierOp (a : BitVec 6) (u : Uses) (f : Cx → Nat → Nat → Bool → State → State) : State → Result :=
  gate { u with gr := a.toNat :: u.gr, ends := true } fun cx s =>
    match cx.barrierOf s (cx.grp.greg a.toNat) with
    | none => .next (s.trapAll cx .perm (cx.grp.greg a.toNat))
    | some (h, id, band) => .next (f cx h id band s)

/-- The PERM trap of a barrier instruction. -/
def State.barrierPerm (s : State) (cx : Cx) (a : BitVec 6) : State := s.trapAll cx .perm (cx.grp.greg a.toNat)

/-- The group's earlier stores have not progressed as an arrival at a scope needs (R324). -/
def State.arrivalWaits (s : State) (cx : Cx) (band : Bool) : Bool :=
  if band then !s.drained cx else !s.storesLeft cx.gid

/-- Park until they have. -/
def State.parkArrival (s : State) (cx : Cx) (band : Bool) : State := s.parkStores cx [if band then storeTag else leftTag]

/-- Initialise a barrier (R330). One of the id that is reached with a B that does not match its scope counts as INVALID here too (R317;
DEDUCED, log entry 63). -/
def execBarInit (a b : BitVec 6) (sc : BitVec 1) : State → Result :=
  barrierOp a { gr := [b.toNat] } fun cx h id band s =>
    let n := (cx.grp.greg b.toNat).toNat
    let wantsBand := sc = 1
    if 4095 < n ∨ band ≠ wantsBand then s.barrierPerm cx a
    else
      match s.barrier h id band with
      | none => (s.setBarrier h id { band := wantsBand, expect := BitVec.ofNat 12 n }).retireG cx 23
      | some x => if x.expect.toNat = n then s.retireG cx 23 else s.barrierPerm cx a

/-- An update of a valid barrier by an instruction: overruns trap BARRIER_OVERRUN (R319, R331). -/
def State.barrierUpdate (s : State) (cx : Cx) (h id : Nat) (b : Option Barrier) : State :=
  match b with
  | none => s.trapAll cx .barrierOverrun 0 (BitVec.ofNat 64 id)
  | some b => (s.retireG cx 23).updateBarrier h id b

/-- One arrival (R331). -/
def execBarArv (a : BitVec 6) : State → Result :=
  barrierOp a {} fun cx h id band s =>
    match s.barrier h id band with
    | none => s.barrierPerm cx a
    | some x =>
      if s.arrivalWaits cx band then s.parkArrival cx band else s.barrierUpdate cx h id x.arrive

/-- A posting and an arrival as one update (R319, R331). -/
def execBarArvb (a b : BitVec 6) : State → Result :=
  barrierOp a { gr := [b.toNat] } fun cx h id band s =>
    let n := (cx.grp.greg b.toNat).toNat
    match s.barrier h id band with
    | none => s.barrierPerm cx a
    | some x =>
      if 2 ^ 32 ≤ n then s.barrierPerm cx a
      else if s.arrivalWaits cx band then s.parkArrival cx band
      else s.barrierUpdate cx h id ((x.post n).bind Barrier.arrive)

/-- A posting of bytes (R331). -/
def execBarExp (a b : BitVec 6) : State → Result :=
  barrierOp a { gr := [b.toNat] } fun cx h id band s =>
    let n := (cx.grp.greg b.toNat).toNat
    match s.barrier h id band with
    | none => s.barrierPerm cx a
    | some x =>
      if 2 ^ 32 ≤ n then s.barrierPerm cx a
      else if n = 0 then s.retireG cx 23
      else s.barrierUpdate cx h id (x.post n)

/-- Wait for a flip from the phase operand (R323, R332). -/
def execBarWait (a b : BitVec 6) : State → Result :=
  barrierOp a { gr := [b.toNat] } fun cx h id band s =>
    match s.barrier h id band with
    | none => s.barrierPerm cx a
    | some x =>
      if x.phase = (cx.grp.greg b.toNat).getLsbD 0 then
        (s.waitOn cx (.barrier h id band)).charge cx.core (s.weight cx.core 23)
      else (s.retireG cx 23).acquire cx.core cx.quad x.scope

/-- Read a barrier's state (R333). -/
def execBarTest (a b : BitVec 6) : State → Result :=
  barrierOp a { gw := [b.toNat] } fun cx h id band s =>
    let w := match s.barrier h id band with
      | some x => x.word
      | none => 0
    (s.modGroup cx.gid fun g => g.setG b.toNat w).retireG cx 23

/-- A split waits at a barrier. -/
def State.barrierWaiters (s : State) (holder id : Nat) (band : Bool) : Bool :=
  s.groups.any fun p => p.2.splits.any fun sp => sp.state == .waiting && sp.wait == some (.barrier holder id band)

/-- Make a barrier INVALID (R334). -/
def execBarInval (a : BitVec 6) : State → Result :=
  barrierOp a {} fun cx h id band s =>
    match s.barrier h id band with
    | none => s.retireG cx 23
    | some x =>
      if x.arrived = 0 ∧ x.pending = 0 ∧ !s.barrierWaiters h id band then
        (s.modTeam h fun t => { t with barriers := t.barriers.del id }).retireG cx 23
      else s.barrierPerm cx a

/-! ### Waits on a word (R335 to R337) -/

/-- The comparison of WAITA at a width (R127, R336). -/
def waitHolds {w : Nat} (c : BitVec 3) (x y : BitVec w) : Bool :=
  match c.toNat with
  | 0 => x == y
  | 1 => x != y
  | 2 => x.slt y
  | 3 => y.sle x
  | 4 => x.ult y
  | _ => y.ule x

/-- A word of memory that WAITA or WAKEA names: a scratchpad offset of a team, a physical address, or why neither. -/
inductive WordAt where
  | scratch (team off : Nat)
  | global (pa : Nat)
  | cause (c : Cause)
  deriving DecidableEq, Repr

/-- Whether a word address names scratchpad space (R335). -/
def wordInScratch (a : DWord) : Bool := a.toNat / 2 ^ 56 = 0x80

/-- Where a word of n bytes lies for a split (R335, R336), checked as a read. -/
def State.wordAt (s : State) (cx : Cx) (a : DWord) (n : Nat) : WordAt :=
  if wordInScratch a then
    if a.toNat / 2 ^ 32 % 2 ^ 24 ≠ 0 then .cause .perm
    else
      match s.checkScratch cx.uid (a.toNat % 2 ^ 32) n n with
      | .inl (u, off) => .scratch u off
      | .inr c => .cause c
  else
    match s.checkGlobal cx.core cx.asid cx.sp.firmware a.toNat n n .read with
    | .ok pa _ _ => .global pa
    | .cause c => .cause c

/-- The value read at a word, and whether it is poisoned. -/
def State.wordValue (s : State) (cx : Cx) (w : WordAt) (n : Nat) : Nat × Bool :=
  match w with
  | .scratch u off =>
    (Memory.toNat ((List.range n).map fun k => s.scratchByte cx.gid u (off + k)), s.scratchBad cx.gid u off n)
  | .global pa => (Memory.toNat (s.loadBytes cx.core cx.gid pa n true), s.loadPoisoned cx.core cx.gid pa n true)
  | .cause _ => (0, false)

/-- The value meets a WAITA's comparison. -/
def waitMet (x : Nat) (value : DWord) (dword : Bool) (c : BitVec 3) : Bool :=
  if dword then waitHolds c (BitVec.ofNat 64 x) value else waitHolds c (BitVec.ofNat 32 x) (value.setWidth 32)

/-- The scope of a WAITA's acquire (R336): team for scratchpad, system for global. -/
def waitScope (a : DWord) : Nat := if wordInScratch a then 2 else 5

/-- One read of a WAITA (R336): `met` and `unmet` say how the split goes on. -/
def State.waitaRead (s : State) (cx : Cx) (a value : DWord) (dword : Bool) (c : BitVec 3) (met unmet : State → State) : State :=
  let n := if dword then 8 else 4
  let at_ := s.wordAt cx a n
  let s := if wordInScratch a then s else s.learnIf cx.core cx.asid cx.sp.firmware a.toNat n n
  match at_ with
  | .cause .page => s.parkFault cx a .read
  | .cause k => s.trapAll cx k a
  | .scratch u off =>
    let v := s.wordValue cx (.scratch u off) n
    -- a store of the core to the word that is on its way comes first (R69)
    if s.inflightMeets cx.core (.scratch u) off n then unmet s
    else if v.2 then s.trapAll cx .softError a
    else if waitMet v.1 value dword c then met s
    else unmet s
  | .global pa =>
    match s.paKind pa with
    | .peer d =>
      let clear := fun (s : State) => s.modTag cx.gid cx.sp.tag fun sp => { sp with peerRead := [] }
      match cx.sp.peerRead.find? fun x => x.1 == a with
      | some (_, .inl bs) => if waitMet (Memory.toNat bs) value dword c then met (clear s) else unmet (clear s)
      | some (_, .inr t) => (clear s).trapAll cx (if t then .peerTimeout else .peerFault) a (BitVec.ofNat 64 d)
      | none => (unmet s).askPeer cx d a n
    | _ =>
      if !s.homeReady (.core cx.core) pa false then unmet (s.homeTouch (.core cx.core) pa false)
      else
        let s := s.homeTouch (.core cx.core) pa false
        let v := s.wordValue cx (.global pa) n
        if v.2 then s.trapAll cx .softError a
        else if waitMet v.1 value dword c then met s
        else unmet s

/-- Wait until a word satisfies a comparison (R336). -/
def execWaita (a b : BitVec 6) (z : BitVec 1) (c : BitVec 3) : State → Result :=
  gate { gr := [a.toNat, b.toNat], ends := true, memory := true } fun cx s =>
    let addr := cx.grp.greg a.toNat
    let value := cx.grp.greg b.toNat
    .next (s.waitaRead cx addr value (z = 1) c
      (fun s => (s.retireG cx 23).acquire cx.core cx.quad (waitScope addr))
      (fun s => (s.waitOn cx (.word addr value (z = 1) c)).charge cx.core (s.weight cx.core 23)))

/-- A WAITING split's WAITA reads its word again (R336, R337). -/
def State.reread (s : State) (gid tag : Nat) : State :=
  match s.cxByTag gid tag with
  | none => s
  | some cx =>
    match cx.team.state, cx.sp.state, cx.sp.wait with
    | .resident, .waiting, some (.word a v d c) =>
      s.waitaRead cx a v d c
        (fun s => (s.modTag gid tag Split.released).acquire cx.core cx.quad (waitScope a)) (fun s => s)
    | _, _, _ => s

/-- A WAITA reads its word again after a write to it (R336). -/
def execWaitaReread (gid tag : Nat) (s : State) : Result := .next (s.reread gid tag)

/-- The splits whose WAITA waits on the aligned doubleword of a place (R337). -/
def State.waitersOn (s : State) (w : WordAt) : List (Nat × Nat) :=
  s.groups.flatMap fun p =>
    (p.2.splits.filter fun sp =>
      match sp.state, sp.wait, s.cxByTag p.1 sp.tag with
      | .waiting, some (.word a _ d _), some cx =>
        match s.wordAt cx a (if d then 8 else 4), w with
        | .scratch u off, .scratch u' off' => u == u' && off / 8 == off' / 8
        | .global pa, .global pa' => pa / 8 == pa' / 8
        | _, _ => false
      | _, _, _ => false).map fun sp => (p.1, sp.tag)

/-- Make the WAITAs on a doubleword read again at once (R337): orders 1 to 3 of R60 trap; a cause at translation wakes
nothing. -/
def execWakea (a : BitVec 6) : State → Result :=
  gate { gr := [a.toNat], ends := true } fun cx s =>
    let addr := cx.grp.greg a.toNat
    let early : Option Cause :=
      if wordInScratch addr then none
      else if !canonicalRange addr.toNat 4 then some .noncanon
      else if addr.toNat % 4 ≠ 0 then some .misalign
      else if inWindow addr.toNat && !cx.sp.firmware then some .perm
      else none
    let walked := if wordInScratch addr then s else s.learnIf cx.core cx.asid cx.sp.firmware addr.toNat 4 4
    match early, s.wordAt cx addr 4 with
    | some c, _ => .next (s.trapAll cx c addr)
    | none, .cause c => if wordInScratch addr then .next (s.trapAll cx c addr) else .next (walked.retireG cx 23)
    | none, w => .next ((s.waitersOn w).foldl (fun s p => s.reread p.1 p.2) (walked.retireG cx 23))

end Sys2Proof.Machine
end

