-- ==== Sys2Proof/Machine/LaneFloat.lean ====
section
/-! DEFINITION. Lane-set floating-point, compare, transcendental and conversion instructions (R277 to R291). -/

namespace Sys2Proof.Machine

/-- A 32-bit result. -/
def toW (p : Nat × FlagSet) : Word × FlagSet := (BitVec.ofNat 32 p.1, p.2)
/-- A 64-bit result. -/
def toD (p : Nat × FlagSet) : DWord × FlagSet := (BitVec.ofNat 64 p.1, p.2)
/-- Element of a packed word. -/
def half (x : Word) (hi : Bool) : Nat := if hi then x.toNat / 65536 else x.toNat % 65536
/-- Two 16-bit elements as a word. -/
def pack2 (lo hi : Nat × FlagSet) : Word × FlagSet := (BitVec.ofNat 32 (lo.1 + 65536 * hi.1), lo.2 ||| hi.2)
/-- A fused operation on packed words (R282). -/
def fma2 (f : Fmt) (x y z : Word) : Word × FlagSet :=
  pack2 (f.fma false false (half x false) (half y false) (half z false)) (f.fma false false (half x true) (half y true) (half z true))

/-- FP32 add (R280). -/
def execFadd (g : BitVec 3) (d a b : BitVec 6) : State → Result :=
  lr2 3 0 g d a b fun x y => toW (fp32.add x.toNat y.toNat)

/-- FP32 sub (R280). -/
def execFsub (g : BitVec 3) (d a b : BitVec 6) : State → Result :=
  lr2 3 1 g d a b fun x y => toW (fp32.sub x.toNat y.toNat)

/-- FP32 mul (R280). -/
def execFmul (g : BitVec 3) (d a b : BitVec 6) : State → Result :=
  lr2 3 2 g d a b fun x y => toW (fp32.mul x.toNat y.toNat)

/-- FP32 min (R281). -/
def execFmin (g : BitVec 3) (d a b : BitVec 6) : State → Result :=
  lr2 3 3 g d a b fun x y => toW (fp32.minMax false x.toNat y.toNat)

/-- FP32 max (R281). -/
def execFmax (g : BitVec 3) (d a b : BitVec 6) : State → Result :=
  lr2 3 4 g d a b fun x y => toW (fp32.minMax true x.toNat y.toNat)

/-- FP32 absolute value (R280, R281). -/
def execFabs (g : BitVec 3) (d a : BitVec 6) : State → Result :=
  lr1 3 5 g d a fun x => toW (fp32.signOp false x.toNat)

/-- FP32 negation (R280, R281). -/
def execFneg (g : BitVec 3) (d a : BitVec 6) : State → Result :=
  lr1 3 6 g d a fun x => toW (fp32.signOp true x.toNat)

/-- Packed FP16 add (R278, R280). -/
def execFaddH2 (g : BitVec 3) (d a b : BitVec 6) : State → Result :=
  lr2 3 8 g d a b fun x y => packed (fp16.add) x y

/-- Packed FP16 sub (R278, R280). -/
def execFsubH2 (g : BitVec 3) (d a b : BitVec 6) : State → Result :=
  lr2 3 9 g d a b fun x y => packed (fp16.sub) x y

/-- Packed FP16 mul (R278, R280). -/
def execFmulH2 (g : BitVec 3) (d a b : BitVec 6) : State → Result :=
  lr2 3 10 g d a b fun x y => packed (fp16.mul) x y

/-- Packed FP16 min (R278, R281). -/
def execFminH2 (g : BitVec 3) (d a b : BitVec 6) : State → Result :=
  lr2 3 11 g d a b fun x y => packed (fp16.minMax false) x y

/-- Packed FP16 max (R278, R281). -/
def execFmaxH2 (g : BitVec 3) (d a b : BitVec 6) : State → Result :=
  lr2 3 12 g d a b fun x y => packed (fp16.minMax true) x y

/-- Packed BF16 add (R278, R280). -/
def execFaddB2 (g : BitVec 3) (d a b : BitVec 6) : State → Result :=
  lr2 3 16 g d a b fun x y => packed (bf16.add) x y

/-- Packed BF16 sub (R278, R280). -/
def execFsubB2 (g : BitVec 3) (d a b : BitVec 6) : State → Result :=
  lr2 3 17 g d a b fun x y => packed (bf16.sub) x y

/-- Packed BF16 mul (R278, R280). -/
def execFmulB2 (g : BitVec 3) (d a b : BitVec 6) : State → Result :=
  lr2 3 18 g d a b fun x y => packed (bf16.mul) x y

/-- Packed BF16 min (R278, R281). -/
def execFminB2 (g : BitVec 3) (d a b : BitVec 6) : State → Result :=
  lr2 3 19 g d a b fun x y => packed (bf16.minMax false) x y

/-- Packed BF16 max (R278, R281). -/
def execFmaxB2 (g : BitVec 3) (d a b : BitVec 6) : State → Result :=
  lr2 3 20 g d a b fun x y => packed (bf16.minMax true) x y

/-- FP64 add (R280). -/
def execDadd (g : BitVec 3) (d a b : BitVec 6) : State → Result :=
  lrPpp 4 0 g d a b fun x y => toD (fp64.add x.toNat y.toNat)

/-- FP64 sub (R280). -/
def execDsub (g : BitVec 3) (d a b : BitVec 6) : State → Result :=
  lrPpp 4 1 g d a b fun x y => toD (fp64.sub x.toNat y.toNat)

/-- FP64 mul (R280). -/
def execDmul (g : BitVec 3) (d a b : BitVec 6) : State → Result :=
  lrPpp 4 2 g d a b fun x y => toD (fp64.mul x.toNat y.toNat)

/-- FP64 min (R281). -/
def execDmin (g : BitVec 3) (d a b : BitVec 6) : State → Result :=
  lrPpp 4 3 g d a b fun x y => toD (fp64.minMax false x.toNat y.toNat)

/-- FP64 max (R281). -/
def execDmax (g : BitVec 3) (d a b : BitVec 6) : State → Result :=
  lrPpp 4 4 g d a b fun x y => toD (fp64.minMax true x.toNat y.toNat)

/-- FP64 absolute value (R280, R281). -/
def execDabs (g : BitVec 3) (d a : BitVec 6) : State → Result :=
  lrPp 4 5 g d a fun x => toD (fp64.signOp false x.toNat)

/-- FP64 negation (R280, R281). -/
def execDneg (g : BitVec 3) (d a : BitVec 6) : State → Result :=
  lrPp 4 6 g d a fun x => toD (fp64.signOp true x.toNat)

/-- The function rcp of FP32 (R53, R54, R284). -/
def execFrcp (g : BitVec 3) (d a : BitVec 6) : State → Result :=
  lr1 4 16 g d a Transc.rcp.apply

/-- The function rsq of FP32 (R53, R54, R284). -/
def execFrsq (g : BitVec 3) (d a : BitVec 6) : State → Result :=
  lr1 4 17 g d a Transc.rsq.apply

/-- The function exp2 of FP32 (R53, R54, R284). -/
def execFexp2 (g : BitVec 3) (d a : BitVec 6) : State → Result :=
  lr1 4 18 g d a Transc.exp2.apply

/-- The function log2 of FP32 (R53, R54, R284). -/
def execFlog2 (g : BitVec 3) (d a : BitVec 6) : State → Result :=
  lr1 4 19 g d a Transc.log2.apply

/-- The function sin of FP32 (R53, R54, R284). -/
def execFsin (g : BitVec 3) (d a : BitVec 6) : State → Result :=
  lr1 4 20 g d a Transc.sin.apply

/-- The function cos of FP32 (R53, R54, R284). -/
def execFcos (g : BitVec 3) (d a : BitVec 6) : State → Result :=
  lr1 4 21 g d a Transc.cos.apply

/-- The function rcp of packed FP16 (R285). -/
def execFrcpH2 (g : BitVec 3) (d a : BitVec 6) : State → Result :=
  lr1 4 24 g d a fun x => pack2 (Transc.rcp.applyH (half x false)) (Transc.rcp.applyH (half x true))

/-- The function rsq of packed FP16 (R285). -/
def execFrsqH2 (g : BitVec 3) (d a : BitVec 6) : State → Result :=
  lr1 4 25 g d a fun x => pack2 (Transc.rsq.applyH (half x false)) (Transc.rsq.applyH (half x true))

/-- The function exp2 of packed FP16 (R285). -/
def execFexp2H2 (g : BitVec 3) (d a : BitVec 6) : State → Result :=
  lr1 4 26 g d a fun x => pack2 (Transc.exp2.applyH (half x false)) (Transc.exp2.applyH (half x true))

/-- The function log2 of packed FP16 (R285). -/
def execFlog2H2 (g : BitVec 3) (d a : BitVec 6) : State → Result :=
  lr1 4 27 g d a fun x => pack2 (Transc.log2.applyH (half x false)) (Transc.log2.applyH (half x true))

/-- FP32 compare eq into a mask (R283). -/
def execFcmpEq (g k : BitVec 3) (a b : BitVec 6) : State → Result :=
  lrCmp g k a b fun x y => fp32.compare .eq x.toNat y.toNat

/-- FP32 compare ne into a mask (R283). -/
def execFcmpNe (g k : BitVec 3) (a b : BitVec 6) : State → Result :=
  lrCmp g k a b fun x y => fp32.compare .ne x.toNat y.toNat

/-- FP32 compare lt into a mask (R283). -/
def execFcmpLt (g k : BitVec 3) (a b : BitVec 6) : State → Result :=
  lrCmp g k a b fun x y => fp32.compare .lt x.toNat y.toNat

/-- FP32 compare le into a mask (R283). -/
def execFcmpLe (g k : BitVec 3) (a b : BitVec 6) : State → Result :=
  lrCmp g k a b fun x y => fp32.compare .le x.toNat y.toNat

/-- FP32 compare gt into a mask (R283). -/
def execFcmpGt (g k : BitVec 3) (a b : BitVec 6) : State → Result :=
  lrCmp g k a b fun x y => fp32.compare .gt x.toNat y.toNat

/-- FP32 compare ge into a mask (R283). -/
def execFcmpGe (g k : BitVec 3) (a b : BitVec 6) : State → Result :=
  lrCmp g k a b fun x y => fp32.compare .ge x.toNat y.toNat

/-- FP32 compare nan into a mask (R283). -/
def execFcmpNan (g k : BitVec 3) (a b : BitVec 6) : State → Result :=
  lrCmp g k a b fun x y => fp32.compare .nan x.toNat y.toNat

/-- FP64 compare eq into a mask (R283). -/
def execDcmpEq (g k : BitVec 3) (a b : BitVec 6) : State → Result :=
  lrCmpP g k a b fun x y => fp64.compare .eq x.toNat y.toNat

/-- FP64 compare ne into a mask (R283). -/
def execDcmpNe (g k : BitVec 3) (a b : BitVec 6) : State → Result :=
  lrCmpP g k a b fun x y => fp64.compare .ne x.toNat y.toNat

/-- FP64 compare lt into a mask (R283). -/
def execDcmpLt (g k : BitVec 3) (a b : BitVec 6) : State → Result :=
  lrCmpP g k a b fun x y => fp64.compare .lt x.toNat y.toNat

/-- FP64 compare le into a mask (R283). -/
def execDcmpLe (g k : BitVec 3) (a b : BitVec 6) : State → Result :=
  lrCmpP g k a b fun x y => fp64.compare .le x.toNat y.toNat

/-- FP64 compare gt into a mask (R283). -/
def execDcmpGt (g k : BitVec 3) (a b : BitVec 6) : State → Result :=
  lrCmpP g k a b fun x y => fp64.compare .gt x.toNat y.toNat

/-- FP64 compare ge into a mask (R283). -/
def execDcmpGe (g k : BitVec 3) (a b : BitVec 6) : State → Result :=
  lrCmpP g k a b fun x y => fp64.compare .ge x.toNat y.toNat

/-- FP64 compare nan into a mask (R283). -/
def execDcmpNan (g k : BitVec 3) (a b : BitVec 6) : State → Result :=
  lrCmpP g k a b fun x y => fp64.compare .nan x.toNat y.toNat

/-- FP32 fused multiply-add form (R282). -/
def execFfma (d a b c : BitVec 6) : State → Result :=
  lf3 6 0 d a b c fun x y z => toW (fp32.fma false false x.toNat y.toNat z.toNat)

/-- FP32 fused multiply-add form (R282). -/
def execFfms (d a b c : BitVec 6) : State → Result :=
  lf3 6 1 d a b c fun x y z => toW (fp32.fma false true x.toNat y.toNat z.toNat)

/-- FP32 fused multiply-add form (R282). -/
def execFnma (d a b c : BitVec 6) : State → Result :=
  lf3 6 2 d a b c fun x y z => toW (fp32.fma true false x.toNat y.toNat z.toNat)

/-- Packed FP16 fused multiply-add (R282). -/
def execFfmaH2 (d a b c : BitVec 6) : State → Result :=
  lf3 6 3 d a b c (fma2 fp16)

/-- Packed BF16 fused multiply-add (R282). -/
def execFfmaB2 (d a b c : BitVec 6) : State → Result :=
  lf3 6 4 d a b c (fma2 bf16)

/-- FP64 fused multiply-add form (R282). -/
def execDfma (d a b c : BitVec 6) : State → Result :=
  lfP3 6 5 d a b c fun x y z => toD (fp64.fma false false x.toNat y.toNat z.toNat)

/-- FP64 fused multiply-add form (R282). -/
def execDfms (d a b c : BitVec 6) : State → Result :=
  lfP3 6 6 d a b c fun x y z => toD (fp64.fma false true x.toNat y.toNat z.toNat)

/-- FP64 fused multiply-add form (R282). -/
def execDfnma (d a b c : BitVec 6) : State → Result :=
  lfP3 6 7 d a b c fun x y z => toD (fp64.fma true false x.toNat y.toNat z.toNat)

/-- Signed word to FP32 (R286). -/
def execI2fS (g : BitVec 3) (d a : BitVec 6) : State → Result :=
  lr1 5 0 g d a fun x => toW (fp32.ofInt x.toInt)

/-- Unsigned word to FP32 (R286). -/
def execI2fZ (g : BitVec 3) (d a : BitVec 6) : State → Result :=
  lr1 5 1 g d a fun x => toW (fp32.ofInt x.toNat)

/-- FP32 to an integer word (R32, R286). -/
def execF2iS (g : BitVec 3) (d a : BitVec 6) : State → Result :=
  lr1 5 2 g d a fun x => fp32.toInt32 true false x.toNat

/-- FP32 to an integer word (R32, R286). -/
def execF2iSTz (g : BitVec 3) (d a : BitVec 6) : State → Result :=
  lr1 5 3 g d a fun x => fp32.toInt32 true true x.toNat

/-- FP32 to an integer word (R32, R286). -/
def execF2iZ (g : BitVec 3) (d a : BitVec 6) : State → Result :=
  lr1 5 4 g d a fun x => fp32.toInt32 false false x.toNat

/-- FP32 to an integer word (R32, R286). -/
def execF2iZTz (g : BitVec 3) (d a : BitVec 6) : State → Result :=
  lr1 5 5 g d a fun x => fp32.toInt32 false true x.toNat

/-- Signed word to FP64 (R286). -/
def execI2dS (g : BitVec 3) (d a : BitVec 6) : State → Result :=
  lrPw 5 6 g d a fun x => toD (fp64.ofInt x.toInt)

/-- Unsigned word to FP64 (R286). -/
def execI2dZ (g : BitVec 3) (d a : BitVec 6) : State → Result :=
  lrPw 5 7 g d a fun x => toD (fp64.ofInt x.toNat)

/-- FP64 to an integer word (R32, R286). -/
def execD2iS (g : BitVec 3) (d a : BitVec 6) : State → Result :=
  lrWp 5 8 g d a fun x => fp64.toInt32 true false x.toNat

/-- FP64 to an integer word (R32, R286). -/
def execD2iSTz (g : BitVec 3) (d a : BitVec 6) : State → Result :=
  lrWp 5 9 g d a fun x => fp64.toInt32 true true x.toNat

/-- FP64 to an integer word (R32, R286). -/
def execD2iZ (g : BitVec 3) (d a : BitVec 6) : State → Result :=
  lrWp 5 10 g d a fun x => fp64.toInt32 false false x.toNat

/-- FP64 to an integer word (R32, R286). -/
def execD2iZTz (g : BitVec 3) (d a : BitVec 6) : State → Result :=
  lrWp 5 11 g d a fun x => fp64.toInt32 false true x.toNat

/-- FP32 to FP64 (R286). -/
def execF2d (g : BitVec 3) (d a : BitVec 6) : State → Result :=
  lrPw 5 12 g d a fun x => toD (fp32.convert fp64 x.toNat)

/-- FP64 to FP32 (R286). -/
def execD2f (g : BitVec 3) (d a : BitVec 6) : State → Result :=
  lrWp 5 13 g d a fun x => toW (fp64.convert fp32 x.toNat)

/-- Two FP32 to packed FP16 (R286). -/
def execF2h2 (g : BitVec 3) (d a b : BitVec 6) : State → Result :=
  lr2 5 14 g d a b fun x y => pack2 (fp32.convert fp16 x.toNat) (fp32.convert fp16 y.toNat)

/-- FP16 element 0 to FP32 (R286). -/
def execH2fLo (g : BitVec 3) (d a : BitVec 6) : State → Result :=
  lr1 5 15 g d a fun x => toW (fp16.convert fp32 (half x false))

/-- FP16 element 1 to FP32 (R286). -/
def execH2fHi (g : BitVec 3) (d a : BitVec 6) : State → Result :=
  lr1 5 16 g d a fun x => toW (fp16.convert fp32 (half x true))

/-- Two FP32 to packed BF16 (R286). -/
def execF2b2 (g : BitVec 3) (d a b : BitVec 6) : State → Result :=
  lr2 5 17 g d a b fun x y => pack2 (fp32.convert bf16 x.toNat) (fp32.convert bf16 y.toNat)

/-- BF16 element 0 to FP32 (R286). -/
def execB2fLo (g : BitVec 3) (d a : BitVec 6) : State → Result :=
  lr1 5 18 g d a fun x => toW (bf16.convert fp32 (half x false))

/-- BF16 element 1 to FP32 (R286). -/
def execB2fHi (g : BitVec 3) (d a : BitVec 6) : State → Result :=
  lr1 5 19 g d a fun x => toW (bf16.convert fp32 (half x true))

/-- A slot is valid (R42): reserved fields zero, FMT assigned, AXIS 0 or 1, and no block field set for a format that is not a
block format. -/
def slotValid (w : Word) : Bool :=
  let x := w.toNat
  let fmt := x % 16
  let block := 2 ≤ fmt && fmt ≤ 6
  x / 65536 == 0 && x / 128 % 2 == 0 && fmt ≤ 9 && x / 16 % 4 ≤ 1 && (block || (x / 256 % 256 == 0 && x / 16 % 8 == 0))

/-- The narrow format and MICRO of a slot that a narrow conversion accepts (R42, R287). -/
def slotNarrow (w : Word) : Option (Narrow × Bool) :=
  if slotValid w then
    match Narrow.ofCode (w.toNat % 16) with
    | some n => some (n, w.getLsbD 6)
    | none => none
  else none

/-- A narrow conversion (R287): FORMAT_SLOT for a slot it does not accept. -/
def narrowOp (min : Nat) (g : BitVec 3) (d a : BitVec 6) (k : BitVec 3) (readsD : Bool)
    (f : Narrow → Bool → Cx → Word → (Nat → BitVec 128) × FlagSet) : State → Result :=
  let o := { opLR 5 min g d.toNat 1 a.toNat 1 0 0 readsD with slot := some k.toNat }
  gate o.uses fun cx s =>
    match slotNarrow (cx.slotWord k.toNat) with
    | none => .next ((if cx.reuses then s.countLookup cx.quad else s).trapAll cx .formatSlot)
    | some (n, micro) => .next (laneBody o (f n micro) cx s)

/-- The FP32 value of lane l of a register. -/
def Cx.num (cx : Cx) (r l : Nat) : Num := fp32.unpack (cx.grp.vlane r l).toNat

/-- Scale record of each block (R43, R289). -/
def execNscale (g : BitVec 3) (d a : BitVec 6) (f : BitVec 3) : State → Result :=
  narrowOp 32 g d a f false fun n micro cx active =>
    let rec_ := fun (b : Nat) => n.scale micro ((List.range 16).map fun i =>
      if active.getLsbD (16 * b + i) then cx.num a.toNat (16 * b + i) else .fin false 0 0)
    let lo := rec_ 0
    let hi := rec_ 1
    (fun l => let r := if l < 16 then lo else hi; word1 (BitVec.ofNat 32 (r.2 * 2 ^ 24 + r.1 * 2 ^ 16)),
      orFlags active fun l => nvIf (cx.num a.toNat l).snan)

/-- FP32 to an element code under the record in vd (R44, R45, R290). -/
def execNpack (g : BitVec 3) (d a : BitVec 6) (f : BitVec 3) : State → Result :=
  narrowOp 33 g d a f true fun n micro cx active =>
    let conv := fun (l : Nat) =>
      let w := (cx.grp.vlane d.toNat l).toNat
      let E := w / 2 ^ 16 % 256
      let U := if micro then w / 2 ^ 24 else 0
      let c : Nat × FlagSet := if E = 255 then (0, 0) else n.under micro E U (l % 16) (cx.num a.toNat l)
      (U * 2 ^ 24 + E * 2 ^ 16 + c.1, c.2)
    (fun l => word1 (BitVec.ofNat 32 (conv l).1), orFlags active fun l => (conv l).2)

/-- An element word to FP32 (R37, R291). -/
def execNunpk (g : BitVec 3) (d a : BitVec 6) (f : BitVec 3) : State → Result :=
  narrowOp 34 g d a f false fun n micro cx active =>
    let conv := fun (l : Nat) =>
      let w := (cx.grp.vlane a.toNat l).toNat
      fp32.pack (n.value micro (w / 2 ^ 16 % 256) (w / 2 ^ 24) (w % 256) (l % 16))
    (fun l => word1 (BitVec.ofNat 32 (conv l).1), orFlags active fun l => (conv l).2)

end Sys2Proof.Machine
end

