-- ==== Sys2Proof/Machine/Copy.lean ====
section
/-! DEFINITION. Copy requests, their landings and batches (R338 to R357). The box moves in units of 16 bytes, which the
alignment rules of R340 and R343 keep whole. -/

namespace Sys2Proof.Machine

/-! ### Layout records (R338 to R340) -/

/-- Element size in bits (R338). -/
def esizeBits (e : Nat) : Nat :=
  match e with
  | 0 => 4
  | 1 => 6
  | 2 => 8
  | 3 => 16
  | 4 => 32
  | _ => 64

/-- Element k of a list of numbers, or d. -/
def nth {α : Type} (xs : List α) (k : Nat) (d : α) : α := xs.getD k d

/-- A 48-bit signed field. -/
def signed48 (x : Nat) : Int := if x < 2 ^ 47 then x else (x : Int) - 2 ^ 48

/-- A layout record from its 64 bytes (R338), with the checks of R340 that need no slot. -/
def layoutOf (bs : List Byte) : Layout :=
  let at_ := fun (o n : Nat) => Memory.toNat ((bs.drop o).take n)
  let ctrl := at_ 0x1C 4
  let ndim := ctrl % 8
  let esize := ctrl / 2 ^ 3 % 16
  let ext := (List.range 5).map fun k => at_ (8 + 4 * k) 4
  let raw := (List.range 4).map fun k => at_ (0x20 + 6 * k) 6
  let box := (List.range 5).map fun k => at_ (0x38 + k) 1
  let bits := esizeBits esize
  let nb := box.map (· + 1)
  let rowb := nth nb 0 1 * bits / 8
  let size := rowb * (nth nb 1 1 * nth nb 2 1 * nth nb 3 1 * nth nb 4 1)
  let dims := (List.range 5).all fun k =>
    if k < ndim then nth ext k 0 != 0
    else nth ext k 0 == 0 && nth box k 0 == 0 && (k == 0 || nth raw (k - 1) 0 == 0)
  { base := BitVec.ofNat 64 (at_ 0 8)
    ext := ext
    strides := 0 :: raw.map signed48
    nb := nb
    esize := esize
    swz := ctrl / 2 ^ 7 % 8
    pid := if ctrl / 2 ^ 12 % 2 = 1 then some (ctrl / 2 ^ 13 % 256) else none
    phint := ctrl / 2 ^ 10 % 4
    ndim := ndim
    fslot := if ctrl / 2 ^ 21 % 2 = 1 then some (ctrl / 2 ^ 22 % 8) else none
    valid := ctrl / 2 ^ 25 == 0 && at_ 0x3D 3 == 0 && 1 ≤ ndim && ndim ≤ 5 && esize ≤ 5 && ctrl / 2 ^ 10 % 4 ≤ 2 && dims
      && (nth nb 0 1 * bits) % 8 == 0 && rowb % 16 == 0 && size ≤ 524288
      && (esize != 0 || nth ext 0 0 % 2 == 0) && (esize != 1 || nth ext 0 0 % 4 == 0) }

/-- Bits of an element. -/
def Layout.bits (l : Layout) : Nat := esizeBits l.esize

/-- ROWB of R339. -/
def Layout.rowb (l : Layout) : Nat := nth l.nb 0 1 * l.bits / 8

/-- S of R339, in bytes. -/
def Layout.size (l : Layout) : Nat := l.rowb * (nth l.nb 1 1 * nth l.nb 2 1 * nth l.nb 3 1 * nth l.nb 4 1)

/-- The slot conditions of R340, for the kernel's slots and the request's coordinates. -/
def Layout.slotOk (l : Layout) (cx : Cx) (coord : List Int) : Bool :=
  match l.fslot with
  | none => true
  | some k =>
    let w := cx.slotWord k
    let fmt := w.toNat % 16
    let axis := w.toNat / 16 % 4
    let width := match fmt with
      | 0 => 16
      | 1 => 16
      | 4 => 6
      | 5 => 4
      | 9 => 64
      | _ => 8
    slotValid w && width == l.bits
      && (!(2 ≤ fmt && fmt ≤ 6)
        || (nth l.ext axis 0 % 16 == 0 && nth l.nb axis 1 % 16 == 0 && nth coord axis 0 % 16 == 0))

/-- The indices j1 to j4 of the row that holds byte x of the box (R339). -/
def Layout.rowIndex (l : Layout) (x : Nat) : List Nat :=
  let r := x / l.rowb
  let n1 := nth l.nb 1 1
  let n2 := nth l.nb 2 1
  let n3 := nth l.nb 3 1
  [r % n1, r / n1 % n2, r / (n1 * n2) % n3, r / (n1 * n2 * n3)]

/-- The index j0 of the first element whose bits lie in byte x of the box: four 6-bit elements share 3 bytes (R36). -/
def Layout.colIndex (l : Layout) (x : Nat) : Nat :=
  let b := x % l.rowb
  if l.esize = 1 then b / 3 * 4 else b * 8 / l.bits

/-- Byte x of the box lies in bounds (R339). -/
def Layout.inb (l : Layout) (coord : List Int) (x : Nat) : Bool :=
  let ok := fun (k : Nat) (c : Int) => decide (0 ≤ c) && decide (c < nth l.ext k 0)
  ok 0 (nth coord 0 0 + l.colIndex x)
    && (List.range 4).all fun k => l.ndim ≤ k + 1 || ok (k + 1) (nth coord (k + 1) 0 + nth (l.rowIndex x) k 0)

/-- The global address of byte x of the box (R339). -/
def Layout.gaddr (l : Layout) (coord : List Int) (x : Nat) : Nat :=
  let far := (List.range 4).foldl (fun (a : Int) k =>
    if k + 1 < l.ndim then a + (nth coord (k + 1) 0 + nth (l.rowIndex x) k 0) * nth l.strides (k + 1) 0 else a) 0
  ((l.base.toNat + nth coord 0 0 * l.bits / 8 + x % l.rowb + far) % 2 ^ 64).toNat

/-! ### Acceptance (R341 to R344, R357) -/

/-- The signed coordinates of an operand block (R341). -/
def coordsOf (g : Group) (b : Nat) : List Int :=
  let half := fun (r k : Nat) => ((g.greg r).extractLsb' (32 * k) 32).toInt
  [half b 0, half b 1, half (b + 1) 0, half (b + 1) 1, half (b + 2) 1]

/-- The signal of an operand block (R341, check 5 of R343): none when its register breaks a rule. -/
def signalOf (s : State) (cx : Cx) (x : DWord) : Option CopySignal :=
  match x.toNat / 2 ^ 62 with
  | 0 => if x = 0 then some .none else none
  | 1 =>
    if x.toNat % 2 ^ 62 / 2 ^ 8 ≠ 0 then none
    else
      match cx.barrierOf s (BitVec.ofNat 64 (x.toNat % 256)) with
      | some (h, id, band) => if (s.barrier h id band).isSome then some (.barrier h id band) else none
      | none => none
  | 2 =>
    let addr := x.toNat / 2 ^ 32 % 2 ^ 24
    let win := addr / 2 ^ 20
    let off := addr % 2 ^ 20
    let slot := cx.team.linear % cx.kern.launch.bandSize
    if x.toNat / 2 ^ 56 % 64 ≠ 0 ∨ ¬ (win = 0 ∨ win = slot + 1) ∨ off % 4 ≠ 0 ∨ cx.kern.launch.scratch < off + 4 then none
    else some (.word off (BitVec.ofNat 32 x.toNat))
  | _ => none

/-- LOCAL and the box's place (check 5 of R343): the team whose scratchpad it lies in. -/
def localOk (s : State) (cx : Cx) (kind : CopyKind) (l : Layout) (loc : Nat) : Option Nat :=
  match kind with
  | .prefetch => if loc = 0 then some cx.uid else none
  | .scale => if loc % 16 = 0 ∧ loc + l.size ≤ 524288 then some cx.uid else none
  | _ =>
    if loc % 16 ≠ 0 ∨ (l.swz ≠ 0 ∧ (loc % 128 ≠ 0 ∨ l.size % 128 ≠ 0)) then none
    else
      match s.scratchTarget cx.uid loc l.size with
      | some (u, _) => some u
      | none => none

/-- Check 6 of R343: BASE and strides are multiples of the element's bytes. -/
def Layout.aligned (l : Layout) : Bool :=
  l.esize < 3 || (l.base.toNat % (l.bits / 8) == 0 && l.strides.all fun x => x % (l.bits / 8 : Nat) == 0)

/-- The box bytes that hold element j0 of the row that begins at box byte x: the first one, and how many (R36, R339). -/
def Layout.elemBytes (l : Layout) (x j0 : Nat) : Nat × Nat :=
  (x + j0 * l.bits / 8, (j0 * l.bits + l.bits - 1) / 8 + 1 - j0 * l.bits / 8)

/-- The first byte of the lowest element that has a bit in box byte x. -/
def Layout.leadByte (l : Layout) (x : Nat) : Nat :=
  let row := x / l.rowb * l.rowb
  (l.elemBytes row ((x - row) * 8 / l.bits)).1

/-- Check 7 of R343: the lowest address of an in-bounds element with a byte that is not canonical, or lies in the system window in program
mode, with its cause. A row whose ends share a legal half is wholly legal. -/
def Layout.addressFault (l : Layout) (coord : List Int) (firmware : Bool) : Option (Cause × Nat) :=
  let bad := (List.range (l.size / l.rowb)).flatMap fun r =>
    let first := l.gaddr coord (l.rowb * r)
    if canonicalRange first l.rowb && (firmware || !inWindow first) then []
    else
      (((List.range (nth l.nb 0 1)).map (l.elemBytes (l.rowb * r))).filter fun e => l.inb coord e.1).filterMap fun e =>
        let a := l.gaddr coord e.1
        if !canonicalRange a e.2 then some (Cause.noncanon, a)
        else if inWindow a && !firmware then some (Cause.perm, a)
        else none
  bad.foldl (fun b p =>
    match b with
    | some q => if p.2 < q.2 then some p else some q
    | none => some p) none

/-- The units of the box that hold an in-bounds byte. -/
def Layout.inUnits (l : Layout) (coord : List Int) : List Nat :=
  (List.range (l.size / 16)).filter fun u => (List.range 16).any fun k => l.inb coord (16 * u + k)

/-- Bytes of the box out of bounds. -/
def Layout.outBytes (l : Layout) (coord : List Int) : Nat :=
  ((List.range l.size).filter fun x => !l.inb coord x).length

/-- The checks 2 to 8 of R343 on a decoded record: the trap, or the target team and the signal. -/
def copyChecks (s : State) (cx : Cx) (kind : CopyKind) (a b : Nat) (l : Layout) :
    (Cause × DWord × DWord) ⊕ (Nat × CopySignal) :=
  let g := fun r => cx.grp.greg r
  let coord := coordsOf cx.grp b
  let loc := (g (b + 2)).toNat % 2 ^ 32
  let matrix := match (s.core cx.core).hold with
    | .held t => t == cx.uid
    | _ => false
  if !l.valid || (kind == .scale && (l.esize != 3 || l.swz != 0)) then .inl (.perm, g a, 0)
  else if !l.slotOk cx coord then .inl (.formatSlot, g a, 0)
  else if kind == .scale && !matrix then .inl (.matrixNotHeld, 0, 0)
  else
    match signalOf s cx (g (b + 3)) with
    | none => .inl (.perm, g (b + 3), 0)
    | some sig =>
      if (l.esize == 0 && nth coord 0 0 % 2 != 0) || (l.esize == 1 && nth coord 0 0 % 4 != 0) then .inl (.perm, g b, 0)
      else
        match localOk s cx kind l loc with
        | none => .inl (.perm, g (b + 2), 0)
        | some target =>
          if !l.aligned then .inl (.misalign, l.base, 0)
          else
            match l.addressFault coord cx.sp.firmware with
            | some (c, at_) => .inl (c, BitVec.ofNat 64 at_, 0)
            | none =>
              match sig with
              | .barrier h id band =>
                match s.barrier h id band with
                | some x =>
                  if (x.post l.size).isNone then .inl (.barrierOverrun, 0, BitVec.ofNat 64 id) else .inr (target, sig)
                | none => .inr (target, sig)
              | _ => .inr (target, sig)

/-- The tags of the release or drain that an engine request must wait for (R74, R76, R77, R344). -/
def State.engineTags (s : State) (cx : Cx) (rel : Option Nat) : List Nat :=
  (if (rel.isSome || cx.sp.drainArmed) && !s.drained cx then [storeTag] else [])
  ++ if rel == some 5 && !s.peerStoresAcked cx.gid then [postTag] else []

/-- An engine request must wait for a release or drain. -/
def State.engineWaits (s : State) (cx : Cx) (rel : Option Nat) : Bool := !(s.engineTags cx rel).isEmpty

/-- The scratchpad bytes of a unit, as offsets in the target team's scratchpad (R297, R339). -/
def CopyReq.local_ (r : CopyReq) (u : Nat) : Nat := swizzle r.layout.swz (r.localAddr + 16 * u) % 2 ^ 20

/-- The placement that the request belongs to is still there (R355). -/
def CopyReq.live (r : CopyReq) (s : State) : Bool :=
  match s.teams.look r.team with
  | some t => t.placement == r.placement && (t.state == .resident || t.state == .saving)
  | none => false

/-- Count n landed bytes toward the request's barrier (R319, R345). -/
def State.countLanded (s : State) (r : CopyReq) (n : Nat) : State :=
  match r.signal with
  | .barrier h id band => if n = 0 || !r.live s then s else s.landBarrier h id band n
  | _ => s

/-- λ after a completion that took t ns (R353). -/
def estimate (old : Option Rat) (t : Rat) : Option Rat :=
  match old with
  | none => some t
  | some x => some (x + (t - x) / 8)

/-- A copy is complete (R345): the completion word is written, λ follows, its slot frees, its batch loses it, and waits of
CPY.WAITN are evaluated again (R351, R352). -/
def State.copyDone (s : State) (core slot : Nat) : State :=
  match (s.core core).copies.look slot with
  | none => s
  | some r =>
    let live := r.live s
    let s := match r.signal with
      | .word off v =>
        if live then (s.scratchWrite r.team off (Memory.ofNat 4 v.toNat)).bumpScratch core else s
      | _ => s
    let s := if live then
        s.modTeam r.team fun t => { t with lambda := estimate t.lambda ((s.time.toNat - r.accepted : Nat) : Rat) }
      else s
    let s := s.modCore core fun c => { c with copies := c.copies.del slot }
    let s := s.modGroup r.group fun g =>
      let batches := g.copyBatches.map fun b => ({ b with open_ := b.open_.filter fun n => n != r.serial } : Batch)
      { g with copyBatches := batches.filter fun b => !b.open_.isEmpty }
    s.releaseWhere (fun gid w _ =>
      gid == r.group && match w, s.groups.look gid with
        | .copies n, some g => g.copyBatches.length ≤ n
        | _, _ => false) 2

/-- The parts of a unit's in-bounds bytes that lie in one line of global memory each: the box byte where a part begins, its address and
its length. Addresses in a unit follow one another, for a unit lies in one row. -/
def Layout.parts (l : Layout) (coord : List Int) (u : Nat) : List (Nat × Nat × Nat) :=
  match ((List.range 16).map (16 * u + ·)).filter fun x => l.inb coord x with
  | [] => []
  | x :: rest =>
    (lineRuns (l.gaddr coord x) (rest.length + 1)).map fun r => (x + (r.1 - l.gaddr coord x), r.1, r.2)

/-- The issuing core's reuse entries of the pages that a CPY.ST writes die as it issues (R251): those of its virtual pages, and of the
physical pages that they translate to. -/
def State.killBox (s : State) (cx : Cx) (l : Layout) (coord : List Int) : State :=
  let vas := ((l.inUnits coord).flatMap fun u => (l.parts coord u).map fun p => p.2.1 / 65536).eraseDups
  let pages := vas.filterMap fun v =>
    match s.engineXlate (some cx.core) cx.asid (v * 65536) true with
    | .ok pa => some (pa / 65536)
    | _ => none
  (quadsOf cx.core).foldl (fun s q => s.killReuse q fun e =>
    (e.key.asid == cx.asid && e.vpages.any vas.contains) || e.pages.any pages.contains) s

/-- Accept a copy (R344). -/
def State.acceptCopy (s : State) (cx : Cx) (kind : CopyKind) (b slot : Nat) (l : Layout) (target : Nat) (sig : CopySignal) :
    State :=
  let coord := coordsOf cx.grp b
  let early := kind == .store || kind == .prefetch
  let r : CopyReq :=
    { kind := kind, group := cx.gid, split := cx.sp.tag, splitIndex := cx.k, lanes := cx.sp.mask, firmware := cx.sp.firmware
      pc := cx.sp.pc, team := cx.uid, placement := cx.team.placement, asid := cx.asid, serial := s.uid
      accepted := s.time.toNat, layout := l, coord := coord
      localAddr := (cx.grp.greg (b + 2)).toNat % 2 ^ 32, target := target, signal := sig
      left := if early then l.inUnits coord else List.range (l.size / 16) }
  let s := { s with uid := s.uid + 1 }
  let s := if kind == .store then s.killBox cx l coord else s
  let s := match sig with
    | .barrier h id band =>
      match (s.barrier h id band).bind fun x => x.post l.size with
      | some x => s.updateBarrier h id x
      | none => s
    | _ => s
  let s := s.modCore cx.core fun c => { c with copies := c.copies.put slot r }
  let s := s.modGroup cx.gid fun g => { g with copySet := g.copySet ++ [r.serial] }
  let s := if early then s.countLanded r (l.outBytes coord) else s
  if r.left.isEmpty then s.copyDone cx.core slot else s

/-- A copy instruction (R343, R344, R357). -/
def copyOp (kind : CopyKind) (a b : BitVec 6) (o : BitVec 4) : State → Result :=
  gate { gr := a.toNat :: regRun b.toNat 4, memory := true } fun cx s =>
    match s.readRecord cx cx.sp.firmware (cx.grp.greg a.toNat) 64 64 (cx.grp.greg a.toNat) true with
    | .stop s => .next s
    | .bytes s' bs =>
      let l := layoutOf bs
      match copyChecks s' cx kind a.toNat b.toNat l with
      | .inl (c, addr, aux) => .next (s'.trapAll cx c addr aux)
      | .inr (target, sig) =>
        let rel := orderScope o
        if s'.engineWaits cx rel then .next (s'.parkStores cx (s'.engineTags cx rel))
        else
          match cx.postedTrap (rel.getD 0), Map.freeKey (s'.core cx.core).copies 0 128 with
          | some t, _ => .next ((s'.modGroup cx.gid fun g => { g with postedFault := none }).raiseTrap cx t)
          | none, none => .next s
          | none, some slot =>
            .next (((s'.acceptCopy cx kind b.toNat slot l target sig).retireG cx 24).modTag cx.gid cx.sp.tag fun sp =>
              { sp with drainArmed := false })

/-- Copy a box from global memory to a scratchpad. -/
def execCpyLd (a b : BitVec 6) (o : BitVec 4) : State → Result := copyOp .load a b o

/-- Copy a box from a scratchpad to global memory. -/
def execCpySt (a b : BitVec 6) (o : BitVec 4) : State → Result := copyOp .store a b o

/-- Copy scale records from global memory to the scale store. -/
def execCpySc (a b : BitVec 6) (o : BitVec 4) : State → Result := copyOp .scale a b o

/-- Warm the polders with a box: no outcome but its landing (R342). -/
def execCpyPf (a b : BitVec 6) (o : BitVec 4) : State → Result := copyOp .prefetch a b o

/-! ### Landings (R342, R345 to R350) -/

/-- What a part of a unit must do before it can move. -/
inductive PartEnd where
  /-- It can move, at a physical address: with the bytes that a peer has answered, if one holds it. -/
  | go (pa : Nat) (answer : Option (List Byte))
  /-- It goes into the bounce buffer, by the entry at an address (R349). -/
  | bounce (entry : DWord) (at_ : Nat)
  | page
  | held (pa : Nat)
  | peer (device pa : Nat)
  | cause (c : Cause)
  deriving DecidableEq, Repr

/-- How a part of a copy's unit, from box byte x at an address, stands at its translation and home (R342, R347, R349, R350). -/
def State.partEnd (s : State) (core : Nat) (r : CopyReq) (x va : Nat) (write : Bool) : PartEnd :=
  match s.engineXlate (some core) r.asid va write with
  | .cause c => .cause c
  | .page => .page
  | .absent entry at_ => .bounce entry at_
  | .ok pa =>
    match s.paKind pa with
    | .peer d =>
      match r.answered.look x with
      | some bs => .go pa (some bs)
      | none => .peer d pa
    | _ => if s.homeReady (.core core) pa write then .go pa none else .held pa

/-- Record a failing copy (R348): a trap record, and the context FAULTED. -/
def State.copyRecord (s : State) (core : Nat) (r : CopyReq) (c : Cause) (va : Nat) (device : Nat) : State :=
  match s.teams.look r.team with
  | none => s
  | some t =>
    (s.trapRecord r.asid
      { time := s.time, aux := BitVec.ofNat 64 device, addr := BitVec.ofNat 64 va, pc := r.pc, lanes := r.lanes, kernel := t.kernel
        team := t.linear, group := r.group % 32, split := r.splitIndex, nested := r.firmware, core := core, cause := c }).faultCtx
      r.asid

/-- Mark the units of a copy as landed. -/
def State.unitsLanded (s : State) (core slot : Nat) (us : List Nat) : State :=
  s.modCore core fun c => { c with copies := c.copies.upd slot fun r => { r with left := r.left.filter fun u => !us.contains u } }

/-- Write the 16 bytes of a unit at its destination on the core (R342): poisoned bytes poison their unit of storage. -/
def State.landUnit (s : State) (core : Nat) (r : CopyReq) (u : Nat) (bs : List (Byte × Bool)) : State :=
  let bad := (List.range 16).filter fun k => (bs.getD k (0, false)).2
  match r.kind with
  | .scale =>
    let off := r.localAddr + 16 * u
    s.modCore core fun c =>
      { c with
        scale := Memory.setBytes c.scale off (bs.map Prod.fst)
        scalePoison := (c.scalePoison.filter fun p => !(off / 2 ≤ p && p < off / 2 + 8)) ++ (bad.map fun k => (off + k) / 2).eraseDups }
  | _ =>
    let off := r.local_ u
    let s := s.modTeam r.target fun t =>
      let t := t.scratchWrite off (bs.map Prod.fst)
      bad.foldl (fun t k => t.scratchPoisonAt (off + k) 1) t
    match s.teams.look r.target with
    | some t => s.bumpScratch t.core
    | none => s

/-- Ask a peer for a part of a copy's unit, or send it its bytes (R347, R459), unless it is on its way. -/
def State.askUnit (s : State) (core slot : Nat) (r : CopyReq) (x device va n : Nat) (piece : Option Piece) : State :=
  if s.peerReqs.any fun q => q.2.copy == some (slot, r.serial, x) && q.2.core == core then s
  else
    { s with
      peerReqs := s.peerReqs.put s.uid
        { device := device, sent := s.time.toNat, core := core, tag := none, lanes := r.lanes, pc := r.pc
          vaddr := BitVec.ofNat 64 va, asid := r.asid, copy := some (slot, r.serial, x), bytes := n, piece := piece }
      uid := s.uid + 1 }

/-- The bytes of a unit that has landed, from box byte x on, become poisoned (R348). -/
def State.poisonTail (s : State) (core : Nat) (r : CopyReq) (x : Nat) : State :=
  let ks := (List.range 16).filter fun k => x ≤ x / 16 * 16 + k
  match r.kind with
  | .scale => s.modCore core fun c =>
      { c with scalePoison := c.scalePoison ++ ((ks.map fun k => (r.localAddr + x / 16 * 16 + k) / 2).eraseDups.filter fun p =>
          !c.scalePoison.contains p) }
  | _ => s.modTeam r.target fun t => ks.foldl (fun t k => t.scratchPoisonAt (r.local_ (x / 16) + k) 1) t

/-- A copy fails at box byte b (R348): one record, and the units from its element on account for their bytes. A CPY.ST has written what
lies before the byte, with the bits that a 6-bit element before the failing one has there. -/
def State.copyFail (s : State) (core slot b : Nat) (c : Cause) (va device : Nat) : State :=
  match (s.core core).copies.look slot with
  | none => s
  | some r =>
    let s := match r.failedAt with
      | some _ => s
      | none => s.copyRecord core r c va device
    let lead := if r.kind == .store then b else r.layout.leadByte b
    let x := match r.failedAt with
      | some y => min lead y
      | none => lead
    let s := s.modCore core fun c => { c with copies := c.copies.upd slot fun q => { q with failedAt := some x } }
    let r := { r with failedAt := some x }
    let late := (List.range (r.layout.size / 16)).filter fun u => x ≤ 16 * u
    let counted := r.left.filter fun u => late.contains u
    let s := match r.kind with
      | .store => s
      | .prefetch => s
      | _ =>
        if r.live s then
          let s := late.foldl (fun (s : State) u => s.landUnit core r u (List.replicate 16 (0, true))) s
          if x % 16 = 0 ∨ r.left.contains (x / 16) then s else s.poisonTail core r x
        else s
    let n := match r.kind with
      | .store => (counted.map fun u => ((List.range 16).filter fun k => r.layout.inb r.coord (16 * u + k)).length).sum
      | _ => 16 * counted.length
    (s.unitsLanded core slot counted).countLanded r n

/-- The parts of a unit that lie before the failing element, if the copy has failed. -/
def CopyReq.earlyParts (r : CopyReq) (u : Nat) : List (Nat × Nat × Nat) :=
  (r.layout.parts r.coord u).filterMap fun p =>
    match r.failedAt with
    | some f => if f ≤ p.1 then none else some (p.1, p.2.1, min p.2.2 (f - p.1))
    | none => some p

/-- A part of a unit reaches its home through the walk-ahead TLB, its page's class and its polder (R342, R346, R396). -/
def State.partTouch (s : State) (core : Nat) (r : CopyReq) (va pa : Nat) (write : Bool) : State :=
  ((s.engineLearn core r.asid va).homeTouch (.core core) pa write).throughPolders core r.asid (if write then 0 else r.layout.phint)
    (if write then some 0 else none) [(va, pa)]

/-- A part cannot move yet, or makes the copy fail: what happens for it, with its bytes when it writes. -/
def State.partStop (s : State) (core slot : Nat) (r : CopyReq) (p : Nat × Nat × Nat) (e : PartEnd) (write : Bool) (piece : Option Piece) :
    Option State :=
  let walked := s.engineLearn core r.asid p.2.1
  match e with
  | .cause c => some (walked.copyFail core slot p.1 c p.2.1 0)
  | .page => some (walked.pageRequest r.asid p.2.1 (if write then .write else .read) (.copy core slot))
  | .held pa => some (walked.homeTouch (.core core) pa write)
  | .peer d _ => some (walked.askUnit core slot r p.1 d p.2.1 p.2.2 piece)
  | .go _ _ => none
  | .bounce _ _ => none

/-- Land one unit of a CPY.LD or CPY.SC, if every byte of it is there; a byte out of bounds is zero (R342), one from the failing element
on is poisoned (R348). -/
def State.landIn (s : State) (core slot : Nat) (r : CopyReq) (u : Nat) : State :=
  let ends := (r.earlyParts u).map fun p => (p, s.partEnd core r p.1 p.2.1 false)
  match ends.findSome? fun e => s.partStop core slot r e.1 e.2 false none with
  | some t => t
  | none =>
    let source := fun (x : Nat) =>
      match ends.find? fun e => e.1.1 ≤ x && x < e.1.1 + e.1.2.2 with
      | some (p, .go pa none) => (s.physByte (pa + (x - p.1)), s.physPoisoned (pa + (x - p.1)) 1)
      | some (p, .go _ (some bs)) => (bs.getD (x - p.1) 0, false)
      | _ => (0, r.failedAt.any fun f => f ≤ x)
    let bs := (List.range 16).map fun k => source (16 * u + k)
    let s := ends.foldl (fun (s : State) e =>
      match e.2 with
      | .go pa none => s.partTouch core r e.1.2.1 pa false
      | _ => s) s
    let s := if r.live s then s.landUnit core r u bs else s
    (s.unitsLanded core slot [u]).countLanded r 16

/-- A part of a CPY.ST's unit is written: performed at its home, or into the bounce buffer (R342, R349); none when no slot is free. -/
def State.writePart (s : State) (core : Nat) (r : CopyReq) (t : Team) (u : Nat) (p : Nat × Nat × Nat) (e : PartEnd) : Option State :=
  let off := r.local_ u + (p.1 - 16 * u)
  let bs := (List.range p.2.2).map fun i => Memory.byte t.scratch (off + i)
  let bad := (List.range p.2.2).filter fun i => t.scratchPoisoned (off + i) 1
  match e with
  | .go pa none =>
    let s := (s.partTouch core r p.2.1 pa true).physWrite pa bs
    let s := bad.foldl (fun (s : State) i => s.physPoison (pa + i) 1) s
    some ((s.dropL1 core pa).killPages core [pa / 65536])
  | .bounce entry at_ =>
    ((s.engineLearn core r.asid p.2.1).bounceWrite r.asid p.2.1 entry at_ bs).map fun s =>
      s.bouncePoisonAt r.asid (bad.map (p.2.1 + ·))
  | _ => some s

/-- The bytes of a part of a CPY.ST's unit, for a peer (R459). -/
def CopyReq.pieceOf (r : CopyReq) (t : Team) (u : Nat) (p : Nat × Nat × Nat) (e : PartEnd) : Option Piece :=
  let off := r.local_ u + (p.1 - 16 * u)
  match e with
  | .peer _ pa => some
      { kind := .global, addr := pa, bytes := (List.range p.2.2).map fun i => Memory.byte t.scratch (off + i), va := BitVec.ofNat 64 p.2.1
        bad := t.scratchPoisoned off p.2.2 }
  | _ => none

/-- A unit of a CPY.ST is complete. -/
def State.unitOut (s : State) (core slot : Nat) (r : CopyReq) (u : Nat) : State :=
  (s.unitsLanded core slot [u]).countLanded r ((List.range 16).filter fun k => r.layout.inb r.coord (16 * u + k)).length

/-- Write the in-bounds bytes of a CPY.ST unit: performed at the home, bounced, or sent to a peer (R342, R349, R350). A unit whose bytes
cross a line's end moves in parts. It lands once the invalidations that its writes cause have been acknowledged (R70); without room in
the bounce buffer it waits whole (R417). -/
def State.landOut (s : State) (core slot : Nat) (r : CopyReq) (u : Nat) : State :=
  match r.written.look u, s.teams.look r.target with
  | some lines, _ => if s.acksOwed core lines then s else s.unitOut core slot r u
  | none, none => s.unitOut core slot r u
  | none, some t =>
    let ends := (r.earlyParts u).map fun p => (p, s.partEnd core r p.1 p.2.1 true)
    match ends.findSome? fun e => s.partStop core slot r e.1 e.2 true (r.pieceOf t u e.1 e.2) with
    | some t => t
    | none =>
      match ends.foldl (fun (a : Option State) e => a.bind fun s => s.writePart core r t u e.1 e.2) (some s) with
      | none => s
      | some s' =>
        let lines := ends.filterMap fun e =>
          match e.2 with
          | .go pa none => if s.tracked (s.redirect pa / 128) then some (s.redirect pa / 128) else none
          | _ => none
        if lines.isEmpty then s'.unitOut core slot r u
        else s'.modCore core fun c => { c with copies := c.copies.upd slot fun q => { q with written := q.written.put u lines } }

/-- A unit of a CPY.PF: each part that translates, to a page that PID allows, is looked up in its page's polder; the engine skips the
others (R342). It waits for a home that holds it (R397). -/
def State.warmUnit (s : State) (core slot : Nat) (r : CopyReq) (u : Nat) : State :=
  let allowed := fun (va : Nat) => r.layout.pid.all fun p => s.polderOf core r.asid va == some p
  let ends := ((r.layout.parts r.coord u).filter fun p => allowed p.2.1).map fun p => (p, s.partEnd core r p.1 p.2.1 false)
  let held := ends.findSome? fun e =>
    match e.2 with
    | .held pa => some pa
    | _ => none
  match held with
  | some pa => s.homeTouch (.core core) pa false
  | none =>
    let s := ends.foldl (fun (s : State) e =>
      match e.2 with
      | .go pa _ => s.partTouch core r e.1.2.1 pa false
      | _ => s.engineLearn core r.asid e.1.2.1) s
    s.unitOut core slot r u

/-- The units of box bytes [lo, hi) of a copy that can land do, and the copy is complete after the last (R342). -/
def State.landCopy (s : State) (core slot lo hi : Nat) : State :=
  match (s.core core).copies.look slot with
  | none => s
  | some r =>
    let us := r.left.filter fun u => lo ≤ 16 * u && 16 * u < hi
    let s := us.foldl (fun (s : State) u =>
      match (s.core core).copies.look slot with
      | none => s
      | some q =>
        if q.serial ≠ r.serial ∨ !q.left.contains u then s
        else
          match q.kind with
          | .store => s.landOut core slot q u
          | .prefetch => s.warmUnit core slot q u
          | _ => s.landIn core slot q u) s
    match (s.core core).copies.look slot with
    | some q => if q.serial = r.serial ∧ q.left.isEmpty then s.copyDone core slot else s
    | none => s

/-- Bytes of a copy land (R342). -/
def execCopyLanding (core slot lo hi : Nat) (s : State) : Result := .next (s.landCopy core slot lo hi)

/-! ### Batches (R351 to R353) -/

/-- ⌈λ / τ⌉ (R353): none stands for infinite. -/
def ratioUp (l t : Rat) : Option Int := if t = 0 then if l = 0 then some 0 else none else some (l / t).ceil

/-- $cdepth at a quiet seal (R353). -/
def stageDepth (l : Launch) (t : Team) : Nat :=
  match t.lambda, t.tau with
  | some lam, some tau =>
    match ratioUp lam tau with
    | none => l.dmax + 1
    | some r => (min (max (r + 1) (l.dmin + 1)) (l.dmax + 1)).toNat
  | _, _ => t.cdepth

/-- A quiet seal updates τ and $cdepth (R353). -/
def State.quietSeal (s : State) (cx : Cx) : State :=
  let quiet := (s.teamGroups cx.uid).all fun p => p.2.copySet.isEmpty
  if !quiet then s
  else
    s.modTeam cx.uid fun t =>
      let t := { t with
        tau := match t.lastQuiet with
          | some was => estimate t.tau ((s.time.toNat - was : Nat) : Rat)
          | none => t.tau
        lastQuiet := some s.time.toNat }
      { t with cdepth := stageDepth cx.kern.launch t }

/-- Seal the open set (R351). -/
def Group.seal (g : Group) (unfinished : List Nat) : Group :=
  if g.copyBatches.length < 16 then
    { g with
      copySet := []
      copyBatch := g.copyBatch + 1
      copyBatches := if unfinished.isEmpty then g.copyBatches else g.copyBatches ++ [{ open_ := unfinished }] }
  else
    { g with
      copySet := []
      copyBatches := g.copyBatches.dropLast ++ [{ open_ := (g.copyBatches.getLastD { open_ := [] }).open_ ++ unfinished }] }

/-- Seal the group's open copy set into a batch (R351, R353). -/
def execCpySeal : State → Result :=
  groupOp 24 {} fun cx s =>
    let running := (s.core cx.core).copies.map fun r => r.2.serial
    (s.modGroup cx.gid fun g => g.seal (g.copySet.filter fun n => running.contains n)).quietSeal cx

/-- Wait until at most n batches are unfinished (R352). -/
def execCpyWaitn (n : BitVec 4) : State → Result :=
  gate { ends := true } fun cx s =>
    if cx.grp.copyBatches.length ≤ n.toNat then .next ((s.retireG cx 24).acquire cx.core cx.quad 2)
    else .next ((s.waitOn cx (.copies n.toNat)).charge cx.core (s.weight cx.core 24))

end Sys2Proof.Machine
end

