-- ==== Sys2Proof/Machine/Matrix.lean ====
section
/-! DEFINITION. The matrix engine: its reservation, operations and batches (R48 to R50, R358 to R382). -/

namespace Sys2Proof.Machine

/-! ### Tiles (R360, R361, R374) -/

/-- A word of a team's tiles. -/
def Team.accWord (t : Team) (e : Nat) : Word := t.acc.lookD e 0

/-- Write an element with or without poison. -/
def Team.accWrite (t : Team) (e : Nat) (x : Word) (bad : Bool) : Team :=
  let rest := t.accPoison.filter fun p => p != e
  { t with acc := if x = 0 then t.acc.del e else t.acc.put e x, accPoison := if bad then e :: rest else rest }

/-- The element that an element address word names, for a team with `acc` tiles (R361). -/
def elementOf (acc : Nat) (w : Word) : Option Nat :=
  let n := w.toNat
  if 2 ^ 21 ≤ n ∨ acc ≤ n / 2 ^ 12 then none else some n

/-! ### Formats and shapes (R41, R362) -/

/-- Element bits of an FMT code (R41). -/
def fmtBits (f : Nat) : Nat :=
  match f with
  | 0 => 16
  | 1 => 16
  | 4 => 6
  | 5 => 4
  | 9 => 64
  | _ => 8

/-- Chunk size of an FMT code (R41); an FP64 MMA has four chunks of one product. -/
def fmtChunk (f : Nat) : Nat :=
  match f with
  | 0 => 32
  | 1 => 32
  | 4 => 128
  | 5 => 128
  | 6 => 128
  | 9 => 4
  | _ => 64

/-- The accumulator of a pair of formats (R362). -/
inductive AccKind where
  | fp32 | int32 | fp64
  deriving DecidableEq, Repr

/-- The format code of a slot. -/
def slotFmt (w : Word) : Nat := w.toNat % 16

/-- A block format (R41). -/
def isBlock (f : Nat) : Bool := 2 ≤ f && f ≤ 6

/-- The accumulator that two formats give, if they form a pair of R362. -/
def accKind (fa fb : Nat) : Option AccKind :=
  if fa ≤ 6 ∧ fb ≤ 6 then some .fp32
  else if (fa = 7 ∨ fa = 8) ∧ (fb = 7 ∨ fb = 8) then some .int32
  else if fa = 9 ∧ fb = 9 then some .fp64
  else none

/-- A slot that an MMA accepts (R42, R362): valid, and for a block format AXIS 0 and SLR below LTCOUNT. -/
def mmaSlotOk (l : Launch) (w : Word) : Bool :=
  slotValid w && (!isBlock (slotFmt w) || (w.toNat / 16 % 4 == 0 && decide (w.toNat / 256 % 256 < l.ltcount)))

/-- K of two formats (R362). -/
def mmaK (fa fb : Nat) : Nat := min (fmtChunk fa) (fmtChunk fb)

/-- RB: bytes of a row of A (R362). -/
def rowBytes (fa fb : Nat) : Nat := mmaK fa fb * fmtBits fa / 8

/-- QB: bytes of a quarter of B (R362). -/
def quarterBytes (fa fb : Nat) : Nat := mmaK fa fb * 16 * fmtBits fb / 8

/-! ### Sums (R48 to R50) -/

/-- Element k of packed bytes (R36). -/
def packedElem (bits : Nat) (bs : List Byte) (k : Nat) : Nat := Memory.toNat bs / 2 ^ (k * bits) % 2 ^ bits

/-- The value of an operand element: its code, its slot, and its scale record (R37, R365). -/
def operandValue (slot : Word) (code E U i : Nat) : Num :=
  match Narrow.ofCode (slotFmt slot) with
  | some n => n.value (slot.getLsbD 6) E U code i
  | none =>
    match slotFmt slot with
    | 0 => bf16.unpack code
    | 1 => fp16.unpack code
    | _ => fp64.unpack code

/-- floor(p / 2^q) of a finite product, and whether p is a multiple of 2^q. -/
def floorAt (neg : Bool) (m : Nat) (e q : Int) : Int × Bool :=
  if q ≤ e then (scaled neg m e q, true)
  else
    let d : Nat := 2 ^ (q - e).toNat
    let v : Int := if neg then -(m : Int) else m
    (v / d, m % d == 0)

/-- The chunk of R49: an FP32 value from the exact products. -/
def chunkSum (ps : List Num) : Nat :=
  if ps.any Num.isNan then fp32.nanBits
  else
    let infs := ps.filter fun p =>
      match p with
      | .inf _ => true
      | _ => false
    match infs with
    | i :: rest => if rest.all fun j => j == i then (fp32.pack i).1 else fp32.nanBits
    | [] =>
      let tops := ps.filterMap fun p =>
        match p with
        | .fin _ m e => if m = 0 then none else some (topOf m e)
        | _ => none
      match tops with
      | [] => 0
      | t :: ts =>
        let q := ts.foldl max t - 41
        let fs := ps.map fun p =>
          match p with
          | .fin n m e => floorAt n m e q
          | _ => (0, true)
        let sum := (fs.map Prod.fst).sum
        let st : Int := if fs.all Prod.snd then 0 else 1
        let x := 4 * sum + st
        if x = 0 then 0 else (fp32.round (decide (x < 0)) x.natAbs (q - 2)).1

/-- FP32 accumulation of one chunk (R49). -/
def accumulate32 (c : Word) (ps : List Num) : Word := BitVec.ofNat 32 (fp32.add c.toNat (chunkSum ps)).1

/-- An 8-bit integer operand: S8 or U8 (R50). -/
def intOperand (f code : Nat) : Int := if f = 7 then (BitVec.ofNat 8 code).toInt else (code % 256 : Nat)

/-- INT32 accumulation (R50). -/
def accumulateInt (c : Word) (ps : List Int) : Word := c + BitVec.ofInt 32 ps.sum

/-- FP64 accumulation, one product after the other (R50). -/
def accumulate64 (c : Nat) (ps : List (Nat × Nat)) : Nat := ps.foldl (fun c p => (fp64.fma false false p.1 p.2 c).1) c

/-- One element of an MMA: its products' operands as codes with their records, in ascending k (R378). The accumulator is the
element's bits. -/
def mmaElement (slotA slotB : Word) (c : Nat) (ab : List ((Nat × Nat × Nat × Nat) × (Nat × Nat × Nat × Nat))) : Nat :=
  let val := fun (slot : Word) (x : Nat × Nat × Nat × Nat) => operandValue slot x.1 x.2.1 x.2.2.1 x.2.2.2
  match accKind (slotFmt slotA) (slotFmt slotB) with
  | some .fp32 => (accumulate32 (BitVec.ofNat 32 c) (ab.map fun p => ((val slotA p.1).mul (val slotB p.2)).1)).toNat
  | some .int32 =>
    (accumulateInt (BitVec.ofNat 32 c)
      (ab.map fun p => intOperand (slotFmt slotA) p.1.1 * intOperand (slotFmt slotB) p.2.1)).toNat
  | some .fp64 => accumulate64 c (ab.map fun p => (p.1.1, p.2.1))
  | none => c

/-! ### The engine's operations (R368, R374, R378, R381, R382) -/

/-- The 2-byte scale record at a byte of the scale store, as E and U, and its poison (R38, R365). -/
def CoreSt.scaleRecord (c : CoreSt) (at_ : Nat) : Nat × Nat × Bool :=
  ((Memory.byte c.scale at_).toNat, (Memory.byte c.scale (at_ + 1)).toNat, c.scalePoison.contains (at_ / 2))

/-- What an MMA writes: every element with its new bits and poison (R374, R378). -/
def mmaResults (c : CoreSt) (t : Team) (slotA slotB : Word) (addr scaleA scaleB tile : Nat) (quarters : List (List Byte))
    (bad : List (List Bool)) : List (Nat × Nat × Bool) :=
  let fa := slotFmt slotA
  let fb := slotFmt slotB
  let K := mmaK fa fb
  let rb := rowBytes fa fb
  let colBytes := quarterBytes fa fb / 16
  let record := fun (block : Bool) (base line k : Nat) =>
    if block then c.scaleRecord (base + 2 * (line * K / 16 + k / 16)) else (0, 0, false)
  let rows := (List.range 64).map fun m =>
    let bs := t.scratchBytes (addr + m * rb) rb
    let xs := (List.range K).map fun k =>
      let r := record (isBlock fa) scaleA m k
      ((packedElem (fmtBits fa) bs k, r.1, r.2.1, k % 16), r.2.2)
    (xs.map Prod.fst, t.scratchPoisoned (addr + m * rb) rb || xs.any Prod.snd)
  let cols := (List.range 64).map fun n =>
    let q := quarters.getD (n / 16) []
    let bs := (q.drop (n % 16 * colBytes)).take colBytes
    let regs := (List.range colBytes).map fun i => (n % 16 * colBytes + i) / 128
    let xs := (List.range K).map fun k =>
      let r := record (isBlock fb) scaleB n k
      ((packedElem (fmtBits fb) bs k, r.1, r.2.1, k % 16), r.2.2)
    (xs.map Prod.fst, regs.any (fun i => (bad.getD (n / 16) []).getD i false) || xs.any Prod.snd)
  (List.range 64).flatMap fun m => (List.range 64).map fun n =>
    let row := rows.getD m ([], false)
    let col := cols.getD n ([], false)
    let e := tile * 4096 + 64 * m + n
    let wide := fa == 9
    let old := (t.accWord e).toNat + if wide then (t.accWord (e + 4096)).toNat * 2 ^ 32 else 0
    let was := t.accPoison.contains e || (wide && t.accPoison.contains (e + 4096))
    (e, mmaElement slotA slotB old (row.1.zip col.1), row.2 || col.2 || was)

/-- The value that MDRAIN delivers from an element's word (R381): raw, or through a slot. -/
def drainValue (slot : Option Word) (w : Word) : Word :=
  match slot with
  | none => w
  | some f =>
    match slotFmt f with
    | 0 => BitVec.ofNat 32 (fp32.convert bf16 w.toNat).1
    | 1 => BitVec.ofNat 32 (fp32.convert fp16 w.toNat).1
    | 7 => (BitVec.ofInt 8 (max (-128) (min 127 w.toInt))).zeroExtend 32
    | _ => BitVec.ofInt 32 (max 0 (min 255 w.toInt))

/-- The effect of one matrix operation of a core (R368). -/
def State.matrixEffect (s : State) (core : Nat) (e : MatrixEntry) : State :=
  match s.teams.look e.team with
  | none => s
  | some t =>
    match e.op with
    | .zero tile =>
      s.modTeam e.team fun t =>
        { t with
          acc := t.acc.filter fun p => p.1 / 4096 != tile
          accPoison := t.accPoison.filter fun p => p / 4096 != tile }
    | .mma a b addr sa sb tile qs bad =>
      let rs := mmaResults (s.core core) t a b addr sa sb tile qs bad
      let wide := slotFmt a == 9
      s.modTeam e.team fun t => rs.foldl (fun t r =>
        let t := t.accWrite r.1 (BitVec.ofNat 32 r.2.1) r.2.2
        if wide then t.accWrite (r.1 + 4096) (BitVec.ofNat 32 (r.2.1 / 2 ^ 32)) r.2.2 else t) t
    | .fill xs => s.modTeam e.team fun t => xs.foldl (fun t x => t.accWrite x.1 x.2 false) t
    | .drain gid tag d landing slot elems =>
      match s.groups.look gid with
      | none => s
      | some g =>
        let bad := elems.any fun x => t.accPoison.contains x.2
        let s := s.modGroup gid fun g =>
          let keep := g.vPoison.getLsbD d
          let v := elems.foldl (fun v x => Bits.wr v x.1 (drainValue slot (t.accWord x.2))) (g.vreg d)
          let g := g.setV d v
          if bad || (keep && elems.length < 32) then { g with vPoison := g.vPoison ||| BitVec.twoPow 64 d } else g
        let s := s.finishLanding (4 * core + g.index % 4) gid d landing
        s.modTag gid tag fun sp =>
          let rest := sp.parkOn.filter fun x => x != drainTag e.serial
          { sp with
            windows := sp.windows.filter fun w => w.tag != drainTag e.serial
            parkOn := rest
            state := if sp.state == .parked && rest.isEmpty && sp.pendingTrap.isNone then .ready else sp.state }

/-- An operation leaves the queue: its batch loses it, waits of MWAIT are evaluated again (R371, R372), splits that stall for
room look again by themselves, and a releasing engine with nothing left is free (R358). -/
def State.matrixLeave (s : State) (core : Nat) (e : MatrixEntry) : State :=
  let s := s.modCore core fun c => { c with matrixQ := c.matrixQ.filter fun x => x.serial != e.serial }
  let s := s.modGroup e.group fun g =>
    let batches := g.matBatches.map fun b => ({ b with open_ := b.open_.filter fun n => n != e.serial } : Batch)
    { g with matBatches := batches.filter fun b => !b.open_.isEmpty }
  let s := s.releaseWhere (fun gid w _ =>
    gid == e.group && match w, s.groups.look gid with
      | .matrix n, some g => g.matBatches.length ≤ n
      | _, _ => false) 2
  match (s.core core).hold with
  | .releasing _ => if (s.core core).matrixQ.isEmpty then s.modCore core fun c => { c with hold := .free } else s
  | _ => s

/-- The oldest operation of a core's engine queue completes (R368, R370). -/
def execMatrixOpComplete (core : Nat) (s : State) : Result :=
  match (s.core core).matrixQ with
  | [] => .next s
  | e :: rest =>
    .next (((s.modCore core fun c => { c with matrixQ := rest }).matrixEffect core e).matrixLeave core e)

/-! ### The reservation (R358, R359, R376) -/

/-- The issuing team holds the engine (R359). -/
def State.matrixHeld (s : State) (cx : Cx) : Bool := (s.core cx.core).hold == .held cx.uid

/-- A team claims the engine: the scale store reads as zero and every mark is clear (R358). -/
def CoreSt.claim (c : CoreSt) (uid : Nat) : CoreSt :=
  { c with hold := .held uid, marks := [], scale := [], scalePoison := [] }

/-- Claim the matrix engine (R358, R376). -/
def execMres (k : BitVec 3) : State → Result :=
  groupOp 25 {} fun cx s =>
    let write := fun (s : State) (x : Word) => s.modGroup cx.gid fun g => g.setM k.toNat x
    match (s.core cx.core).hold with
    | .free => write (s.modCore cx.core fun c => c.claim cx.uid) (BitVec.allOnes 32)
    | .held t => write s (if t = cx.uid then BitVec.allOnes 32 else 0)
    | .releasing _ => write s 0

/-- A matrix instruction that only the holder may issue. -/
def matrixOp (u : Uses) (f : Cx → State → State) : State → Result :=
  gate u fun cx s => .next (if s.matrixHeld cx then f cx s else s.trapAll cx .matrixNotHeld)

/-- Give the matrix engine up (R358, R376). -/
def execMrel : State → Result :=
  matrixOp {} fun cx s =>
    (s.modCore cx.core fun c => { c with marks := [], hold := if c.matrixQ.isEmpty then .free else .releasing cx.uid }).retireG cx 25

/-! ### Instructions that enter the queue -/

/-- The engine queue is full (R370). -/
def State.matrixFull (s : State) (cx : Cx) : Bool := 64 ≤ (s.core cx.core).matrixQ.length

/-- Enter an operation; one that is not a drain joins the group's open set (R371). -/
def State.enterMatrix (s : State) (cx : Cx) (op : MatrixOp) : State :=
  let n := s.uid
  let s := { s with uid := n + 1 }
  let s := s.modCore cx.core fun c => { c with matrixQ := c.matrixQ ++ [{ serial := n, group := cx.gid, team := cx.uid, op := op }] }
  if op.drainOf.isSome then s else s.modGroup cx.gid fun g => { g with matSet := g.matSet ++ [n] }

/-- Clear a tile (R377). -/
def execMzero (a : BitVec 6) : State → Result :=
  matrixOp { gr := [a.toNat], memory := true } fun cx s =>
    let tile := (cx.grp.greg a.toNat).toNat
    if 512 ≤ tile ∨ cx.kern.launch.acc ≤ tile then s.trapAll cx .perm (cx.grp.greg a.toNat)
    else if s.matrixFull cx then s
    else (s.enterMatrix cx (.zero tile)).retireG cx 25

/-- Seal the open matrix set (R371). -/
def Group.sealMatrix (g : Group) (unfinished : List Nat) : Group :=
  if g.matBatches.length < 16 then
    { g with matSet := [], matBatches := if unfinished.isEmpty then g.matBatches else g.matBatches ++ [{ open_ := unfinished }] }
  else
    { g with
      matSet := []
      matBatches := g.matBatches.dropLast ++ [{ open_ := (g.matBatches.getLastD { open_ := [] }).open_ ++ unfinished }] }

/-- Seal the group's open set into a batch (R379). -/
def execMfence : State → Result :=
  groupOp 25 {} fun cx s =>
    let running := (s.core cx.core).matrixQ.map MatrixEntry.serial
    s.modGroup cx.gid fun g => g.sealMatrix (g.matSet.filter fun n => running.contains n)

/-- Wait until at most n batches are unfinished (R372, R379). -/
def execMwait (n : BitVec 4) : State → Result :=
  gate { ends := true } fun cx s =>
    if cx.grp.matBatches.length ≤ n.toNat then .next ((s.retireG cx 25).acquire cx.core cx.quad 2)
    else .next ((s.waitOn cx (.matrix n.toNat)).charge cx.core (s.weight cx.core 25))

/-- Set the B mark of the group's quadrant (R366, R380). -/
def execMbq (a : BitVec 6) : State → Result :=
  matrixOp { vr := [] , vw := regRun a.toNat 8 } fun cx s =>
    (s.modCore cx.core fun c => { c with marks := c.marks.put (cx.grp.index % 4) (cx.gid, a.toNat) }).retire cx
      (chargeOf (s.weight cx.core 14) 14 (Bits.popcount cx.sp.mask) (cx.grp.narrowSources (regRun a.toNat 8)))

/-- Check 3 of R378 on G[b] (R369): the tile. -/
def mmaTile (l : Launch) (kind : AccKind) (x : DWord) : Option Nat :=
  let t := x.toNat
  if 512 ≤ t ∨ l.acc ≤ t ∨ (kind = .fp64 ∧ (t % 2 = 1 ∨ l.acc ≤ t + 1)) then none else some t

/-- Check 4 of R378 on G[a] (R369): the offset of A, and the byte offsets of the scale records. -/
def mmaAddress (cx : Cx) (fa fb : Nat) (x : DWord) : Option (Nat × Nat × Nat) :=
  let n := x.toNat
  let addr := n % 2 ^ 32
  let sa := n / 2 ^ 32 % 2 ^ 15
  let sb := n / 2 ^ 48 % 2 ^ 15
  let K := mmaK fa fb
  let scaleOk := fun (f v : Nat) => if isBlock f then decide (16 * v + 64 * K / 8 ≤ 524288) else v == 0
  let win := addr / 2 ^ 20
  let off := addr % 2 ^ 20
  let slot := cx.team.linear % cx.kern.launch.bandSize
  if x.getLsbD 63 || x.getLsbD 47 || !scaleOk fa sa || !scaleOk fb sb || !(win == 0 || win == slot + 1) || off % 128 != 0
      || decide (cx.kern.launch.scratch < off + 64 * rowBytes fa fb) then none
  else some (off, 16 * sa, 16 * sb)

/-- The four marks of a core as (group, register), if every one is set. -/
def CoreSt.fourMarks (c : CoreSt) : Option (List (Nat × Nat)) := [0, 1, 2, 3].mapM fun q => c.marks.look q

/-- Registers of a quarter (R364). -/
def quarterRegs (qb : Nat) : Nat := if 1024 < qb then 16 else 8

/-- The bytes of a quarter, and the poison of its registers (R364). -/
def Group.quarter (g : Group) (va qb : Nat) : List Byte × List Bool :=
  let rs := regRun va (quarterRegs qb)
  ((rs.flatMap fun r => Bits.laneBytes (g.vreg r)).take qb, rs.map fun r => g.vPoison.getLsbD r)

/-- Claim the four B marks: read the quarters, clear the marks (R366). -/
def State.claimB (s : State) (core : Nat) (marks : List (Nat × Nat)) (qb : Nat) : ClaimedB :=
  let qs := marks.map fun mk =>
    match s.groups.look mk.1 with
    | some g => g.quarter mk.2 qb
    | none => ([], [])
  { marks := (s.core core).marks, quarters := qs.map Prod.fst, poison := qs.map Prod.snd }

/-- An MMA that has claimed its marks: it waits for its release or drain, raises the trap of a posted store that failed, giving the marks
that no MBQ has set since back, or enters the queue (R76, R378). -/
def State.mmaEnter (s : State) (cx : Cx) (o : BitVec 4) (c : ClaimedB) (op : MatrixOp) : State :=
  let s := s.modCore cx.core fun x => { x with marks := if cx.sp.claimed.isSome then x.marks else [] }
  if s.engineWaits cx (orderScope o) then
    (s.modTag cx.gid cx.sp.tag fun sp => { sp with claimed := some c }).parkStores cx (s.engineTags cx (orderScope o))
  else
    let s := s.modTag cx.gid cx.sp.tag fun sp => { sp with claimed := none }
    match cx.postedTrap ((orderScope o).getD 0) with
    | some t =>
      let back := fun (m : Map (Nat × Nat)) => c.marks.foldl (fun (m : Map (Nat × Nat)) x => if (m.look x.1).isSome then m else m.put x.1 x.2) m
      ((s.modCore cx.core fun x => { x with marks := back x.marks }).modGroup cx.gid fun g => { g with postedFault := none }).raiseTrap cx t
    | none => ((s.enterMatrix cx op).retireG cx 25).modTag cx.gid cx.sp.tag fun sp => { sp with drainArmed := false }

/-- Multiply and accumulate a tile (R362 to R369, R378). -/
def execMma (x y : BitVec 3) (a b : BitVec 6) (o : BitVec 4) : State → Result :=
  matrixOp { gr := [a.toNat, b.toNat], memory := true } fun cx s =>
    let l := cx.kern.launch
    let sa := cx.slotWord x.toNat
    let sb := cx.slotWord y.toNat
    let fa := slotFmt sa
    let fb := slotFmt sb
    let qb := quarterBytes fa fb
    match if mmaSlotOk l sa && mmaSlotOk l sb then accKind fa fb else none with
    | none => s.trapAll cx .formatSlot
    | some kind =>
      match mmaTile l kind (cx.grp.greg b.toNat), mmaAddress cx fa fb (cx.grp.greg a.toNat) with
      | none, _ => s.trapAll cx .perm (cx.grp.greg b.toNat)
      | _, none => s.trapAll cx .perm (cx.grp.greg a.toNat)
      | some tile, some (off, offA, offB) =>
        let op := fun (c : ClaimedB) => MatrixOp.mma sa sb off offA offB tile c.quarters c.poison
        match cx.sp.claimed with
        | some c => if s.matrixFull cx then s else s.mmaEnter cx o c (op c)
        | none =>
          match (s.core cx.core).fourMarks with
          | none => s
          | some marks =>
            let pend := marks.any fun mk =>
              overlap (regRun mk.2 (quarterRegs qb)) (s.pending cx.core mk.1 fun _ => true).1
            if pend || s.matrixFull cx then s
            else if 1024 < qb ∧ marks.any (fun mk => l.vregs ≤ mk.2 + 15) then s.trapAll cx .formatSlot
            else
              let c := s.claimB cx.core marks qb
              s.mmaEnter cx o c (op c)

/-- The elements that a lane instruction names, lane by lane; the first lane whose word breaks R361. -/
def laneElements (cx : Cx) (a : Nat) : (List (Nat × Nat)) ⊕ Word :=
  let ls := (Bits.lanes cx.sp.mask).map fun l => (l, elementOf cx.kern.launch.acc (cx.grp.vlane a l))
  match ls.find? fun p => p.2.isNone with
  | some p => .inr (cx.grp.vlane a p.1)
  | none => .inl (ls.filterMap fun p => p.2.map fun e => (p.1, e))

/-- The PERM trap of an element address word (R381): the lanes with a bad word. -/
def State.elementTrap (s : State) (cx : Cx) (a : Nat) (w : Word) : State :=
  s.raiseTrap cx
    { cause := .perm, addr := w.zeroExtend 64
      lanes := Bits.maskOf ((Bits.lanes cx.sp.mask).filter fun l => (elementOf cx.kern.launch.acc (cx.grp.vlane a l)).isNone) }

/-- MDRAIN through a slot or raw (R381). -/
def drainOp (la : BitVec 4) (d a : BitVec 6) (slot : Option (BitVec 3)) : State → Result :=
  gate { vr := [a.toNat], vw := [d.toNat], memory := true } fun cx s =>
    let w := slot.map fun k => cx.slotWord k.toNat
    let accepted := match w with
      | none => true
      | some x => slotValid x && [0, 1, 7, 8].contains (slotFmt x)
    if !s.matrixHeld cx then .next (s.trapAll cx .matrixNotHeld)
    else if !accepted then .next (s.trapAll cx .formatSlot)
    else
      match laneElements cx a.toNat with
      | .inr bad => .next (s.elementTrap cx a.toNat bad)
      | .inl elems =>
        if la ≠ 0 ∧ 4 ≤ cx.sp.windows.length then .next (s.park cx.gid cx.sp.tag ((cx.sp.windows.take 1).map Window.tag))
        else if s.matrixFull cx then .next s
        else
          let serial := s.uid
          let p := s.takeLandings cx.quad cx.gid (.vec d.toNat 1)
          let s := p.1.enterMatrix cx (.drain cx.gid cx.sp.tag d.toNat (p.2.headD 2048) w elems)
          let s := s.retire cx (chargeOf (s.weight cx.core 14) 14 (Bits.popcount cx.sp.mask) (cx.grp.narrowSources [a.toNat]))
          .next (s.modTag cx.gid cx.sp.tag fun sp => sp.openWindow (drainTag serial) la.toNat false)

/-- Read accumulator elements through a slot (R381). -/
def execMdrain (l : BitVec 4) (d a : BitVec 6) (f : BitVec 3) : State → Result := drainOp l d a (some f)

/-- Read accumulator elements unchanged (R381). -/
def execMdrainRaw (l : BitVec 4) (d a : BitVec 6) (_f : BitVec 3) : State → Result := drainOp l d a none

/-- Write accumulator elements (R382). -/
def execMfill (v a : BitVec 6) : State → Result :=
  matrixOp { vr := [v.toNat, a.toNat], memory := true } fun cx s =>
    match laneElements cx a.toNat with
    | .inr bad => s.elementTrap cx a.toNat bad
    | .inl elems =>
      if s.matrixFull cx then s
      else (s.enterMatrix cx (.fill (elems.map fun e => (e.2, cx.grp.vlane v.toNat e.1)))).retire cx
        (chargeOf (s.weight cx.core 14) 14 (Bits.popcount cx.sp.mask) (cx.grp.narrowSources [v.toNat, a.toNat]))

end Sys2Proof.Machine
end

