-- ==== Sys2Proof/Machine/MemEvents.lean ====
section
/-! DEFINITION. What happens to memory accesses after issue: replies, the store queue, acknowledgements, replays
(R215 to R221, R240, R249, R301, R415, R459). An event whose condition does not hold changes nothing (DEDUCED, log entry 12). -/

namespace Sys2Proof.Machine

/-- A split's wait for a tag ends: its window closes, and with nothing left to wait for a PARKED split becomes READY, unless a
trap awaits delivery (R205, R216, R222). -/
def Split.tagDone (sp : Split) (tag : Nat) : Split :=
  let rest := sp.parkOn.filter fun t => t != tag
  { sp with
    windows := sp.windows.filter fun w => w.tag != tag
    parkOn := rest
    state := if sp.state == .parked && rest.isEmpty && sp.pendingTrap.isNone then .ready else sp.state }

/-- What a PARKED split of a group awaits of stores, by its tag, has come (R68, R74, R76, R324). -/
def State.storesCame (s : State) (core gid : Nat) (sp : Split) (tag : Nat) : Bool :=
  if tag = storeTag then
    match sp.drainTo with
    | some n => (s.core core).inflight.all fun x => decide (n ≤ x.serial)
    | none => s.storesLeft gid && (s.core core).inflight.isEmpty
  else if tag = leftTag then s.storesLeft gid
  else s.peerStoresAcked gid

/-- A PARKED split looks at the stores it awaits: once its group's queue has drained, the stores that L1 has taken by then are the ones
awaited; a tag whose stores have come is done. -/
def State.lookAgain (s : State) (core gid : Nat) (sp : Split) : Split :=
  let sp := if sp.parkOn.contains storeTag && sp.drainTo.isNone && s.storesLeft gid then
      { sp with drainTo := some (s.core core).taken } else sp
  [storeTag, leftTag, postTag].foldl (fun (y : Split) t => if y.parkOn.contains t && s.storesCame core gid y t then y.tagDone t else y) sp

/-- Splits of a core that park for stores look again (R74, R76, R324). -/
def State.wakeStores (s : State) (core : Nat) : State :=
  { s with
    groups := s.groups.map fun p =>
      match s.teams.look p.2.team with
      | some t =>
        if t.core == core && t.placed then
          (p.1, { p.2 with
            res := p.2.res.map fun q => (q.1, s.lookAgain core p.1 q.2)
            stack := p.2.stack.map (s.lookAgain core p.1) })
        else p
      | none => p }

/-- Write one lane's reply into the destination (R219, R299); a soft error poisons it (R316). -/
def Group.deliverLane (g : Group) (d : Dest) (r : LaneReq) : Group :=
  match d with
  | .grp x =>
    let g := g.setG x (BitVec.ofNat 64 r.val)
    if r.bad then { g with gPoison := g.gPoison ||| BitVec.twoPow 64 x } else g
  | .vec d n =>
    -- the register keeps its poison until every lane has come
    (List.range n).foldl (fun g k =>
      let bad := r.bad || g.vPoison.getLsbD (d + k)
      let g := g.setV (d + k) (Bits.wr (g.vreg (d + k)) r.lane (BitVec.ofNat 32 (r.val / 2 ^ (32 * k))))
      if bad then { g with vPoison := g.vPoison ||| BitVec.twoPow 64 (d + k) } else g) g
  | .none => g

/-- The cause of an access's failed peer lanes: that of the lowest, every failed lane, the lowest one's address and device
(R459). -/
def State.peerTrap (s : State) (e : SluiceEntry) (mask : Word) : Option Trap :=
  match e.reqs.filter fun r => r.err.isSome with
  | [] => none
  | r :: rest =>
    let device := match s.paKind r.pa with
      | .peer d => d
      | _ => 0
    some
      { cause := if r.err == some true then .peerTimeout else .peerFault
        lanes := match e.access.dest with
          | .grp _ => mask
          | _ => Bits.maskOf ((r :: rest).map LaneReq.lane)
        addr := r.va, aux := BitVec.ofNat 64 device }

/-- Raise a trap at an instruction that the split has issued: its pc goes back to the instruction, and the no-reuse mark that it has
consumed comes back, since a trap does not consume it (R101). -/
def State.raiseBack (s : State) (gid tag : Nat) (pc : DWord) (nr : Bool) (t : Trap) : State :=
  let s := s.modTag gid tag fun sp => { sp with pc := pc, nr := nr || sp.nr }
  match s.cxByTag gid tag with
  | some cx => s.raiseTrap cx t
  | none => s

/-- Every page that an access's lanes touched has class READ-ONLY and is not under reclassification (R251). -/
def State.allReadOnly (s : State) (rs : List LaneReq) : Bool :=
  rs.all fun r =>
    match s.paKind r.pa, s.classRec r.pa with
    | .device, some c => c.cls == .readOnly && !c.held
    | _, _ => false

/-- The vector destinations of an access that brought every lane, none with an error, lose the poison of their old values (R316). -/
def Group.cleanDest (g : Group) (e : SluiceEntry) : Group :=
  match e.access.dest with
  | .vec d n =>
    if laneSet e.reqs = BitVec.allOnes 32 ∧ e.reqs.all (fun r => !r.bad && r.err.isNone) then
      (List.range n).foldl (fun g k => { g with vPoison := g.vPoison &&& ~~~ (BitVec.twoPow 64 (d + k)) }) g
    else g
  | _ => g

/-- Complete a sluice entry that owes nothing (R215, R240, R249, R300): its landing registers are named, a reuse entry is
made, an acquire takes effect, its window closes and the entry frees; a failed peer access traps (R459). -/
def State.sluiceDone (s : State) (core tag : Nat) : State :=
  match (s.core core).sluice.look tag with
  | none => s
  | some e =>
    if e.pend ≠ 0 ∨ e.fault ≠ 0 then s
    else
      match s.groups.look e.group with
      | none => s.modCore core fun c => { c with sluice := c.sluice.del tag }
      | some g =>
        let q := 4 * core + g.index % 4
        let regs := e.access.dest.regs.1
        let s := (s.modCore core fun c => { c with sluice := c.sluice.del tag }).modGroup e.group fun g => g.cleanDest e
        let s := (List.range e.landing.length).foldl
          (fun s k => s.finishLanding q e.group (regs.getD k 0) (e.landing.getD k 2048)) s
        let s := match e.reuse with
          | some key =>
            -- a value forwarded from the group's own store queue is no other group's to take (R84)
            if e.reqs.all (fun r => !r.bad && r.err.isNone && r.own.isEmpty) && s.allReadOnly e.reqs then
              s.reuseMake q
                { key := key
                  results := match s.groups.look e.group with
                    | some g => regs.map fun r => Bits.rd g.names r 2048
                    | none => []
                  flags := 0
                  pages := s.pagesOf e.reqs
                  vpages := (e.reqs.map fun (r : LaneReq) => r.va.toNat / 65536).eraseDups }
            else s
          | none => s
        let s := match e.access.acquire with
          | some sc => s.acquire core q sc
          | none => s
        let s := s.modTag e.group e.split fun sp => sp.tagDone tag
        let mask := match g.byTag e.split with
          | some sp => sp.mask
          | none => 0
        match s.peerTrap e mask with
        | some t => s.raiseBack e.group e.split e.pc e.nr t
        | none => s

/-- Deliver the replies of some lanes of a sluice entry (R215, R219). -/
def State.sluiceReply (s : State) (core tag : Nat) (lanes : Word) : State :=
  match (s.core core).sluice.look tag with
  | none => s
  | some e =>
    let rs := e.reqs.filter fun r => r.err.isNone && (lanes &&& e.pend).getLsbD r.lane
    let s := s.modGroup e.group fun g => rs.foldl (fun g r => g.deliverLane e.access.dest r) g
    let s := s.modCore core fun c =>
      { c with sluice := c.sluice.upd tag fun e => { e with pend := e.pend &&& ~~~ lanes } }
    s.sluiceDone core tag

/-- The lines of a sluice entry's lanes that write device memory at their homes. -/
def State.linesHeld (s : State) (e : SluiceEntry) : List Nat :=
  if e.access.op.isAtomic then
    (e.reqs.filterMap fun r => match s.paKind r.pa with
      | .device => some (s.redirect r.pa / 128)
      | _ => none).eraseDups
  else []

/-- Replies of a sluice entry from this device's homes and the host (R215); lanes that owe a peer's reply wait for it, and an atomic's for
the acknowledgement of the invalidations that it has caused (R398). -/
def execSluiceReply (core tag : Nat) (lanes : Word) (s : State) : Result :=
  match (s.core core).sluice.look tag with
  | none => .next s
  | some e =>
    let peers := Bits.maskOf ((e.reqs.filter LaneReq.peer).map LaneReq.lane)
    .next (if s.acksOwed core (s.linesHeld e) then s else s.sluiceReply core tag (lanes &&& ~~~ peers))

/-- A store piece reaches a team's scratchpad; poisoned data poisons it (R150, R316). -/
def State.scratchPiece (s : State) (uid : Nat) (p : Piece) : State :=
  let s := s.scratchWrite uid p.addr p.bytes
  if p.bad then s.modTeam uid fun t => t.scratchPoisonAt p.addr p.bytes.length else s

/-- The oldest store-queue entry leaves (R301): own-scratchpad bytes are performed at once, global bytes update L1 and go on to
their homes, band-window bytes to the other core, peer bytes to the bridge as a posted write (R459). -/
def State.retireStore (s : State) (gid : Nat) : State :=
  match s.groups.look gid with
  | none => s
  | some g =>
    match g.storeQ, s.teams.look g.team with
    | e :: rest, some t =>
      let isPeer := fun (p : Piece) =>
        p.kind == .global && match s.paKind p.addr with
          | .peer _ => true
          | _ => false
      let own := e.pieces.filter fun p => p.kind == .scratch g.team
      let posted := e.pieces.filter isPeer
      let out := e.pieces.filter fun p => p.kind != .scratch g.team && !isPeer p
      let s := s.modGroup gid fun g => { g with storeQ := rest }
      -- a peer's reply that is still owed is older than these bytes
      let late := fun (e : SluiceEntry) (r : LaneReq) =>
        r.peer && posted.any fun p => rangesMeet p.addr p.bytes.length r.pa e.access.op.size
      let s := if posted.isEmpty then s else s.modCore t.core fun c =>
        { c with sluice := c.sluice.map fun x =>
            (x.1, { x.2 with reqs := x.2.reqs.map fun r => if late x.2 r then { r with fills := false } else r }) }
      let s := own.foldl (fun s p => s.scratchPiece g.team p) s
      let s := s.modCore t.core fun c =>
        { c with
          l1 := e.pieces.foldl updateL1 c.l1
          inflight := if out.isEmpty then c.inflight
            else c.inflight ++ [{ group := gid, entry := { e with pieces := out }, serial := c.taken }]
          taken := c.taken + 1 }
      let devices := (posted.filterMap fun p =>
        match s.paKind p.addr with
        | .peer d => some d
        | _ => none).eraseDups
      let asid := match s.kernels.look t.kernel with
        | some k => k.asid
        | none => 0
      let s := devices.foldl (fun s d =>
        let ps := posted.filter fun p => s.paKind p.addr == .peer d
        { s with
          peerReqs := s.peerReqs.put s.uid
            { device := d, sent := s.time.toNat, core := t.core, tag := none, lanes := Bits.maskOf (ps.map Piece.lane)
              entry := some { group := gid, entry := { e with pieces := ps } }, pc := e.pc
              vaddr := match ps with
                | p :: _ => p.va
                | [] => 0
              asid := asid }
          uid := s.uid + 1 }) s
      s.wakeStores t.core
    | _, _ => s

/-- The oldest entry of a group's store queue leaves (R301). -/
def execStoreQueueRetire (gid : Nat) (s : State) : Result := .next (s.retireStore gid)

/-- The device lines that a store's bytes lie on. -/
def State.linesWritten (s : State) (e : StoreEntry) : List Nat :=
  (e.pieces.filterMap fun p =>
    match p.kind, s.paKind p.addr with
    | .global, .device => some (s.redirect p.addr / 128)
    | _, _ => none).eraseDups

/-- The ASID of a group's context, 0 for a group that is gone. -/
def State.asidOfGroup (s : State) (gid : Nat) : Nat :=
  match s.groups.look gid with
  | some g => match s.teams.look g.team with
    | some t => match s.kernels.look t.kernel with
      | some k => k.asid
      | none => 0
    | none => 0
  | none => 0

/-- The home or scratchpad performs a store, lowest lane first (R64). -/
def State.performStore (s : State) (core : Nat) (f : InFlight) : State :=
  let own := f.entry.pieces.filter fun p => p.kind == .global
  let s := s.homesTouch (coreAgent core) true (own.map Piece.addr)
  let s := s.throughPolders core (s.asidOfGroup f.group) 0 (some 0) (own.map fun p => (p.va.toNat, p.addr))
  f.entry.pieces.foldl (fun s p =>
    match p.kind with
    | .global =>
      match s.paKind p.addr with
      -- the line has moved to a peer since (R421)
      | .peer d => s.peerWrite d p.addr p.bytes p.bad
      | _ =>
        let s := s.physWrite p.addr p.bytes
        if p.bad then s.physPoison p.addr p.bytes.length else s
    | .scratch u =>
      let s := s.scratchPiece u p
      match s.teams.look u with
      | some t => s.bumpScratch t.core
      | none => s) s

/-- A core's store number x is complete. -/
def State.storeGone (s : State) (core x : Nat) : State :=
  (s.modCore core fun c => { c with inflight := c.inflight.eraseIdx x }).wakeStores core

/-- Store number x on its way from a core is performed by its home or scratchpad (R301), and acknowledged: at once, or, where the directory
sends invalidations for it, once each of them has been acknowledged (R70, R398). It waits for earlier stores of the core to the same
bytes and for reclassifications (R397). -/
def execStoreAck (core x : Nat) (s : State) : Result :=
  match (s.core core).inflight[x]? with
  | none => .next s
  | some f =>
    let lines := s.linesWritten f.entry
    if f.performed then .next (if s.acksOwed core lines then s else s.storeGone core x)
    else
      let earlier := ((s.core core).inflight.take x).filter fun g => !g.performed
      let blocked := f.entry.pieces.any fun p => earlier.any fun g =>
        g.entry.pieces.any fun r => r.kind == p.kind && rangesMeet r.addr r.bytes.length p.addr p.bytes.length
      let pas := (f.entry.pieces.filter fun p => p.kind == .global).map Piece.addr
      if blocked then .next s
      else if !s.homesReady (coreAgent core) true pas then .next (s.homesTouch (coreAgent core) true pas)
      else
        let s := s.performStore core f
        .next (if lines.any s.tracked then
            s.modCore core fun c => { c with inflight := c.inflight.modify x fun g => { g with performed := true } }
          else s.storeGone core x)

/-! ### Replay after a page fault (R221, R415) -/

/-- The lanes of a sluice entry that wait on a page. -/
def SluiceEntry.waiting (e : SluiceEntry) (page : Nat) : List LaneReq :=
  e.reqs.filter fun r => e.fault.getLsbD r.lane && r.va.toNat / 65536 == page

/-- The faulted lanes of an entry that a page's replay would issue cannot issue yet: a store finds its group's queue full, an atomic finds
it not empty, a lane's home or an earlier access to its bytes is awaited (R206, R221, R301, R309). -/
def State.replayHeld (s : State) (core tag page : Nat) : Bool :=
  match (s.core core).sluice.look tag with
  | none => false
  | some e =>
    match s.cxByTag e.group e.split with
    | none => false
    | some cx =>
      let ok := okReqs ((e.waiting page).map fun r =>
        (r, s.checkGlobal core cx.asid e.firmware r.va.toNat e.access.op.size e.access.op.size e.access.op.kind))
      (e.access.op.isStore && decide (32 ≤ cx.grp.storeQ.length) && !ok.isEmpty)
      || (e.access.op.isAtomic && !cx.grp.storeQ.isEmpty) || s.lanesWait core e.group e.access ok

/-- Replay the fault-mask lanes of one page of an entry (R221): lanes that translate perform, lanes that fault PAGE again make
a new request, any other cause is raised at the instruction. When none remains the split goes on. -/
def State.replayEntry (s : State) (core tag page : Nat) : State :=
  match (s.core core).sluice.look tag with
  | none => s
  | some e =>
    match s.cxByTag e.group e.split with
    | none => s
    | some cx =>
      let rs := e.waiting page
      let ts := rs.map fun r =>
        (r, s.checkGlobal core cx.asid e.firmware r.va.toNat e.access.op.size e.access.op.size e.access.op.kind)
      let whole := match e.access.dest with
        | .grp _ => some cx.sp.mask
        | _ => none
      let s := s.learnReqs cx e.firmware e.access.op.size e.access.op.size rs
      match checkTrap whole ts with
      | some t =>
        let s := s.modCore core fun c => { c with sluice := c.sluice.upd tag fun e => { e with fault := 0 } }
        (s.sluiceDone core tag).raiseBack e.group e.split e.pc e.nr t
      | none =>
        let ok := okReqs ts
        let pg := pageReqsOf ts
        let s := s.killWritten core e.access.op ok
        let s := if e.access.op.isStore && ok ≠ [] then
            s.enqueueStore e.group { pieces := storePieces e.access.op.size ok, pc := e.pc } else s
        let s := s.lanesThrough core cx.asid e.access ok
        let p := if e.access.op.isStore then (s, ok) else s.performLanes core e.group e.access ok
        let s := p.1
        let e' : SluiceEntry :=
          { e with
            pend := if e.access.op.isStore then e.pend else e.pend ||| laneSet ok
            fault := e.fault &&& ~~~ laneSet ok
            reqs := (e.reqs.filter fun r => !(laneSet ok).getLsbD r.lane) ++ p.2 }
        let s := s.modCore core fun c => { c with sluice := c.sluice.put tag e' }
        let s := s.sendPeers core tag e.pc cx.asid p.2
        let s := pg.foldl (fun s r => s.pageRequest cx.asid r.va.toNat e.access.op.kind (.split e.group e.split)) s
        if e'.fault = 0 then
          let s := s.modTag e.group e.split fun sp =>
            ({ sp.tick with state := .ready, pc := sp.pc + 4, nr := false, idle := 0 } : Split).openWindow tag
              (if e.access.op.isStore || e'.reqs.any LaneReq.peer then 0 else e.access.la) e.access.acquire.isSome
          s.sluiceDone core tag
        else s

/-- The sluice entries of a split that hold faulted lanes. -/
def State.faultTags (s : State) (core gid tag : Nat) : List Nat :=
  ((s.core core).sluice.filter fun e => e.2.group == gid && e.2.split == tag && e.2.fault != 0).map Prod.fst

/-- The pages of an entry's faulted lanes for which a request is still open. -/
def State.answersOwed (s : State) (asid : Nat) (e : SluiceEntry) : Bool :=
  (e.reqs.filter fun r => e.fault.getLsbD r.lane).any fun r =>
    s.pageReqs.any fun q => q.asid == asid && q.page == r.va.toNat / 65536

/-- The non-replayable PAGE trap of an entry's remaining lanes (R415). -/
def SluiceEntry.failTrap (e : SluiceEntry) (mask : Word) : Trap :=
  let failed := e.reqs.filter fun r => e.fault.getLsbD r.lane
  let addr := match (Bits.lanes e.fault).head? with
    | some l => (failed.find? fun r => r.lane == l).map LaneReq.va |>.getD 0
    | none => 0
  { cause := .page, addr := addr
    lanes := match e.access.dest with
      | .grp _ => mask
      | _ => e.fault }

/-- A split of a saved team learns that its page FAILED (R415): the trap is delivered once the team is restored. -/
def State.failSaved (s : State) (cx : Cx) : State :=
  let wait := fun (s : State) (pc : DWord) (t : Trap) => s.modTag cx.gid cx.sp.tag fun sp =>
    { sp with state := .parked, pc := pc, parkOn := [], pendingTrap := some { t with time := s.time } }
  match cx.team.savedSluice.find? fun e => e.group == cx.gid && e.split == cx.sp.tag with
  | none =>
    if cx.sp.state == .faulted then wait s cx.sp.pc { cause := .page, lanes := cx.sp.mask, addr := cx.sp.faultAddr } else s
  | some e =>
    if s.answersOwed cx.asid e then s
    else wait (s.modTeam cx.uid fun t => { t with savedSluice := t.savedSluice.filter fun x => x != e }) e.pc
      (e.failTrap cx.sp.mask)

/-- The remaining faulted lanes of a split raise a non-replayable PAGE trap once none of them awaits an answer (R415); a CPY raises it at
its record's address (R357). -/
def State.failLanes (s : State) (cx : Cx) (tag : Nat) : State :=
  match (s.core cx.core).sluice.look tag with
  | none => s
  | some e =>
    if e.fault = 0 ∨ s.answersOwed cx.asid e then s
    else
      let s := s.modCore cx.core fun c => { c with sluice := c.sluice.upd tag SluiceEntry.dropFaults }
      (s.sluiceDone cx.core tag).raiseBack cx.gid cx.sp.tag e.pc e.nr (e.failTrap cx.sp.mask)

/-- A requesting split learns that its page FAILED (R415): once no lane of the fault mask awaits an answer, the remaining
lanes raise a non-replayable PAGE trap; a fetch raises it for M[0]. A split that is not FAULTED any more has no use for the answer. -/
def State.failSplit (s : State) (gid tag : Nat) : State :=
  match s.cxByTag gid tag with
  | none => s
  | some cx =>
    if cx.sp.state ≠ .faulted then s
    else if cx.team.state = .saved then s.failSaved cx
    else
      match s.faultTags cx.core gid tag with
      | [] => s.raiseTrap cx { cause := .page, lanes := cx.sp.mask, addr := cx.sp.faultAddr }
      | t :: _ => s.failLanes cx t

/-- The faulted lanes of one entry of a split go on after a page was resolved (R221): the lanes of that page issue again, and when lanes
remain whose pages have all FAILED they trap (R415). A CPY's instruction issues again whole (R215). -/
def State.replayTag (s : State) (cx : Cx) (page tag : Nat) : State :=
  match (s.core cx.core).sluice.look tag with
  | none => s
  | some e =>
    if e.retry then
      (s.modCore cx.core fun c => { c with sluice := c.sluice.del tag }).modTag cx.gid cx.sp.tag fun sp =>
        { sp with state := .ready, idle := 0 }
    else (s.replayEntry cx.core tag page).failLanes cx tag

/-- A requesting split replays: its faulted lanes of the page, or its fetch (R221). One that is not FAULTED any more (it has stopped)
does not. -/
def State.replaySplit (s : State) (gid tag page : Nat) : State :=
  match s.cxByTag gid tag with
  | none => s
  | some cx =>
    if cx.sp.state ≠ .faulted then s
    else
      match s.faultTags cx.core gid tag with
      | [] => s.modTag gid tag fun sp => { sp with state := .ready, idle := 0 }
      | tags => tags.foldl (fun s t => s.replayTag cx page t) s

end Sys2Proof.Machine
end

