-- ==== Sys2Proof/Machine/SaveRecord.lean ====
section
/-! DEFINITION. The bytes of a save record (R159, R161). R161 gives the places and contents of the header, the group areas, the barriers, the
scratchpad image and the tiles; how the header, and a group area behind its registers, lay out what they hold is the model's (DESIGN
CHOICE, log entry 23). -/

namespace Sys2Proof.Machine

/-- Bytes, filled up with zeros to n. -/
def padTo (n : Nat) (bs : List Byte) : List Byte := bs ++ List.replicate (n - bs.length) 0

/-- The number in n bytes at an offset. -/
def numAt (bs : List Byte) (off n : Nat) : Nat := Memory.toNat ((bs.drop off).take n)

/-! ### The places of R161 -/

/-- The save record of the team in a slot of a context (R161). -/
def Ctx.recordAt (c : Ctx) (slot : Nat) : Nat := c.savebase.toNat + slot * (10 * 2 ^ 20)

/-- A group area as a save record places it: 8 KiB of v, 512 bytes of g, 64 bytes of m and j, 8 bytes of $fflags (R161). -/
def areaBytes : Nat := 8776

/-- The offset of a group area, of the barriers, of the scratchpad image and of the tiles in a save record (R161). -/
def areaAt (index : Nat) : Nat := 0x1000 + 0x4000 * index
def barriersAt : Nat := 0x81000
def imageAt : Nat := 0x82000
def tilesAt : Nat := 0x102000

/-! ### The header -/

/-- The reservation flag word: the flag in bit 0, and for quadrant q twelve bits from 16 + 12q: a valid bit, the group's number and the
register of its B mark (R373). -/
def flagWord (held : Bool) (marks : Map (Nat × Nat)) : Nat :=
  held.toNat + (marks.map fun m => (1 + m.2.1 % 32 * 2 + m.2.2 % 64 * 64) * 2 ^ (16 + 12 * (m.1 % 4))).sum

/-- The B marks that a flag word holds, for the groups of a team. -/
def marksOf (uid w : Nat) : Map (Nat × Nat) :=
  (List.range 4).filterMap fun q =>
    let x := w / 2 ^ (16 + 12 * q) % 4096
    if x % 2 = 1 then some (q, (groupKey uid (x / 2 % 32), x / 64)) else none

/-- The header (R161): the team's id and its kernel's launch sequence number in 8 bytes each, band shape, band slot and group count in a byte
each, the reservation flag word at 0x18, the number of tiles at 0x20 and the tile list from 0x40, two bytes each. -/
def saveHeader (t : Team) (l : Launch) : List Byte :=
  let front := Memory.ofNat 8 t.linear ++ Memory.ofNat 8 t.kernel
    ++ ([l.bandR, l.bandC, t.linear % l.bandSize, l.groups].flatMap fun n => Memory.ofNat 1 n) ++ Memory.ofNat 4 0
    ++ Memory.ofNat 8 (flagWord t.savedHold t.savedMarks) ++ Memory.ofNat 8 l.acc
  padTo 4096 (padTo 64 front ++ (List.range l.acc).flatMap fun k => Memory.ofNat 2 k)

/-! ### The group areas -/

/-- The part of a group area whose layout R161 gives: v, g, m and j registers and $fflags. The word of m0 is left open. -/
def Group.area (g : Group) (vregs : Nat) (m0 : List Byte) : List Byte :=
  ((List.range 64).flatMap fun r =>
      if r < vregs then (List.range 32).flatMap fun l => Memory.ofNat 4 (g.vlane r l).toNat else List.replicate 128 0)
    ++ ((List.range 64).flatMap fun r => Memory.ofNat 8 (g.greg r).toNat)
    ++ m0 ++ ((List.range 7).flatMap fun k => Memory.ofNat 4 (Bits.rd g.m (k + 1) 0).toNat)
    ++ ((List.range 8).flatMap fun k => Memory.ofNat 4 (g.jreg k).toNat)
    ++ Memory.ofNat 8 g.fflags.toNat

/-- A split in 128 bytes: its image as a spilled entry (R211), then TSHAD61 to TSHAD63, the AUX value and the time of its delivered trap and
the no-reuse mark that its handler holds. -/
def saveSplit (sp : Split) : List Byte :=
  padTo 128 (Memory.ofNat 64 (packSplit sp)
    ++ ([sp.tshad61, sp.tshad62, sp.tshad63, sp.trapAux, sp.trapTime].flatMap fun w => Memory.ofNat 8 w.toNat)
    ++ Memory.ofNat 1 sp.trapNr.toNat)

/-- A split that takes from its 128 bytes what R159 lists of it: PC, lane mask where asked, mode, trap state and no-reuse marks. -/
def Split.withSaved (masks : Bool) (sp : Split) (bs : List Byte) : Split :=
  let flags := numAt bs 12 2
  { sp with
    pc := BitVec.ofNat 64 (numAt bs 0 8)
    mask := if masks then BitVec.ofNat 32 (numAt bs 8 4) else sp.mask
    firmware := flags / 32 % 2 == 1, nr := flags / 64 % 2 == 1
    trap61 := BitVec.ofNat 64 (numAt bs 32 8), trap62 := BitVec.ofNat 64 (numAt bs 40 8), trap63 := BitVec.ofNat 64 (numAt bs 48 8)
    tshad61 := BitVec.ofNat 64 (numAt bs 64 8), tshad62 := BitVec.ofNat 64 (numAt bs 72 8), tshad63 := BitVec.ofNat 64 (numAt bs 80 8)
    trapAux := BitVec.ofNat 64 (numAt bs 88 8), trapTime := BitVec.ofNat 64 (numAt bs 96 8), trapNr := numAt bs 104 1 % 2 == 1 }

/-- The bytes of a group area behind its registers. -/
def lifeBytes : Nat := 16384 - areaBytes

/-- What a group area holds behind its registers (R161): the split table at 0, the stack entries held in SRAM from 512, top first, their number
at 4096 and that of the spilled ones at 4097, the region flag at 4100 and the reader depth at 4101, and from 4104 the sluice states, 16
bytes each: the instruction's address, the unfinished lanes and the split's TAG. -/
def Group.life (g : Group) (entries : List SluiceEntry) : List Byte :=
  let sram := g.stack.take (g.stack.length - g.spilled)
  let table := (List.range 4).flatMap fun k =>
    match g.res.look k with
    | some sp => saveSplit sp
    | none => List.replicate 128 0
  padTo lifeBytes (padTo 4096 (table ++ sram.flatMap saveSplit)
    ++ ([sram.length, g.spilled, 0, 0, g.region.toNat, g.depth.toNat, 0, 0].flatMap fun n => Memory.ofNat 1 n)
    ++ entries.flatMap fun e => Memory.ofNat 8 e.pc.toNat ++ Memory.ofNat 4 e.fault.toNat ++ Memory.ofNat 4 e.split)

/-- A group whose registers are those of a group area (R159 to R161); a register that a poisoned word of the area covers is
poisoned (R316). -/
def Group.withArea (g : Group) (vregs : Nat) (bs : List Byte) (bad : List Nat) : Group :=
  let num := fun (off n : Nat) => Memory.toNat ((bs.drop off).take n)
  let hit := fun (off n : Nat) => bad.any fun w => off < 8 * w + 8 && 8 * w < off + n
  let marks := fun (w n : Nat) (p : Nat → Bool) => ((List.range n).filter p).foldl (fun (m : BitVec w) r => m ||| BitVec.twoPow w r) 0
  { g with
    v := Vector.ofFn fun r => if r.val < vregs then Bits.tab fun l => BitVec.ofNat 32 (num (128 * r.val + 4 * l) 4) else g.vreg r.val
    g := Vector.ofFn fun r => BitVec.ofNat 64 (num (8192 + 8 * r.val) 8)
    m := Vector.ofFn fun k => if k.val = 0 then Bits.rd g.m 0 0 else BitVec.ofNat 32 (num (8704 + 4 * k.val) 4)
    j := Vector.ofFn fun k => BitVec.ofNat 32 (num (8736 + 4 * k.val) 4)
    fflags := BitVec.ofNat 5 (num 8768 8)
    vPoison := g.vPoison ||| marks 64 vregs fun r => hit (128 * r) 128
    gPoison := g.gPoison ||| marks 64 64 fun r => hit (8192 + 8 * r) 8
    mPoison := g.mPoison ||| marks 8 8 fun k => k != 0 && hit (8704 + 4 * k) 4
    jPoison := g.jPoison ||| marks 8 8 fun k => hit (8736 + 4 * k) 4 }

/-- Each lane that has not exited is in the mask of one split, one that has is in none, and no mask is empty (R204). -/
def Group.masksApart (g : Group) : Bool :=
  (List.range 32).all (fun l => (g.splits.filter fun sp => sp.mask.getLsbD l).length == if g.exited.getLsbD l then 0 else 1)
    && g.splits.all fun sp => sp.mask != 0

/-- A group whose splits, stack entries held in SRAM, region flag and reader depth are those that its area holds behind the registers
(R159). Masks that no group's splits can have (R204), in a record that something else has written to, are not taken (DESIGN CHOICE, log
entry 23). -/
def Group.withLife (g : Group) (bs : List Byte) : Group :=
  let sram := g.stack.length - g.spilled
  let taken := fun (masks : Bool) =>
    { g with
      res := g.res.map fun p => (p.1, p.2.withSaved masks (bs.drop (128 * p.1)))
      stack := (g.stack.take sram).mapIdx (fun k sp => sp.withSaved masks (bs.drop (512 + 128 * k))) ++ g.stack.drop sram
      region := numAt bs 4100 1 % 2 == 1
      depth := BitVec.ofNat 4 (numAt bs 4101 1) }
  if (taken true).masksApart then taken true else taken false

/-! ### Barriers and images -/

/-- The barriers of a team, a word of R318 for each id. -/
def saveBarriers (t : Team) : List Byte :=
  padTo 4096 ((List.range 128).flatMap fun k =>
    match t.barriers.look k with
    | some b => Memory.ofNat 8 b.word.toNat
    | none => List.replicate 8 0)

/-- A barrier from its word of R318: none is INVALID. -/
def barrierOfWord (w : DWord) : Option Barrier :=
  let state := (w.extractLsb' 62 2).toNat
  if state = 1 ∨ state = 2 then
    some
      { band := state == 2, phase := w.getLsbD 61, posted := w.getLsbD 60, expect := w.extractLsb' 48 12
        arrived := w.extractLsb' 36 12, pending := (w.extractLsb' 0 32).toInt }
  else none

/-- The barriers that a save record holds. -/
def barriersOf (bs : List Byte) : Map Barrier :=
  (List.range 128).filterMap fun k => (barrierOfWord (BitVec.ofNat 64 (numAt bs (8 * k) 8))).map fun b => (k, b)

/-- A team whose scratchpad and tiles are the images of a save record (R159, R161, R305). -/
def Team.withImages (t : Team) (image tiles : List Byte) (badImage badTiles : List Nat) : Team :=
  let word := fun (e : Nat) => BitVec.ofNat 32 (Memory.toNat ((tiles.drop (4 * e)).take 4))
  { t with
    scratch := Memory.setBytes [] 0 image
    scratchPoison := t.scratchPoison ++ badImage.filter fun w => !t.scratchPoison.contains w
    acc := (List.range (tiles.length / 4)).foldl (fun m e => if word e = 0 then m else m.put e (word e)) []
    accPoison := t.accPoison ++ (badTiles.flatMap fun w => [2 * w, 2 * w + 1]).filter fun e => !t.accPoison.contains e }

end Sys2Proof.Machine
end

