-- ==== Sys2Proof/Machine/TideOps.lean ====
section
/-! DEFINITION. Operations of the tide machine that other families use (R431 to R435, R439). -/

namespace Sys2Proof.Machine

/-- How a holding set names a group (R434). -/
def State.groupName (s : State) (gid : Nat) : Option GroupName :=
  match s.groups.look gid with
  | none => none
  | some g =>
    match s.teams.look g.team with
    | none => none
    | some t =>
      match s.kernels.look t.kernel with
      | none => none
      | some k => some { asid := k.asid, kernel := t.kernel, team := t.linear, group := g.index }

/-- Whether a grace period that has started holds a group. -/
def State.holds (s : State) (n : GroupName) : Bool :=
  match s.grace with
  | some g => g.started && g.holding.contains n
  | none => false

/-- A group passes a quiescent point (R431): one that a grace period waits for is recorded once its accesses are done
(R434). -/
def State.quiesce (s : State) (gid : Nat) : State :=
  match s.groupName gid with
  | some n => if s.holds n then { s with quiescent := s.quiescent ++ [{ group := gid, name := n }] } else s
  | none => s

/-- The GPWAITs whose target the tide has reached return, each an acquire at device scope (R445). -/
def State.wakeGrace (s : State) : State :=
  s.releaseWhere (fun _ w _ =>
    match w with
    | .grace t => t.ule s.tide
    | _ => false) 4

/-- The grace period that runs ends when its holding set is empty (R432 to R434): T takes its target, the queued one is next, and
the GPWAITs whose target is reached return, each an acquire at device scope (R445). -/
def State.settleGrace (s : State) : State :=
  match s.grace with
  | some g =>
    if g.started && g.holding.isEmpty then
      let s := { s with
        tide := s.tide + 1
        grace := if s.graceQueued then some {} else none
        graceQueued := false }
      s.wakeGrace
    else s
  | none => s

/-- A group leaves the holding set (R434). -/
def State.leaveGrace (s : State) (n : GroupName) : State :=
  ({ s with
    grace := match s.grace with
      | some g => some { g with holding := g.holding.filter fun x => x != n }
      | none => none
    quiescent := s.quiescent.filter fun x => x.name != n } : State).settleGrace

/-- The requests to peers that accesses of a group's instructions have open: replies owed to its sluice entries and splits, and posted
stores. -/
def State.groupPeers (s : State) (core gid : Nat) : List Nat :=
  (s.peerReqs.filter fun r =>
    let mine := fun (w : Option (Nat × Nat)) => w.any fun w => w.1 == gid
    mine r.2.waiter || mine r.2.psub || (r.2.entry.any fun f => f.group == gid)
      || (r.2.core == core && r.2.tag.any fun t => ((s.core core).sluice.look t).any fun e => e.group == gid)).map Prod.fst

/-- A group that leaves its core for good passes a quiescent point (R431): recorded at once, or when the stores and the requests to peers that
it leaves behind are done (R434). -/
def State.quiesceNow (s : State) (gid : Nat) : State :=
  match s.groupName gid, s.groups.look gid with
  | some n, some g =>
    if !s.holds n then s
    else
      match s.teams.look g.team with
      | none => s.leaveGrace n
      | some t =>
        let peers := s.groupPeers t.core gid
        if peers.isEmpty && (s.core t.core).inflight.all fun f => f.group != gid then s.leaveGrace n
        else { s with quiescent := s.quiescent ++ [{ group := gid, name := n, left := some (t.core, (s.core t.core).taken, peers) }] }
  | _, _ => s

/-- The accesses that a group issued before a quiescent point are done (R434): of a living group, every reply has come, no faulted lane is
left and every store is acknowledged. -/
def State.quietDone (s : State) (q : Quiescence) : Bool :=
  match q.left with
  | some (core, before, peers) =>
    ((s.core core).inflight.all fun f => f.group != q.group || decide (before ≤ f.serial))
      && peers.all fun x => (s.peerReqs.look x).isNone
  | none =>
    match s.groups.look q.group with
    | none => true
    | some g =>
      match s.teams.look g.team with
      | none => true
      | some t =>
        ((s.core t.core).sluice.all fun e => e.2.group != q.group || (e.2.pend == 0 && e.2.fault == 0))
          && (t.savedSluice.all fun e => e.group != q.group) && s.storesAcked t.core q.group && s.peerStoresAcked q.group

/-- What the first RDENTER after a grace period's start does on its core (R435). -/
def State.tideArrives (s : State) (core quad : Nat) : State :=
  if (s.core core).graceSeen < s.graceStarts then
    (s.acquire core quad 4).modCore core fun c => { c with graceSeen := s.graceStarts }
  else s

/-- Record a stop of a context's spillway (R441): a trap record for no split, and the context FAULTED. -/
def State.spillStop (s : State) (asid : Nat) (c : Cause) (addr : DWord) : State :=
  ({ s with spillways := s.spillways.upd asid fun w => { w with stopped := true } }.trapRecord asid
    { time := s.time, addr := addr, cause := c }).faultCtx asid

/-- The splits of a context that wait for room in its spill area execute their GPFREE again (R446). -/
def State.wakeSpill (s : State) (asid : Nat) : State :=
  let mine := fun (g : Group) =>
    match s.teams.look g.team with
    | some t => match s.kernels.look t.kernel with
      | some k => k.asid == asid
      | none => false
    | none => false
  let again := fun (sp : Split) => if sp.state == .waiting && sp.wait == some .spill then sp.lookAgain else sp
  { s with
    groups := s.groups.map fun p =>
      (p.1, if mine p.2 then { p.2 with res := p.2.res.map fun r => (r.1, again r.2), stack := p.2.stack.map again } else p.2) }

/-- SPILLBASE takes a value that takes effect (R439): a new record of the spillway, whose first reads are still to come;
entries still in the spill area are dropped, and the GPFREEs that wait for room look again (R446). -/
def State.setSpillbase (s : State) (asid : Nat) (base : DWord) : State :=
  ({ s with
    ctxs := s.ctxs.upd asid fun c => { c with spillbase := base }
    spillways := if base = 0 then s.spillways.del asid else s.spillways.put asid { base := base } } : State).wakeSpill asid

end Sys2Proof.Machine
end

