-- ==== Sys2Proof/Machine/TeamOps.lean ====
section
/-! DEFINITION. How a team comes to and leaves its core: the resources of placement, retirement, SAVE, restore, DISCARD and abort
(R155 to R162, R189, R194 to R200, R254, R328, R354, R355, R373). -/

namespace Sys2Proof.Machine

/-- The team holds reservations on its core (R195). -/
def TeamState.placed (x : TeamState) : Bool := x == .resident || x == .saving || x == .discarding || x == .ending

/-! ### Bands (R188, R189) -/

/-- The number of teams of a launch. -/
def Launch.teams (l : Launch) : Nat := l.grid.1 * l.grid.2.1 * l.grid.2.2

/-- The teams of band b of a kernel that have been placed and have not left, a retired holder of band barriers included. -/
def State.bandOf (s : State) (kseq b n : Nat) : List (Nat × Team) :=
  s.teams.filter fun p => p.2.kernel == kseq && p.2.linear / n == b

/-- The band of a team. -/
def State.bandOfTeam (s : State) (t : Team) : List (Nat × Team) :=
  match s.kernels.look t.kernel with
  | some k => s.bandOf t.kernel (t.linear / k.launch.bandSize) k.launch.bandSize
  | none => []

/-! ### Room on a core (R195) -/

/-- What a team takes of a core: group places by quadrant, scratchpad bytes, barriers, tiles. -/
structure Load where
  places : Nat × Nat × Nat × Nat
  scratch : Nat
  barriers : Nat
  tiles : Nat
  deriving DecidableEq, Repr

/-- The reservations of one team of a launch (R195). -/
def Launch.load (l : Launch) : Load :=
  { places := ((l.groups + 3) / 4, (l.groups + 2) / 4, (l.groups + 1) / 4, l.groups / 4)
    scratch := l.scratch, barriers := l.barriers, tiles := l.acc }

/-- The sum of two loads. -/
def Load.add (a b : Load) : Load :=
  { places := (a.places.1 + b.places.1, a.places.2.1 + b.places.2.1, a.places.2.2.1 + b.places.2.2.1, a.places.2.2.2 + b.places.2.2.2)
    scratch := a.scratch + b.scratch, barriers := a.barriers + b.barriers, tiles := a.tiles + b.tiles }

/-- What one core offers (R11, R12). -/
def Load.fits (a : Load) : Bool :=
  a.places.1 ≤ 16 && a.places.2.1 ≤ 16 && a.places.2.2.1 ≤ 16 && a.places.2.2.2 ≤ 16 && a.scratch ≤ 524288 && a.barriers ≤ 96
    && a.tiles ≤ 512

/-- What the teams on a core have reserved; a retired holder of band barriers keeps only those (R195, R328). -/
def State.coreLoad (s : State) (core : Nat) : Load :=
  s.teams.foldl (fun a p =>
    match s.kernels.look p.2.kernel with
    | some k =>
      if p.2.core == core && p.2.state.placed then
        a.add (if p.2.retired then { places := (0, 0, 0, 0), scratch := 0, barriers := k.launch.barriers, tiles := 0 } else k.launch.load)
      else a
    | none => a) { places := (0, 0, 0, 0), scratch := 0, barriers := 0, tiles := 0 }

/-- A core is in service (R22, R26). -/
def State.inService (s : State) (core : Nat) : Bool := core < 192 && !s.fenceMap.getLsbD core

/-- The scratchpad bytes that the teams on a core have reserved, as base and length (R195). -/
def State.scratchTaken (s : State) (core : Nat) : List (Nat × Nat) :=
  s.teams.filterMap fun p =>
    match s.kernels.look p.2.kernel with
    | some k => if p.2.core == core && p.2.state.placed && !p.2.retired then some (p.2.scratchBase, k.launch.scratch) else none
    | none => none

/-- Where n contiguous bytes of a core's scratchpad are free (R195): the lowest such place (DESIGN CHOICE, log entry 35). -/
def State.scratchSpot (s : State) (core n : Nat) : Option Nat :=
  let taken := s.scratchTaken core
  let fits := fun (a : Nat) => decide (a + n ≤ 524288) && taken.all fun r => decide (a + n ≤ r.1) || decide (r.1 + r.2 ≤ a)
  ((0 :: taken.map fun r => r.1 + r.2).filter fits).min?

/-- A core is in service and has room for one more team of a launch (R194, R195). -/
def State.hasRoom (s : State) (core : Nat) (l : Launch) : Bool :=
  s.inService core && ((s.coreLoad core).add l.load).fits && (s.scratchSpot core l.scratch).isSome

/-- The place of a team's scratchpad in a core's. -/
def State.spotOf (s : State) (core : Nat) (l : Launch) : Nat := (s.scratchSpot core l.scratch).getD 0

/-- The core of band slot b in the rectangle of a launch whose origin core is given (R9, R189). -/
def rectCore (l : Launch) (origin b : Nat) : Nat :=
  origin / 12 * 12 + (origin % 12 / 4 + b / l.bandC) * 4 + origin % 4 + b % l.bandC

/-- The candidate rectangles of a band shape, as origin cores in the order of R194. -/
def rectangles (l : Launch) : List Nat :=
  (List.range 192).filter fun o => o % 12 / 4 + l.bandR ≤ 3 && o % 4 + l.bandC ≤ 4

/-- The candidate rectangles in the order in which the placer considers them: from the cursor, round the list (R194). -/
def State.rectOrder (s : State) (l : Launch) : List Nat :=
  match s.cursor with
  | none => rectangles l
  | some (chip, pos) => (rectangles l).filter (fun o => chip * 12 + pos < o) ++ (rectangles l).filter fun o => o ≤ chip * 12 + pos

/-- Some rectangle of the shape has all its cores in service (R23, R192). -/
def State.shapeExists (s : State) (l : Launch) : Bool :=
  (rectangles l).any fun o => (List.range l.bandSize).all fun b => s.inService (rectCore l o b)

/-! ### Leaving a core -/

/-- Drop page-request requesters that a test names; a request that loses its last one is gone (R414). -/
def State.dropRequesters (s : State) (p : Requester → Bool) : State :=
  { s with
    pageReqs := (s.pageReqs.map fun q => ({ q with requesters := q.requesters.filter fun r => !p r } : PageReq)).filter
      fun q => !q.requesters.isEmpty }

/-- Abandon a team's copies into scratchpads and scale stores and its matrix work, release its reservation, and drop its page
requests (R157, R200, R355, R373, R414). -/
def State.abandonTeam (s : State) (uid : Nat) : State :=
  match s.teams.look uid with
  | none => s
  | some t =>
    let gids := (s.teamGroups uid).map Prod.fst
    let gone := ((s.core t.core).copies.filter fun r => r.2.team == uid && (r.2.kind == .load || r.2.kind == .scale)).map Prod.fst
    let mine := fun (h : MatrixHold) => h == .held uid || h == .releasing uid
    let s := s.modCore t.core fun c =>
      { c with
        copies := c.copies.filter fun r => !gone.contains r.1
        matrixQ := c.matrixQ.filter fun e => e.team != uid
        marks := if mine c.hold then [] else c.marks
        hold := if mine c.hold then .free else c.hold }
    s.dropRequesters fun r =>
      match r with
      | .split g _ => gids.contains g
      | .copy c k => c == t.core && gone.contains k
      | _ => false

/-- Every store of a team is acknowledged, posted ones to peers included (R74, R76, R197). -/
def State.teamStoresDone (s : State) (uid : Nat) : Bool :=
  match s.teams.look uid with
  | none => true
  | some t => (s.teamGroups uid).all fun p => s.storesAcked t.core p.1 && s.peerStoresAcked p.1

/-- A collective step that a team issued is not complete (R158). -/
def State.stepsOpen (s : State) (uid : Nat) : Bool := s.colls.any fun p => p.2.teams.contains uid

/-- A team has a copy that is not complete. -/
def State.copiesOpen (s : State) (uid : Nat) : Bool :=
  match s.teams.look uid with
  | none => false
  | some t => (s.core t.core).copies.any fun r => r.2.team == uid

/-- An atomic that a team has issued is not complete. -/
def State.atomicsOpen (s : State) (uid : Nat) : Bool :=
  match s.teams.look uid with
  | none => false
  | some t =>
    let gids := (s.teamGroups uid).map Prod.fst
    (s.core t.core).sluice.any fun e => gids.contains e.2.group && e.2.access.op.isAtomic && e.2.pend != 0

/-- Nothing that a team has issued and that must complete before its DISCARD, SAVE or abort does is still open (R157, R158, R200). -/
def State.teamQuiet (s : State) (uid : Nat) : Bool :=
  s.teamStoresDone uid && !s.stepsOpen uid && !s.copiesOpen uid && !s.atomicsOpen uid

/-- A team's stores are acknowledged and its copies and matrix batches complete (R197). -/
def State.teamDone (s : State) (uid : Nat) : Bool :=
  s.teamStoresDone uid && !s.copiesOpen uid && match s.teams.look uid with
    | some t => !((s.core t.core).matrixQ.any fun e => e.team == uid)
    | none => true

/-- A request to a peer whose reply nothing awaits any more. -/
def PeerReq.orphan (r : PeerReq) : PeerReq := { r with tag := none, waiter := none, psub := none }

/-- Take a group off its core: its sluice entries and names go, and replies owed to it are dropped (R222, R238, R254). -/
def State.dropGroup (s : State) (gid : Nat) : State :=
  match s.groups.look gid with
  | none => s
  | some g =>
    match s.teams.look g.team with
    | none => { s with groups := s.groups.del gid }
    | some t =>
      let q := quadOf t g
      let landings := ((s.core t.core).sluice.filter fun e => e.2.group == gid).flatMap fun e => e.2.landing
      let names := (g.names.toList ++ landings).eraseDups.filter fun n => n < 2048
      let owed := s.groupPeers t.core gid
      let s := { s with
        groups := s.groups.del gid
        peerReqs := s.peerReqs.map fun (r : Nat × PeerReq) => (r.1, if owed.contains r.1 && r.2.entry.isNone then r.2.orphan else r.2) }
      let s := s.modCore t.core fun c => { c with sluice := c.sluice.filter fun e => e.2.group != gid }
      names.foldl (fun s n => s.releaseName q n) s

/-- Take a team's groups off their core. -/
def State.dropGroups (s : State) (uid : Nat) : State := (s.teamGroups uid).foldl (fun s p => s.dropGroup p.1) s

/-- The state of a kernel after a team has come or gone (R198). -/
def State.kernelProgress (s : State) (kseq : Nat) : State :=
  s.modKernel kseq fun k =>
    let living := s.teams.filter fun p => p.2.kernel == kseq && !p.2.retired
    if k.launch.teams ≤ k.nextTeam ∧ living.isEmpty then { k with state := .retiring }
    else if k.state = .placing ∧ k.launch.teams ≤ k.nextTeam ∧ living.all (fun p => p.2.state != .reenqueued) then
      { k with state := .running, passedSince := none, blocking := false }
    else k

/-- A team is RETIRED (R197): a quiescent point for its groups, its reservations free; the barriers of band scope that the team
in band slot 0 holds live on until the last team of the band retires (R328). -/
def State.retireTeam (s : State) (uid : Nat) : State :=
  match s.teams.look uid with
  | none => s
  | some t =>
    let band := s.bandOfTeam t
    let others := band.filter fun p => p.1 != uid && !p.2.retired
    let s := (s.abandonTeam uid)
    let s := (s.teamGroups uid).foldl (fun s p => s.quiesceNow p.1) s
    let s := s.dropGroups uid
    let first := match s.kernels.look t.kernel with
      | some k => t.linear % k.launch.bandSize == 0
      | none => false
    let s :=
      if first && !others.isEmpty then
        s.modTeam uid fun t =>
          { t with
            retired := true
            scratch := [], scratchPoison := [], acc := [], accPoison := [], savedSluice := []
            barriers := t.barriers.filter fun b => b.2.band }
      else { s with teams := s.teams.del uid }
    let s := if others.isEmpty then { s with teams := s.teams.filter fun p => !band.any fun q => q.1 == p.1 && p.2.retired } else s
    s.kernelProgress t.kernel

/-- End a team of an aborted or destroyed kernel (R197, R200): one that is not on a core retires at once; one that is stops,
abandons its work, and retires when what it must complete is complete. -/
def State.endTeam (s : State) (uid : Nat) : State :=
  match s.teams.look uid with
  | none => s
  | some t =>
    if t.retired then s
    else if t.state.placed then (s.abandonTeam uid).modTeam uid fun t => { t with state := .ending }
    else s.retireTeam uid

/-- End every team of a kernel, and place no more (R198, R200). -/
def State.endTeams (s : State) (kseq : Nat) : State :=
  let s := s.modKernel kseq fun k => { k with nextTeam := k.launch.teams, passedSince := none, blocking := false }
  ((s.kernelTeams kseq).foldl (fun s p => s.endTeam p.1) s).kernelProgress kseq

/-- KABORT takes effect on a kernel (R200): the first one sets the completion value. -/
def State.abortKernel (s : State) (kseq : Nat) (code : Word) : State :=
  (s.modKernel kseq fun k =>
    if k.state = .placing ∨ k.state = .running then { k with state := .aborting, completion := code } else k).endTeams kseq

/-- A kernel's queue or context is destroyed (R182, R198). -/
def State.destroyKernel (s : State) (kseq : Nat) : State :=
  (s.modKernel kseq fun k => { k with silent := true, queue := 1024, state := .retiring }).endTeams kseq

/-- A team whose groups have all exited retires once its stores, copies and matrix batches are complete (R197); one that ends does once
everything that it has issued and that must complete is, its collective steps included (R200). -/
def execTeamRetire (uid : Nat) (s : State) : Result :=
  match s.teams.look uid with
  | none => .next s
  | some t =>
    if t.retired then .next s
    else
      let gone := (s.teamGroups uid).all fun p => p.2.state == .exited
      if s.teamDone uid ∧ (t.state = .ending ∧ !s.stepsOpen uid ∨ t.state = .resident ∧ gone) then .next (s.retireTeam uid) else .next s

/-! ### Placement (R143, R157, R195) -/

/-- Team slots of a context in use (R143). -/
def State.usedSlots (s : State) (asid : Nat) : List Nat :=
  (s.teams.filter fun p =>
    !p.2.retired && match s.kernels.look p.2.kernel with
      | some k => k.asid == asid && !k.silent
      | none => false).map fun p => p.2.slot

/-- The lowest n free team slots of a context, if it has them (R143). -/
def State.freeSlots (s : State) (asid n : Nat) : Option (List Nat) :=
  match s.ctxs.look asid with
  | none => none
  | some c =>
    let used := s.usedSlots asid
    let free := ((List.range (min c.maxteams (used.length + n))).filter fun k => !used.contains k).take n
    if free.length = n then some free else none

/-- Address of a group's region slot (R170). -/
def regionAddr (c : Ctx) (slot index : Nat) : Nat := c.regbase.toNat + slot * 8192 + index * 256

/-- How a group starts: its pc, the first g register and values that a region slot gives, and its reader depth. -/
structure Start where
  pc : DWord
  first : Nat
  vals : List DWord
  depth : Nat
  inRegion : Bool
  deriving DecidableEq, Repr

/-- What a region slot says of a restart (R157, R170). -/
def startOf (bs : List Byte) : Start :=
  let at_ := fun (o n : Nat) => Memory.toNat ((bs.drop o).take n)
  let n := at_ 8 1 % 16 + 1
  { pc := BitVec.ofNat 64 (at_ 0 8), first := at_ 9 1 % 64, vals := (List.range n).map fun k => BitVec.ofNat 64 (at_ (16 + 8 * k) 8)
    depth := at_ 8 1 / 16, inRegion := true }

/-- The starts of the groups of a discarded team, read from its region slots as firmware-mode reads; none when one fails. -/
def State.readStarts (s : State) (asid core slot n : Nat) : Option (State × List Start) :=
  match s.ctxs.look asid with
  | none => none
  | some c =>
    (List.range n).foldl (fun acc k =>
      match acc with
      | none => none
      | some (s, l) =>
        match s.readAs (.core core) asid (regionAddr c slot k) 256 256 with
        | (s, .inl bs) => some (s, l ++ [startOf bs])
        | (_, .inr _) => none) (some (s, []))

/-- A group of a newly placed team (R157, R195), its split created in issue slot `now` (R204). -/
def Start.group (x : Start) (uid index now : Nat) : Group :=
  let g : Group :=
    { team := uid, index := index, depth := BitVec.ofNat 4 x.depth, region := x.inRegion
      res := [(0, { pc := x.pc, mask := BitVec.allOnes 32, tag := 0, age := now })] }
  (List.range x.vals.length).foldl (fun g k => g.setG (x.first + k) (x.vals.getD k 0)) g

/-- Put a team's groups on its core: registers named, and an acquire by each, so that what its launch's waits or its discard
ordered before it is seen (R181, R195, R235, R435). -/
def State.startGroups (s : State) (uid core vregs : Nat) (starts : List Start) : State :=
  (List.range starts.length).foldl (fun s k =>
    let x := starts.getD k { pc := 0, first := 0, vals := [], depth := 0, inRegion := false }
    let gid := groupKey uid k
    let q := 4 * core + k % 4
    let s := { s with groups := s.groups.put gid (x.group uid k (s.slotNow core)) }
    let s := (s.nameRegs q gid 0 vregs).acquire core q 5
    if x.depth = 0 then s else s.tideArrives core q) s

/-- Place a team that has never been placed on a core (R195, R197). -/
def State.placeNew (s : State) (kseq linear slot core : Nat) (l : Launch) : State :=
  let uid := s.uid
  let s := { s with
    uid := uid + 1
    teams := s.teams.put uid
      { kernel := kseq, linear := linear, slot := slot, core := core, scratchBase := s.spotOf core l, cdepth := l.dmin + 1 } }
  (s.bumpScratch core).startGroups uid core l.vregs
    (List.replicate l.groups { pc := l.code, first := 0, vals := [], depth := 0, inRegion := false })

/-- Place a re-enqueued team again (R157); none while its region slots cannot be read (DEDUCED, log entry 22). -/
def State.placeAgain (s : State) (asid uid core : Nat) (l : Launch) : Option State :=
  match s.teams.look uid with
  | none => none
  | some t =>
    match s.readStarts asid core t.slot l.groups with
    | none => none
    | some (s, starts) =>
      let base := s.spotOf core l
      some (((s.modTeam uid fun t =>
        { t with state := .resident, core := core, scratchBase := base, lambda := none, tau := none, lastQuiet := none, cdepth := l.dmin + 1 }).bumpScratch core).startGroups
          uid core l.vregs starts)

/-! ### DISCARD (R156, R157, R196) -/

/-- The team is discardable (R156). -/
def State.discardable (s : State) (uid : Nat) : Bool :=
  match s.teams.look uid with
  | none => false
  | some t =>
    match s.kernels.look t.kernel with
    | none => false
    | some k =>
      k.launch.restart && t.state == .resident && !t.retired && !(s.teamGroups uid).isEmpty
        && (s.teamGroups uid).all fun p => p.2.region && p.2.exited == 0 && p.2.splits.all fun sp => sp.state != .stopped

/-- A band is discardable when every team of it is (R196): none has retired. -/
def State.bandDiscardable (s : State) (t : Team) : Bool :=
  let band := s.bandOfTeam t
  let whole := match s.kernels.look t.kernel with
    | some k => band.length == k.launch.bandSize
    | none => false
  whole && band.all fun p => s.discardable p.1

/-- Issue stops for a discarded band, and its abandoned work goes (R157 steps 1 and 3). -/
def State.beginDiscard (s : State) (t : Team) : State :=
  (s.bandOfTeam t).foldl (fun s p => (s.abandonTeam p.1).modTeam p.1 fun t => { t with state := .discarding }) s

/-- A discarded team whose issued work is complete is re-enqueued (R157 steps 4 and 5). -/
def State.finishDiscard (s : State) (uid : Nat) : State :=
  match s.teams.look uid with
  | none => s
  | some t =>
    let s := (s.teamGroups uid).foldl (fun s p => s.quiesceNow p.1) s
    let s := s.dropGroups uid
    let s := s.modTeam uid fun t =>
      { t with
        state := .reenqueued
        placement := t.placement + 1
        scratch := [], scratchPoison := [], acc := [], accPoison := [], barriers := [] }
    s.modKernel t.kernel fun k => if k.state = .running then { k with state := .placing } else k

/-- DISCARD of a team, with its band (R157, R196): a discardable one stops; one that has stopped is re-enqueued once its stores,
atomics, CPY.ST, CPY.PF and collective steps are complete. -/
def execTeamDiscard (uid : Nat) (s : State) : Result :=
  match s.teams.look uid with
  | none => .next s
  | some t =>
    let band := s.bandOfTeam t
    if t.state = .discarding then
      if band.all fun p => p.2.state == .discarding && s.teamQuiet p.1 then .next (band.foldl (fun s p => s.finishDiscard p.1) s)
      else .next s
    else if s.bandDiscardable t then .next (s.beginDiscard t)
    else .next s

/-! ### SAVE (R158, R159, R161) -/

/-- A wait that SAVE, like WATCHDOG, abandons, so that its instruction executes again from its start (R185, R446). -/
def Wait.restarts (w : Wait) : Bool :=
  match w with
  | .post _ => true
  | .resize _ => true
  | .spill => true
  | _ => false

/-- A split as a SAVE keeps it (R159): the stores that a FENCE or a wait for stores was after are done. -/
def Split.saved (sp : Split) : Split :=
  let again := sp.state != .waiting || match sp.wait with
    | some w => w.restarts
    | none => true
  { sp with
    bbc := 0, idle := 0, readySlots := 0, waitPulses := 0, windows := [], placeWait := none, peerRead := [], claimed := none
    drainArmed := false, drainTo := none, yieldTo := []
    state := if sp.state == .waiting && again then .ready else sp.state
    wait := if again then none else sp.wait }

/-- Issue stops for a band that is saved (R158 step 1). -/
def State.beginSave (s : State) (t : Team) : State :=
  (s.bandOfTeam t).foldl (fun s p =>
    if p.2.state == .resident && !p.2.retired then s.modTeam p.1 fun t => { t with state := .saving } else s) s

/-- Everything that R158 lets complete before the save record is written is complete. -/
def State.saveReady (s : State) (uid : Nat) : Bool :=
  match s.teams.look uid with
  | none => true
  | some t =>
    let gids := (s.teamGroups uid).map Prod.fst
    s.teamQuiet uid && !((s.core t.core).matrixQ.any fun e => e.team == uid)
      && !((s.core t.core).copies.any fun r => r.2.target == uid)
      && (s.core t.core).sluice.all (fun e => !gids.contains e.2.group || e.2.pend == 0)
      && (s.teamGroups uid).all fun p => p.2.splits.all fun sp => sp.state != .parked && sp.pendingTrap.isNone

/-- n bytes that the spec leaves open (DESIGN CHOICE, log entry 4). -/
def State.freeBytes (s : State) (n : Nat) : State × List Byte :=
  ({ s with fresh := s.fresh + n }, (List.range n).map fun k => (Config.freeValue (s.fresh + k)).setWidth 8)

/-- Write bytes at a virtual address in pieces of 4 KiB; a piece that fails a check of R60 is not written. -/
def State.writePieces (s : State) (who : Accessor) (asid va : Nat) (bs : List Byte) : State :=
  (List.range ((bs.length + 4095) / 4096)).foldl (fun s k =>
    (s.writeAs who asid (va + 4096 * k) 1 ((bs.drop (4096 * k)).take 4096)).1) s

/-- The sluice entries of a group. -/
def State.entriesOf (s : State) (core gid : Nat) : List SluiceEntry :=
  ((s.core core).sluice.filter fun e => e.2.group == gid).map Prod.snd

/-- Write the save record of a team (R161). The word of m0 takes free values: a split's mask lies in the split table. -/
def State.writeRecord (s : State) (uid : Nat) : State :=
  match s.teams.look uid with
  | none => s
  | some t =>
    match s.kernels.look t.kernel with
    | none => s
    | some k =>
      match s.ctxs.look k.asid with
      | none => s
      | some c =>
        let base := c.recordAt t.slot
        let put := fun (s : State) (off : Nat) (bs : List Byte) => s.writePieces (.core t.core) k.asid (base + off) bs
        let s := put s 0 (saveHeader t k.launch)
        let s := (s.teamGroups uid).foldl (fun s p =>
          let m0 := s.freeBytes 4
          put m0.1 (areaAt p.2.index) (p.2.area k.launch.vregs m0.2 ++ p.2.life (s.entriesOf t.core p.1))) s
        let s := put s barriersAt (saveBarriers t)
        let s := put s imageAt (Memory.bytes t.scratch 0 k.launch.scratch)
        put s tilesAt ((List.range (k.launch.acc * 4096)).flatMap fun e => Memory.ofNat 4 (t.acc.lookD e 0).toNat)

/-- The B marks of a team's holder as a save keeps them (R373): those set, and those that an MMA which executes again has claimed. -/
def State.marksKept (s : State) (uid core : Nat) : Map (Nat × Nat) :=
  (s.teamGroups uid).foldl (fun m p => p.2.splits.foldl (fun m sp =>
    match sp.claimed with
    | some c => c.marks.foldl (fun (m : Map (Nat × Nat)) x => if (m.look x.1).isSome then m else m.put x.1 x.2) m
    | none => m) m) (s.core core).marks

/-- A group as a save keeps it: its values unnamed, its splits as `Split.saved` says, its batches complete. What a save does to the mark of a
posted peer store that failed (R76) R159 does not list: the group keeps it (DESIGN CHOICE, log entry 62). -/
def Group.saved (g : Group) : Group :=
  { g with
    names := Vector.replicate 64 2048
    res := g.res.map fun p => (p.1, p.2.saved)
    stack := g.stack.map Split.saved
    copySet := [], copyBatch := 0, copyBatches := [], matSet := [], matBatches := [] }

/-- A saved group's values leave its quadrant's pool. -/
def State.unnameGroup (s : State) (gid : Nat) (t : Team) (entries : List SluiceEntry) : State :=
  match s.groups.look gid with
  | none => s
  | some g =>
    let names := (g.names.toList ++ (entries.filter fun e => e.group == gid).flatMap SluiceEntry.landing).eraseDups.filter
      fun n => n < 2048
    names.foldl (fun s n => s.releaseName (quadOf t g) n) (s.modGroup gid Group.saved)

/-- Save a team: the record, then its resources free (R158 steps 5 and 6). A band's slot-0 team that has retired has no record, its slot
being free (R143); the barriers that it holds for the band are kept (R328; DESIGN CHOICE, log entry 62). -/
def State.saveTeam (s : State) (uid : Nat) : State :=
  match s.teams.look uid with
  | none => s
  | some t =>
    if t.retired then s.modTeam uid fun x => { x with state := .saved }
    else
      let gids := (s.teamGroups uid).map Prod.fst
      let entries := gids.flatMap fun gid => s.entriesOf t.core gid
      let held := (s.core t.core).hold == .held uid
      let marks := if held then s.marksKept uid t.core else []
      let s := s.modTeam uid fun x =>
        { x with
          state := .saved, savedSluice := entries, savedHold := held, savedMarks := marks, lambda := none, tau := none, lastQuiet := none }
      let s := gids.foldl (fun s gid => s.modGroup gid fun g =>
        { g with res := g.res.map fun q => (q.1, q.2.saved), stack := g.stack.map Split.saved }) s
      let s := (s.writeRecord uid).modCore t.core fun c =>
        { c with
          sluice := c.sluice.filter fun e => !gids.contains e.2.group
          hold := if held then .free else c.hold
          marks := if held then [] else c.marks }
      gids.foldl (fun s gid => s.unnameGroup gid t entries) s

/-- Firmware starts saving a team, with its band (R158). -/
def execTeamSave (uid : Nat) (s : State) : Result :=
  match s.teams.look uid with
  | none => .next s
  | some t => if t.state = .resident ∧ !t.retired then .next (s.beginSave t) else .next s

/-- A save completes once everything R158 names has (R158). -/
def execTeamSaveComplete (uid : Nat) (s : State) : Result :=
  match s.teams.look uid with
  | none => .next s
  | some t =>
    let band := s.bandOfTeam t
    if t.state = .saving ∧ band.all (fun p => p.2.retired || (p.2.state == .saving && s.saveReady p.1)) then
      .next (band.foldl (fun s p => s.saveTeam p.1) s)
    else .next s

/-! ### Restore (R158 to R162, R254, R354, R358, R373) -/

/-- Put a saved sluice entry back on a core: a tag, and landing registers with the lanes already written (R254). -/
def State.restoreEntry (s : State) (core : Nat) (e : SluiceEntry) : State :=
  match (s.core core).freeTag, s.groups.look e.group with
  | some tag, some g =>
    let l := s.takeLandings (4 * core + g.index % 4) e.group e.access.dest
    l.1.modCore core fun c => { c with sluice := c.sluice.put tag { e with landing := l.2, reuse := none } }
  | _, _ => s

/-- The pages for which a FAULTED split waits. -/
def State.faultPages (s : State) (core gid : Nat) (sp : Split) : List Nat :=
  match s.faultTags core gid sp.tag with
  | [] => [sp.faultAddr.toNat / 65536]
  | tags => (tags.flatMap fun t =>
      match (s.core core).sluice.look t with
      | some e => (e.reqs.filter fun (r : LaneReq) => e.fault.getLsbD r.lane).map fun r => r.va.toNat / 65536
      | none => []).eraseDups

/-- The FAULTED splits of a restored group replay for the pages that no open request of theirs names any more (R159). -/
def State.replayFaulted (s : State) (asid core gid : Nat) : State :=
  match s.groups.look gid with
  | none => s
  | some g =>
    (g.splits.filter fun sp => sp.state == .faulted).foldl (fun s sp =>
      (s.faultPages core gid sp).foldl (fun s page =>
        if s.pageReqs.any fun q => q.asid == asid && q.page == page && q.requesters.contains (.split gid sp.tag) then s
        else s.replaySplit gid sp.tag page) s) s

/-- Read bytes at a virtual address in pieces of 4 KiB; a piece that fails a check of R60 reads 0. -/
def State.readPieces (s : State) (who : Accessor) (asid va n : Nat) : State × List Byte :=
  (List.range ((n + 4095) / 4096)).foldl (fun r k =>
    let size := min 4096 (n - 4096 * k)
    match r.1.readAs who asid (va + 4096 * k) 1 size with
    | (s, .inl bs) => (s, r.2 ++ bs)
    | (s, .inr _) => (s, r.2 ++ List.replicate size 0)) (s, [])

/-- No piece of a range fails a check of R60 when it is read. -/
def State.piecesReadable (s : State) (asid va n : Nat) : Bool :=
  (List.range ((n + 4095) / 4096)).all fun k =>
    match s.checkSystem asid (va + 4096 * k) (min 4096 (n - 4096 * k)) 1 .read with
    | .ok _ _ _ => true
    | .cause _ => false

/-- The poisoned 8-byte words of a range of a save record, counted from its start (R316). -/
def State.badWords (s : State) (asid va n : Nat) : List Nat :=
  if s.memPoison.isEmpty then []
  else (List.range ((n + 7) / 8)).filter fun w =>
    match s.checkSystem asid (va + 8 * w) 8 1 .read with
    | .ok pa _ _ => s.physPoisoned pa 8
    | .cause _ => false

/-- A restored team reads its save record on its core (R159, R161): its groups, barriers, images and B marks. What a wait or an access in
progress needs beside that stays as saved (DESIGN CHOICE, log entry 23). -/
def State.readSaved (s : State) (uid core : Nat) (t : Team) (k : Kernel) : State :=
  match s.ctxs.look k.asid with
  | none => s
  | some c =>
    let base := c.recordAt t.slot
    let read := fun (s : State) (off n : Nat) => s.readPieces (.core core) k.asid (base + off) n
    let bad := fun (s : State) (off n : Nat) => s.badWords k.asid (base + off) n
    let head := read s 0 64
    let s := (head.1.teamGroups uid).foldl (fun s p =>
      let at_ := areaAt p.2.index
      let r := read s at_ areaBytes
      let rest := read r.1 (at_ + areaBytes) lifeBytes
      rest.1.modGroup p.1 fun g => (g.withArea k.launch.vregs r.2 (bad s at_ areaBytes)).withLife rest.2) head.1
    let bars := read s barriersAt 1024
    let image := read bars.1 imageAt k.launch.scratch
    let n := k.launch.acc * 16384
    let tiles := read image.1 tilesAt n
    tiles.1.modTeam uid fun x =>
      { x.withImages image.2 tiles.2 (bad s imageAt k.launch.scratch) (bad s tilesAt n) with
        barriers := barriersOf bars.2, savedMarks := marksOf uid (numAt head.2 0x18 8) }

/-- Every page of a team's save record that a restore reads can be read. -/
def State.recordReadable (s : State) (uid : Nat) (t : Team) (k : Kernel) : Bool :=
  match s.ctxs.look k.asid with
  | none => false
  | some c =>
    let base := c.recordAt t.slot
    let readable := fun (off n : Nat) => s.piecesReadable k.asid (base + off) n
    readable 0 64 && ((s.teamGroups uid).all fun p => readable (areaAt p.2.index) areaBytes && readable (areaAt p.2.index + areaBytes) lifeBytes)
      && readable barriersAt 1024 && readable imageAt k.launch.scratch && readable tilesAt (k.launch.acc * 16384)

/-- Restore a saved team on a core (R159, R160): its first instructions come after an acquire, which a grace period that has started since
the save needs too (R435), and a GPWAIT whose target has been reached meanwhile returns (R445). -/
def State.restoreTeam (s : State) (uid core : Nat) (k : Kernel) : State :=
  match s.teams.look uid with
  | none => s
  | some t =>
    if t.retired then s.modTeam uid fun x => { x with state := .resident, core := core }
    else
      let base := s.spotOf core k.launch
      let s := s.readSaved uid core t k
      let marks := match s.teams.look uid with
        | some x => x.savedMarks
        | none => []
      let s := s.modTeam uid fun x =>
        { x with
          state := .resident, core := core, scratchBase := base, placement := x.placement + 1, savedSluice := [], savedHold := false
          savedMarks := [], cdepth := k.launch.dmin + 1 }
      let s := if t.savedHold then s.modCore core fun c => { c.claim uid with marks := marks } else s
      let s := s.bumpScratch core
      let gids := (s.teamGroups uid).map Prod.fst
      let s := gids.foldl (fun s gid => s.nameRegs (4 * core + gid % 4) gid 0 k.launch.vregs) s
      let s := t.savedSluice.foldl (fun s e => s.restoreEntry core e) s
      let s := gids.foldl (fun s gid => s.acquire core (4 * core + gid % 4) 4) s
      let s := s.modCore core fun c => { c with graceSeen := s.graceStarts }
      let s := gids.foldl (fun s gid => s.replayFaulted k.asid core gid) s
      s.wakeGrace

/-- A saved band may be restored on the rectangle whose origin core is given: room, sluice entries, a free matrix engine where it
held one (R159, R194), and save records that can be read (R161; DEDUCED, log entry 22). That free sluice entries are asked for, that free
places of a stack SRAM (R209) are not, and that a retired slot-0 team's barriers are reserved anew is the model's (DESIGN CHOICE, log entry
62). -/
def State.restoreFits (s : State) (k : Kernel) (band : List (Nat × Team)) (origin : Nat) : Bool :=
  band.all fun p =>
    let core := rectCore k.launch origin (p.2.linear % k.launch.bandSize)
    s.inService core
      && (if p.2.retired then ((s.coreLoad core).add { k.launch.load with places := (0, 0, 0, 0), scratch := 0, tiles := 0 }).fits
          else s.hasRoom core k.launch && s.recordReadable p.1 p.2 k)
      && (!p.2.savedHold || (s.core core).hold == .free)
      && p.2.savedSluice.length + (s.core core).sluice.length ≤ 192

/-- Restore a saved band on a rectangle. -/
def State.restoreBand (s : State) (k : Kernel) (band : List (Nat × Team)) (origin : Nat) : State :=
  band.foldl (fun s p => s.restoreTeam p.1 (rectCore k.launch origin (p.2.linear % k.launch.bandSize)) k) s

/-- The placer may place teams of a kernel: its queue is not SUSPENDED and its context is ACTIVE (R198). -/
def State.placeable (s : State) (k : Kernel) : Bool :=
  !k.silent && (match s.ctxs.look k.asid with
    | some c => c.state == .active
    | none => false)
  && match s.queues.look k.queue with
    | some q => q.state != .suspended
    | none => false

/-- A saved team is restored, with its band, on the rectangle whose origin core the event names (R159, R197); the placer's cursor stays
(DESIGN CHOICE, log entry 62). -/
def execTeamRestore (uid core : Nat) (s : State) : Result :=
  match s.teams.look uid with
  | none => .next s
  | some t =>
    match s.kernels.look t.kernel with
    | none => .next s
    | some k =>
      let band := s.bandOfTeam t
      if s.placeable k ∧ (rectangles k.launch).contains core ∧ band.all (fun p => p.2.state == .saved)
          ∧ s.restoreFits k band core then
        .next (s.restoreBand k band core)
      else .next s

/-! ### The band placer (R184, R194, R196) -/

/-- Place the next band of a kernel on the first rectangle that fits, if one does: saved and re-enqueued bands come before any
team never placed, in increasing id (R196). -/
def State.placeBand (s : State) (kseq : Nat) (k : Kernel) : Option State :=
  let l := k.launch
  let n := l.bandSize
  let waiting := ((s.kernelTeams kseq).filter fun p => !p.2.retired && (p.2.state == .saved || p.2.state == .reenqueued))
  let lowest := waiting.foldl (fun b p =>
    match b with
    | some x => if p.2.linear < x then some p.2.linear else b
    | none => some p.2.linear) (none : Option Nat)
  let at_ := fun (s : State) (o : Nat) => { s with cursor := some (o / 12, o % 12) }
  match lowest with
  | some lin =>
    let band := s.bandOf kseq (lin / n) n
    if band.any fun p => p.2.state == .saved then
      match (s.rectOrder l).find? fun o => s.restoreFits k band o with
      | some o => some (at_ (s.restoreBand k band o) o)
      | none => none
    else
      match (s.rectOrder l).find? fun o => band.all fun p => s.hasRoom (rectCore l o (p.2.linear % n)) l with
      | none => none
      | some o =>
        (band.foldl (fun acc p =>
          match acc with
          | some s => s.placeAgain k.asid p.1 (rectCore l o (p.2.linear % n)) l
          | none => none) (some s)).map fun s => (at_ s o).kernelProgress kseq
  | none =>
    match s.freeSlots k.asid n, (s.rectOrder l).find? fun o => (List.range n).all fun b => s.hasRoom (rectCore l o b) l with
    | some slots, some o =>
      let s := (List.range n).foldl (fun s b => s.placeNew kseq (k.nextTeam + b) (slots.getD b 0) (rectCore l o b) l) s
      some ((at_ (s.modKernel kseq fun k => { k with nextTeam := k.nextTeam + n }) o).kernelProgress kseq)
    | _, _ => none

/-- The kernel has a team to place. -/
def State.wantsPlace (s : State) (kseq : Nat) (k : Kernel) : Bool :=
  (k.state == .placing || k.state == .running)
    && (k.nextTeam < k.launch.teams
        || (s.kernelTeams kseq).any fun p => !p.2.retired && (p.2.state == .saved || p.2.state == .reenqueued))

/-- Priority of a kernel's queue. -/
def State.kernelPrio (s : State) (k : Kernel) : Nat :=
  match s.queues.look k.queue with
  | some q => q.prio
  | none => 0

/-- Kernels in flight in the order of R184: priority, highest first, then the order of taking. -/
def State.offerOrder (s : State) : List (Nat × Kernel) :=
  (List.range 8).flatMap fun p => s.kernels.filter fun k => s.kernelPrio k.2 == 7 - p

/-- Offer free resources to the kernels in flight: one band is placed, of the first kernel whose next band fits; kernels before
it are passed over, and behind one that has been passed over for 1 ms none is placed (R184). -/
def State.offer (s : State) (ks : List (Nat × Kernel)) : State :=
  match ks with
  | [] => s
  | (kseq, k) :: rest =>
    if !(s.placeable k && s.wantsPlace kseq k) then
      (s.modKernel kseq fun k => { k with passedSince := none, blocking := false }).offer rest
    else
      match s.placeBand kseq k with
      | some s => s.modKernel kseq fun k => { k with passedSince := none, blocking := false }
      | none =>
        let s := s.modKernel kseq fun k =>
          { k with passedSince := match k.passedSince with
            | some t => some t
            | none => some s.time.toNat }
        if k.blocking then s else s.offer rest

/-- The placer offers resources (R184, R194). -/
def execPlacerOffer (s : State) : Result := .next (s.offer s.offerOrder)

/-- A kernel has been passed over without a break for 1 ms (R184). -/
def execPassOverTimeout (kseq : Nat) (s : State) : Result :=
  match s.kernels.look kseq with
  | none => .next s
  | some k =>
    match k.passedSince with
    | some t => if t + 1000000 ≤ s.time.toNat then .next (s.modKernel kseq fun k => { k with blocking := true }) else .next s
    | none => .next s

end Sys2Proof.Machine
end

