-- ==== Sys2Proof/Machine/Mailbox.lean ====
section
/-! DEFINITION. How a firmware-mailbox command is received and answered (R485 to R487). -/

namespace Sys2Proof.Machine

/-- The statuses of R485. -/
inductive Status where
  | ok | badDesc | badState | noSlot | perm | badImage | full
  deriving DecidableEq, Repr

/-- The code of a status (R485). -/
def Status.code (x : Status) : Nat :=
  match x with
  | .ok => 0
  | .badDesc => 1
  | .badState => 2
  | .noSlot => 3
  | .perm => 4
  | .badImage => 5
  | .full => 6

/-- A command completes: CXL Success, the status in the first four bytes of the output, then the rest of it (R485). -/
def State.answer (s : State) (x : Status) (out : List Byte := []) : State :=
  { s with mailbox := { s.mailbox with code := .success, status := x.code, output := Memory.ofNat 4 x.code ++ out } }

/-- A number of n bytes at an offset of a payload (R487). -/
def field (p : List Byte) (off n : Nat) : Nat := Memory.toNat ((p.drop off).take n)

/-- A payload holds its last listed field, and every byte that no listed field covers is zero (R487). The fields are offsets and
lengths. -/
def payloadOk (p : List Byte) (fields : List (Nat × Nat)) : Bool :=
  fields.all (fun f => f.1 + f.2 ≤ p.length)
    && (List.range p.length).all fun k => p.getD k 0 == 0 || fields.any fun f => f.1 ≤ k && k < f.1 + f.2

/-- A mailbox command (R485, R487): Busy while a background operation runs, BAD_DESC for a malformed payload, otherwise its
effect. A part that stays in reset presents no host function (R24). -/
def mailboxOp (p : List Byte) (fields : List (Nat × Nat)) (f : State → State) (s : State) : Result :=
  if s.inReset then .next s
  else if s.mailbox.background.isSome then .next { s with mailbox := { s.mailbox with code := .busy } }
  else if !payloadOk p fields then .next (s.answer .badDesc)
  else .next (f s)

/-- A background command starts (R485). -/
def State.background (s : State) (b : Background) : State :=
  { s with mailbox := { s.mailbox with code := .background, background := some b } }

/-- A background operation ends with a status. -/
def State.backgroundDone (s : State) (x : Status) (out : List Byte := []) : State :=
  let s := s.answer x out
  { s with mailbox := { s.mailbox with background := none } }

end Sys2Proof.Machine
end

