-- ==== Sys2Proof/Machine/Queue.lean ====
section
/-! DEFINITION. Queues, the dispatcher and the completion of kernels (R172 to R187, R190 to R193, R198 to R200). -/

namespace Sys2Proof.Machine

/-- The reasons of R178. -/
inductive Reason where
  | type | reserved | wait | shape | record | fetch | tail | cwrite
  deriving DecidableEq, Repr

/-- The REASON code (R178). -/
def Reason.code (r : Reason) : Nat :=
  match r with
  | .type => 1
  | .reserved => 2
  | .wait => 3
  | .shape => 4
  | .record => 5
  | .fetch => 6
  | .tail => 7
  | .cwrite => 8

/-- The state code of QSTAT (R187). -/
def QueueState.code (x : QueueState) : Nat :=
  match x with
  | .created => 0
  | .armed => 1
  | .running => 2
  | .draining => 3
  | .suspended => 4
  | .faulted => 5

/-- A queue goes FAULTED with a reason, from ARMED, RUNNING, DRAINING or SUSPENDED (R178, R182). -/
def State.queueFault (s : State) (q : Nat) (r : Reason) : State :=
  s.modQueue q fun x =>
    if x.state == .armed || x.state == .running || x.state == .draining || x.state == .suspended then
      { x with state := .faulted, reason := r.code }
    else x

/-- Entries of the ring (R172). -/
def Queue.size (q : Queue) : Nat := 2 ^ q.logsize

/-- Address of entry i (R173). -/
def Queue.entryAddr (q : Queue) (i : DWord) : Nat := (q.ringBase.toNat + 128 * (i.toNat % q.size)) % 2 ^ 64

/-- Kernels of a queue in flight (R187). -/
def State.inFlight (s : State) (q : Nat) : Nat := (s.kernels.filter fun k => k.2.queue == q).length

/-- ARMED or RUNNING follows head and tail (R182). -/
def Queue.settle (q : Queue) : Queue :=
  if q.state == .armed || q.state == .running then { q with state := if q.tail = q.head then .armed else .running } else q

/-- A split that waits to post to a queue is still at its QPOST, in a team on a core: SAVE, DISCARD and WATCHDOG abandon it (R185). -/
def State.stillPosts (s : State) (w : Nat × Nat × DWord) : Bool :=
  match s.groups.look w.1 with
  | some g =>
    (match g.byTag w.2.1 with
     | some sp => sp.pc == w.2.2 && sp.state != .stopped
     | none => false)
    && match s.teams.look g.team with
      | some t => t.state == .resident
      | none => false
  | none => false

/-- The splits that wait to post to a queue, in the order of their arrival (R185). -/
def State.postLine (s : State) (q : Queue) : List (Nat × Nat × DWord) := q.posts.filter s.stillPosts

/-- The dispatcher turns to the split that has waited longest to post to a queue: it looks at the queue again (R185). -/
def State.wakePosts (s : State) (id : Nat) : State :=
  match s.queues.look id with
  | none => s
  | some q =>
    match s.postLine q with
    | [] => s
    | w :: _ => s.modTag w.1 w.2.1 fun sp =>
        if sp.state == .waiting && sp.wait == some (.post id) then sp.lookAgain else sp

/-- The dispatcher waits on the pager for a queue, at a word or an entry of its own or of a kernel of the queue (R178). -/
def State.pagerWait (s : State) (id : Nat) : Bool :=
  s.pageReqs.any fun r => r.requesters.any fun x =>
    match x with
    | .dispatcher q => q == id
    | .marker q => q == id
    | .completion k => (s.kernels.look k).any fun kn => kn.queue == id
    | _ => false

/-- The dispatcher waits on the pager for a queue (R178). -/
def State.queuePage (s : State) (q asid va : Nat) (k : AccessKind) : State :=
  s.pageRequest asid va k (.dispatcher q)

/-- The dispatcher reads a queue's tail word (R173, R174, R178): an acquire at system scope. The tail of a queue that only QPOST
posts to is the dispatcher's own, and its word must still translate to device memory. A FAULTED queue takes a tail in range and cannot
fault again. -/
def State.rereadTail (s : State) (q : Nat) : State :=
  match s.queues.look q with
  | none => s
  | some x =>
    if x.state == .created then s
    else
      let s := (s.modQueue q fun x => { x with tailHit := false }).walkIf x.asid x.tailAddr.toNat 8 8
      match s.checkSystem x.asid x.tailAddr.toNat 8 8 .read with
      | .cause .page => if x.state == .faulted then s else s.queuePage q x.asid x.tailAddr.toNat .read
      | .cause _ => s.queueFault q .tail
      | .ok pa _ _ =>
        if s.paKind pa != .device then s.queueFault q .tail
        else if x.poster then
          -- a skip of an empty queue leaves the head above the tail (R173)
          if x.tail.toNat < x.head.toNat then s.queueFault q .tail else s.modQueue q fun x => { x with tailPa := pa }.settle
        else
          let s := s.homeServe .system pa false
          let t := s.physRead pa 8
          if t < x.head.toNat ∨ x.head.toNat + x.size < t then s.queueFault q .tail
          else s.modQueue q fun x => { x with tail := BitVec.ofNat 64 t, tailPa := pa }.settle

/-- Publish a queue's head index in its head word, a release at system scope (R179). -/
def State.writeHead (s : State) (q : Nat) : State :=
  match s.queues.look q with
  | none => s
  | some x =>
    match s.writeAs .system x.asid x.headAddr.toNat 8 (Memory.ofNat 8 x.head.toNat) with
    | (s, none) => s.modQueue q fun x => { x with headUnwritten := false }
    | (s, some .page) => (s.queuePage q x.asid x.headAddr.toNat .write).modQueue q fun x => { x with headUnwritten := true }
    | (s, some _) => (s.modQueue q fun x => { x with headUnwritten := true }).queueFault q .fetch

/-! ### Entries (R176 to R178, R190 to R192) -/

/-- The entry types (R176). -/
def entryType (bs : List Byte) : Nat := field bs 0 1

/-- The 56-bit address of a completion word (R176). -/
def entryCaddr (bs : List Byte) : DWord := BitVec.ofNat 64 (field bs 8 8 % 2 ^ 56)

/-- The four wait entries as CMP, address and VALUE (R177). -/
def entryWaits (bs : List Byte) : List (Nat × Nat × Nat) :=
  (List.range 4).map fun k =>
    let lo := field bs (0x14 + 12 * k) 8
    (lo / 2 ^ 60, lo % 2 ^ 56, field bs (0x1C + 12 * k) 4)

/-- A reserved field of R176 or R177 is not zero. -/
def entryReserved (bs : List Byte) : Bool :=
  field bs 0xF 1 != 0
    || (List.range 4).any (fun k => field bs (0x14 + 12 * k) 8 / 2 ^ 56 % 16 != 0)
    || (entryType bs != 1 && (field bs 1 7 != 0 || field bs 0x44 60 != 0))

/-- A CMP of 7 to 15, a wait word misaligned, or CADDR misaligned (R178). -/
def entryBadWait (bs : List Byte) : Bool :=
  field bs 8 1 % 4 != 0 || (entryWaits bs).any fun w => 7 ≤ w.1 || (w.1 != 0 && w.2.1 % 4 != 0)

/-- The launch record of an entry (R190, R191), or none when a RECORD condition of R192 holds. -/
def launchOf (bs : List Byte) : Option Launch :=
  let h := field bs 0 8
  let a := field bs 0x44 8
  let b := field bs 0x4C 8
  let c := field bs 0x54 8
  let d := field bs 0x5C 4
  let l : Launch :=
    { grid := (h / 2 ^ 48 + 1, h / 2 ^ 32 % 2 ^ 16 + 1, h / 2 ^ 28 % 16 + 1)
      groups := h / 2 ^ 23 % 32 + 1
      bandR := h / 2 ^ 21 % 4 + 1
      bandC := h / 2 ^ 19 % 4 + 1
      vregs := 8 * (h / 2 ^ 16 % 8 + 1)
      ltcount := h / 2 ^ 8 % 256
      code := BitVec.ofNat 64 (a % 2 ^ 56)
      param := BitVec.ofNat 64 (b % 2 ^ 56)
      ltab := BitVec.ofNat 64 (c % 2 ^ 56)
      dmax := a / 2 ^ 60
      dmin := a / 2 ^ 56 % 16
      pclass := b / 2 ^ 58 % 4
      noreuse := b / 2 ^ 57 % 2 == 1
      restart := b / 2 ^ 56 % 2 == 1
      acc := d / 2 ^ 22
      barriers := d / 2 ^ 15 % 128
      scratch := 256 * (d % 2 ^ 12)
      slots := (List.range 8).map fun k => BitVec.ofNat 32 (field bs (0x60 + 4 * k) 4)
      caddr := entryCaddr bs
      cval := BitVec.ofNat 32 (field bs 0x10 4) }
  let ok := l.bandR ≤ 3 && l.pclass ≤ 2 && l.dmin ≤ l.dmax && l.acc ≤ 512 && l.barriers ≤ 96 && l.scratch ≤ 524288
    && l.code.toNat % 4 == 0 && l.param.toNat % 8 == 0 && (l.ltcount == 0 || l.ltab.toNat % 64 == 0)
    && b / 2 ^ 60 == 0 && c / 2 ^ 56 == 0 && d / 2 ^ 12 % 8 == 0 && l.teams % l.bandSize == 0
  if ok then some l else none

/-- What validating the head entry of a queue ends with (R177 to R179). -/
inductive HeadEnd where
  | fault (r : Reason)
  | page (va : Nat)
  /-- Valid, and not ready to be taken. -/
  | wait
  | marker (bs : List Byte)
  | launch (bs : List Byte) (l : Launch)
  deriving DecidableEq, Repr

/-- The value of a wait's comparison on the word read (R177). -/
def waitEntryHolds (cmp x value : Nat) : Bool :=
  cmp == 0 || waitHolds (BitVec.ofNat 3 (cmp - 1)) (BitVec.ofNat 32 x) (BitVec.ofNat 32 value)

/-- Translate the used wait words of an entry, in order (R178 order 5). -/
def State.waitWords (s : State) (asid : Nat) (ws : List (Nat × Nat × Nat)) : (List (Nat × Nat × Nat)) ⊕ (Option Nat) :=
  ws.foldl (fun acc w =>
    match acc with
    | .inr e => .inr e
    | .inl l =>
      match s.checkSystem asid w.2.1 4 4 .read with
      | .ok pa _ _ => .inl (l ++ [(w.1, pa, w.2.2)])
      | .cause .page => .inr (some w.2.1)
      | .cause _ => .inr none) (.inl [])

/-- The n bytes at an address of one line as a read by the part itself returns them. -/
def State.seenBytes (s : State) (pa n : Nat) : List Byte :=
  match s.paKind pa with
  | .peer _ => (s.peerBytes n).2
  | _ => s.physBytes pa n

/-- Validate the head entry of a queue, in the order of R178, and say whether it is ready (R177, R179). -/
def State.headEnd (s : State) (id : Nat) (q : Queue) : HeadEnd :=
  let va := q.entryAddr q.head
  match s.checkSystem q.asid va 128 128 .read with
  | .cause .page => .page va
  | .cause _ => .fault .fetch
  | .ok pa _ _ =>
    let bs := s.seenBytes pa 128
    if !(List.contains [1, 2, 3] (entryType bs)) then .fault .type
    else if entryReserved bs then .fault .reserved
    else if entryBadWait bs then .fault .wait
    else
      match s.waitWords q.asid ((entryWaits bs).filter fun w => w.1 != 0) with
      | .inr (some va) => .page va
      | .inr none => .fault .fetch
      | .inl ws =>
        let holds := ws.all fun w => waitEntryHolds w.1 (s.physRead w.2.1 4) w.2.2
        if ws.any fun w => s.paKind w.2.1 != .device then .fault .wait
        else if entryType bs = 1 then
          match launchOf bs with
          | none => .fault .record
          | some l =>
            if !s.shapeExists l then .fault .shape
            else if holds ∧ s.inFlight id < q.maxk ∧ s.kernels.length < 256 then .launch bs l
            else .wait
        else if holds ∧ (entryType bs = 2 ∨ s.inFlight id = 0) then .marker bs
        else .wait

/-- The dispatcher's reads of a queue's head entry and of its wait words at their homes, with their walks (R396). -/
def State.headTouch (s : State) (q : Queue) : State :=
  let va := q.entryAddr q.head
  let walked := s.walkIf q.asid va 128 128
  match s.checkSystem q.asid va 128 128 .read with
  | .ok pa _ _ =>
    let bs := s.seenBytes pa 128
    let used := (entryWaits bs).filter fun w => w.1 != 0
    let read := (walked.agentRead .system pa 128).1
    if entryReserved bs || entryBadWait bs then read else used.foldl (fun t w => (t.readAs .system q.asid w.2.1 4 4).1) read
  | .cause _ => walked

/-! ### Completion writes (R180, R199) -/

/-- What a completion write ends with. -/
inductive WriteEnd where
  | done (s : State)
  | page (s : State)
  | dropped (s : State)

/-- One completion write, an event at system scope (R180); nothing for a CADDR of 0. -/
def State.completionWrite (s : State) (asid : Nat) (caddr : DWord) (v : Word) : WriteEnd :=
  if caddr = 0 then .done s
  else
    match s.writeAs .system asid caddr.toNat 4 (Memory.ofNat 4 v.toNat) with
    | (s, none) => .done s
    | (s, some .page) => .page s
    | (s, some _) => .dropped s

/-- A kernel is DONE: its table entry frees, and a DRAINING queue with none left is SUSPENDED (R182, R198). -/
def State.kernelGone (s : State) (kseq : Nat) : State :=
  match s.kernels.look kseq with
  | none => s
  | some k =>
    let s := { s with kernels := s.kernels.del kseq }
    s.modQueue k.queue fun q =>
      if q.state == .draining && s.inFlight k.queue == 0 then { q with state := .suspended } else q

/-- A RETIRING kernel's completion write is performed and it is DONE (R198, R199); one whose queue or context was destroyed makes
none. Its teams have retired, so their stores are acknowledged (R197). -/
def execKernelDone (kseq : Nat) (s : State) : Result :=
  match s.kernels.look kseq with
  | none => .next s
  | some k =>
    let living := (s.kernelTeams kseq).any fun p => !p.2.retired
    if k.state ≠ .retiring ∨ living then .next s
    else if k.silent then .next (s.kernelGone kseq)
    else
      match s.completionWrite k.asid k.launch.caddr k.completion with
      | .done s => .next (s.kernelGone kseq)
      | .page s => .next (s.pageRequest k.asid k.launch.caddr.toNat .write (.completion kseq))
      | .dropped s => .next ((s.queueFault k.queue .cwrite).kernelGone kseq)

/-! ### Arbitration (R175, R179, R183) -/

/-- An agent other than the dispatcher has written n bytes at an address (R174, R175): a queue whose tail word they touch reads it
again, or, when only QPOST may post to it, goes FAULTED. The wait words are read again by the next arbitration. -/
def execWatchedLineWrite (addr n : Nat) (s : State) : Result :=
  .next (s.queues.keys.foldl (fun s id =>
    match s.queues.look id with
    | none => s
    | some q =>
      if !s.touchesTail q addr n then s
      else if q.poster then (s.modQueue id fun x => { x with tailHit := false }).queueFault id .tail
      else s.rereadTail id) s)

/-- The head of a queue advances past the entry taken (R179). -/
def State.advanceHead (s : State) (id : Nat) : State :=
  ((s.modQueue id fun q => { q with head := q.head + 1 }.settle).writeHead id).wakePosts id

/-- Take the head entry of a queue (R179, R180, R183, R193). -/
def State.takeEntry (s : State) (id : Nat) (q : Queue) : State :=
  let served := fun (s : State) => { s with lastServed := Bits.wr s.lastServed q.prio id, lastTake := some s.time.toNat }
  match s.headEnd id q with
  | .launch _ l =>
    let n := s.nextSeq
    let s := { s with
      nextSeq := n + 1
      kernels := s.kernels.put n { launch := l, queue := id, asid := q.asid, completion := l.cval } }
    served (s.advanceHead id)
  | .marker bs =>
    match s.completionWrite q.asid (entryCaddr bs) (BitVec.ofNat 32 (field bs 0x10 4)) with
    | .done s => served (s.advanceHead id)
    | .page s => s.pageRequest q.asid (entryCaddr bs).toNat .write (.marker id)
    | .dropped s => served ((s.queueFault id .cwrite).advanceHead id)
  | _ => s

/-- The dispatcher validates the head entry of an eligible queue: a failed check faults the queue, PAGE asks the pager (R178). -/
def State.validateHead (s : State) (id : Nat) : State :=
  match s.queues.look id with
  | none => s
  | some q =>
    if s.pagerWait id then s
    else if q.headUnwritten ∧ q.state ≠ .faulted then s.writeHead id
    else
      let active := match s.ctxs.look q.asid with
        | some c => c.state == .active
        | none => false
      if q.state != .running || !active then s
      else
        let end_ := s.headEnd id q
        let s := s.headTouch q
        match end_ with
        | .fault r => s.queueFault id r
        | .page va => s.queuePage id q.asid va .read
        | _ => s

/-- A queue's head entry can be taken now (R183). -/
def State.takeable (s : State) (id : Nat) (q : Queue) : Bool :=
  q.state == .running && !s.pagerWait id && !q.headUnwritten
    && (match s.ctxs.look q.asid with
      | some c => c.state == .active
      | none => false)
    && match s.headEnd id q with
      | .launch _ _ => true
      | .marker _ => true
      | _ => false

/-- Of the queues at a priority, the lowest id above the one last served, wrapping (R183). -/
def nextServed (ids : List Nat) (last : Nat) : Option Nat :=
  match ids.filter (fun i => last < i) with
  | i :: _ => some i
  | [] => ids.head?

/-- The queue that R183 picks. -/
def State.pickQueue (s : State) : Option (Nat × Queue) :=
  let ready := s.queues.filter fun p => s.takeable p.1 p.2
  (List.range 8).findSome? fun k =>
    let p := 7 - k
    match nextServed ((ready.filter fun x => x.2.prio == p).map Prod.fst) (Bits.rd s.lastServed p 1023) with
    | some id => ready.find? fun x => x.1 == id
    | none => none

/-- A checkpoint runs: the dispatcher takes no entry (R491). -/
def State.checkpointing (s : State) : Bool :=
  match s.mailbox.background with
  | some (.ckpt _) => true
  | some (.ckrestore _) => true
  | _ => false

/-- The dispatcher considers its queues and takes one head entry, at most once every 50 ns (R183). -/
def execDispatchArbitration (s : State) : Result :=
  let early := match s.lastTake with
    | some t => decide (s.time.toNat < t + 50)
    | none => false
  if early || s.checkpointing then .next s
  else
    let s := s.queues.keys.foldl State.validateHead s
    match s.pickQueue with
    | some (id, q) => .next (s.takeEntry id q)
    | none => .next s

/-! ### Instructions (R185 to R187, R200) -/

/-- The queue that a program may name (R185, first test, without POSTER and CREATED). -/
def State.ownQueue (s : State) (asid : Nat) (x : DWord) : Option Queue :=
  if 1023 < x.toNat then none
  else
    match s.queues.look x.toNat with
    | some q => if q.asid = asid then some q else none
    | none => none

/-- The ring slot and the tail word can be written, as firmware-mode writes in the queue's context: the first failing address with
its cause otherwise (R185). A tail word outside device memory, which R178 makes a TAIL fault of a read, is PERM here (DESIGN CHOICE,
log entry 61). -/
def State.postFault (s : State) (q : Queue) : Option (Cause × Nat) :=
  match s.checkSystem q.asid (q.entryAddr q.tail) 128 128 .write with
  | .cause c => some (c, q.entryAddr q.tail)
  | .ok _ _ _ =>
    match s.checkSystem q.asid q.tailAddr.toNat 8 8 .write with
    | .cause c => some (c, q.tailAddr.toNat)
    | .ok pa _ _ => if s.paKind pa != .device then some (.perm, q.tailAddr.toNat) else none

/-- The dispatcher posts an entry: its bytes, then the tail word, a release at system scope (R185). Its own write of the tail word is
not one that it watches for (R174). -/
def State.postEntry (s : State) (id : Nat) (q : Queue) (bs : List Byte) : State :=
  let s := (s.writeAs .system q.asid (q.entryAddr q.tail) 128 bs).1
  let s := (s.writeAs .system q.asid q.tailAddr.toNat 8 (Memory.ofNat 8 (q.tail + 1).toNat)).1
  s.modQueue id fun x => { x with tail := q.tail + 1, tailHit := q.tailHit }.settle

/-- A queue is full (R173). -/
def Queue.full (q : Queue) : Bool := q.size ≤ (q.tail - q.head).toNat

/-- A split waits to post, behind those that came before it (R185). -/
def State.waitPost (s : State) (cx : Cx) (id : Nat) (line : List (Nat × Nat × DWord)) : State :=
  (s.modQueue id fun q => { q with posts := if line.contains cx.waiter then line else line ++ [cx.waiter] }).waitOn cx (.post id)

/-- A split has no more to post to a queue: the next one that waits has its turn (R185). -/
def State.postDone (s : State) (cx : Cx) (id : Nat) (line : List (Nat × Nat × DWord)) : State :=
  if line.isEmpty then s
  else (s.modQueue id fun q => { q with posts := line.filter fun w => w != cx.waiter }).wakePosts id

/-- Post an entry to a queue (R185). -/
def execQpost (a b : BitVec 6) : State → Result :=
  gate { gr := [a.toNat, b.toNat], ends := true, memory := true } fun cx s =>
    let x := cx.grp.greg a.toNat
    let src := cx.grp.greg b.toNat
    match s.ownQueue cx.asid x with
    | none => .next (s.trapAll cx .perm)
    | some q =>
      if q.state == .created || !q.poster then .next (s.trapAll cx .perm)
      else
        match s.checkGlobal cx.core cx.asid cx.sp.firmware src.toNat 128 128 .read with
        | .cause .page => .next ((s.learnIf cx.core cx.asid cx.sp.firmware src.toNat 128 128).parkFault cx src .read)
        | .cause c => .next ((s.learnIf cx.core cx.asid cx.sp.firmware src.toNat 128 128).trapAll cx c src)
        | .ok _ _ _ =>
          if s.releaseWaits cx 5 then .next (s.parkRelease cx 5)
          else
            match cx.postedTrap 5 with
            | some t => .next ((s.modGroup cx.gid fun g => { g with postedFault := none }).raiseTrap cx t)
            | none =>
              let line := s.postLine q
              if q.full || line.head?.any (fun w => w != cx.waiter) then .next (s.waitPost cx x.toNat line)
              else
                let walked := s.walkIf q.asid (q.entryAddr q.tail) 128 128
                match s.postFault q with
                | some (.page, va) =>
                  .next ((walked.pageRequest q.asid va .write (.post x.toNat)).waitPost cx x.toNat line)
                | some (_, va) => .next ((walked.trapAll cx .perm (BitVec.ofNat 64 va)).postDone cx x.toNat line)
                | none =>
                  match s.readRecord cx cx.sp.firmware src 128 128 src with
                  | .stop s => .next s
                  | .bytes s bs => .next (((s.postEntry x.toNat q bs).retireG cx 27).postDone cx x.toNat line)

/-- A word store with a release at system scope, after which the dispatcher reads the wait words on its line again (R186). -/
def execQsig (a b : BitVec 6) : State → Result := groupStore a b 0b1101 4 27

/-- A snapshot of a queue (R187). -/
def queueWord (s : State) (id : Nat) (q : Queue) : DWord :=
  BitVec.ofNat 64
    (q.prio * 2 ^ 53 + s.inFlight id * 2 ^ 48 + q.reason * 2 ^ 40 + q.state.code * 2 ^ 32 + (q.tail - q.head).toNat % 2 ^ 32)

/-- Read a queue's state (R187). -/
def execQstat (a b : BitVec 6) : State → Result :=
  gate { gr := [a.toNat], gw := [b.toNat] } fun cx s =>
    let x := cx.grp.greg a.toNat
    match s.ownQueue cx.asid x with
    | none => .next (s.trapAll cx .perm)
    | some q => .next ((s.modGroup cx.gid fun g => g.setG b.toNat (queueWord s x.toNat q)).retireG cx 27)

/-- Abort the issuing group's kernel with a code (R200). -/
def execKabort (a : BitVec 6) : State → Result :=
  gate { gr := [a.toNat] } fun cx s =>
    .next ((s.retireG cx 27).abortKernel cx.team.kernel ((cx.grp.greg a.toNat).setWidth 32))

/-! ### Mailbox commands (R172, R182, R200, R486, R487) -/

/-- A queue descriptor from its 64 bytes (R172), with its initial index; none when a field is outside its values. -/
def queueOf (asid : Nat) (bs : List Byte) (index : DWord) : Option Queue :=
  let d := Memory.toNat bs
  let maxk := d / 2 ^ 200 % 32
  let q : Queue :=
    { asid := asid, maxk := maxk, poster := d / 2 ^ 199 % 2 == 1, prio := d / 2 ^ 196 % 8, logsize := d / 2 ^ 192 % 16
      headAddr := BitVec.ofNat 64 (d / 2 ^ 128), tailAddr := BitVec.ofNat 64 (d / 2 ^ 64), ringBase := BitVec.ofNat 64 d
      head := index, tail := index }
  let ok := d / 2 ^ 205 == 0 && 1 ≤ maxk && maxk ≤ 16 && 4 ≤ q.logsize && q.ringBase.toNat % 4096 == 0
    && q.headAddr.toNat % 8 == 0 && q.tailAddr.toNat % 8 == 0 && canonical q.headAddr.toNat && canonical q.tailAddr.toNat
    && canonical q.ringBase.toNat
  if ok then some q else none

/-- QCREATE once its queue id is free (R172, R173, R182): BAD_DESC when the descriptor, its read, or the first write of a word fails
a check; nothing is written then. -/
def State.createQueue (s : State) (id asid : Nat) (addr : Nat) (index : DWord) : State :=
  match s.readAs .system asid addr 64 64 with
  | (s, .inr _) => s.answer .badDesc
  | (s, .inl bs) =>
    match queueOf asid bs index with
    | none => s.answer .badDesc
    | some q =>
      let w := Memory.ofNat 8 index.toNat
      match s.checkSystem asid q.headAddr.toNat 8 8 .write, s.checkSystem asid q.tailAddr.toNat 8 8 .write with
      | .ok _ _ _, .ok pa _ _ =>
        if s.paKind pa != .device then s.answer .badDesc
        else
          let s := (s.writeAs .system asid q.headAddr.toNat 8 w).1
          let s := (s.writeAs .system asid q.tailAddr.toNat 8 w).1
          { s with queues := s.queues.put id { q with tailPa := pa } }.answer .ok
      | _, _ => ((s.walkIf asid q.headAddr.toNat 8 8).walkIf asid q.tailAddr.toNat 8 8).answer .badDesc

/-- QCREATE (R172, R487). -/
def execQCreate (payload : List Byte) : State → Result :=
  mailboxOp payload [(0, 2), (2, 2), (8, 8), (0x10, 8)] fun s =>
    let id := field payload 0 2
    let asid := field payload 2 2
    if 1023 < id then s.answer .badDesc
    else if (s.queues.look id).isSome then s.answer .badState
    else if (s.ctxs.look asid).isNone then s.answer .perm
    else s.createQueue id asid (field payload 8 8) (BitVec.ofNat 64 (field payload 0x10 8))

/-- A command on a queue that exists (R182, R487): PERM when the ASID does not own it, BAD_STATE when it does not exist. A queue id
above 1,023, for which the spec names no status, is BAD_DESC, in QCREATE too (DESIGN CHOICE, log entry 42). -/
def queueCommand (payload : List Byte) (f : Nat → Queue → State → State) : State → Result :=
  mailboxOp payload [(0, 2), (2, 2)] fun s =>
    let id := field payload 0 2
    if 1023 < id then s.answer .badDesc
    else
      match s.queues.look id with
      | none => s.answer .badState
      | some q => if q.asid ≠ field payload 2 2 then s.answer .perm else f id q s

/-- The queue is ARMED or RUNNING again, its REASON cleared, its tail read (R182). -/
def State.rearm (s : State) (id : Nat) : State := (s.modQueue id fun q => { q with state := .armed, reason := 0 }).rereadTail id

/-- QARM (R182). -/
def execQArm (payload : List Byte) : State → Result :=
  queueCommand payload fun id q s => if q.state == .created then (s.rearm id).answer .ok else s.answer .badState

/-- QDRAIN (R182). -/
def execQDrain (payload : List Byte) : State → Result :=
  queueCommand payload fun id q s =>
    if q.state == .armed || q.state == .running || q.state == .faulted then
      (s.modQueue id fun q => { q with reason := 0, state := if s.inFlight id = 0 then .suspended else .draining }).answer .ok
    else s.answer .badState

/-- Save or discard a team that is on a core: DISCARD where R157 allows it, else SAVE (R141, R182). -/
def State.preempt (s : State) (uid : Nat) : State :=
  match s.teams.look uid with
  | none => s
  | some t =>
    if t.state ≠ .resident ∨ t.retired then s
    else if s.bandDiscardable t then s.beginDiscard t
    else s.beginSave t

/-- Some team of the kernels that a test names is on a core. -/
def State.teamsOn (s : State) (p : Kernel → Bool) : Bool :=
  s.teams.any fun t =>
    t.2.state.placed && !t.2.retired && match s.kernels.look t.2.kernel with
      | some k => p k
      | none => false

/-- QSUSPEND, a background command (R182). -/
def execQSuspend (payload : List Byte) : State → Result :=
  queueCommand payload fun id q s =>
    if q.state == .armed || q.state == .running || q.state == .draining || q.state == .faulted then
      let s := s.modQueue id fun q => { q with state := .suspended, reason := 0, suspending := true }
      let kernels := (s.kernels.filter fun k => k.2.queue == id).map Prod.fst
      let teams := s.teams.filter fun t => kernels.contains t.2.kernel
      (teams.foldl (fun s t => s.preempt t.1) s).background (.qsuspend id)
    else s.answer .badState

/-- The last team of a suspending queue is saved or discarded (R182). -/
def execQSuspendComplete (queue : Nat) (s : State) : Result :=
  if s.mailbox.background = some (.qsuspend queue) ∧ !s.teamsOn (fun k => k.queue == queue) then
    .next ((s.modQueue queue fun q => { q with suspending := false }).backgroundDone .ok)
  else .next s

/-- QRESUME (R179, R182): the end of a FAULTED state writes the head word. -/
def execQResume (payload : List Byte) : State → Result :=
  queueCommand payload fun id q s =>
    if q.state == .suspended then (s.rearm id).answer .ok
    else if q.state == .faulted then ((s.rearm id).writeHead id).answer .ok
    else s.answer .badState

/-- QSKIP (R179, R182). -/
def execQSkip (payload : List Byte) : State → Result :=
  queueCommand payload fun id q s =>
    if q.state == .faulted then
      ((((s.modQueue id fun q => { q with head := q.head + 1 }).rearm id).writeHead id).wakePosts id).answer .ok
    else s.answer .badState

/-- A split whose queue, of a context, is destroyed while it waits to post raises PERM (R185). -/
def State.failPost (s : State) (id asid : Nat) (w : Nat × Nat × DWord) : State :=
  let free := fun (sp : Split) => { sp with state := .ready, wait := none, waitPulses := 0, idle := 0 }
  match s.cxByTag w.1 w.2.1 with
  | some cx =>
    if cx.sp.wait = some (.post id) ∧ cx.asid = asid then (s.modTag w.1 w.2.1 free).trapAll { cx with sp := free cx.sp } .perm else s
  | none => s

/-- Destroy a queue: its kernels' teams go with no restart and no completion write, the splits that wait to post to it raise PERM, and its
id is free (R182, R185, R198). -/
def State.destroyQueue (s : State) (id : Nat) : State :=
  let kernels := (s.kernels.filter fun k => k.2.queue == id).map Prod.fst
  let line := match s.queues.look id with
    | some q => (s.postLine q).map fun w => (q.asid, w)
    | none => []
  let s := ({ s with queues := s.queues.del id } : State).dropRequesters fun r => r == .dispatcher id || r == .marker id || r == .post id
  (line.foldl (fun s w => s.failPost id w.1 w.2) (kernels.foldl (fun s k => s.destroyKernel k) s))

/-- QDESTROY (R182). -/
def execQDestroy (payload : List Byte) : State → Result :=
  queueCommand payload fun id _ s => (s.destroyQueue id).answer .ok

/-- QPOSTH: a post by the host that never waits (R486, R487): FULL too while QPOSTs that came before it wait for their turn (R185;
DESIGN CHOICE, log entry 61). -/
def execQPostHost (payload : List Byte) : State → Result :=
  mailboxOp payload [(0, 2), (2, 2), (8, 128)] fun s =>
    let id := field payload 0 2
    match s.ownQueue (field payload 2 2) (BitVec.ofNat 64 id) with
    | none => s.answer .perm
    | some q =>
      if q.state == .created then s.answer .badState
      else if !q.poster then s.answer .perm
      else if q.full || !(s.postLine q).isEmpty then s.answer .full
      else if (s.postFault q).isSome then (s.walkIf q.asid (q.entryAddr q.tail) 128 128).answer .perm
      else (s.postEntry id q ((payload.drop 8).take 128)).answer .ok (List.replicate 4 0 ++ Memory.ofNat 8 q.tail.toNat)

/-- KABORTH (R200, R487): the groups halted by traps stop too, for every team of the kernel ends. -/
def execKAbortHost (payload : List Byte) : State → Result :=
  mailboxOp payload [(0, 2), (8, 8), (0x10, 4)] fun s =>
    let n := field payload 8 8
    if n = 0 ∨ s.nextSeq ≤ n then s.answer .badDesc
    else
      match s.kernels.look n with
      | none => s.answer .badState
      | some k =>
        if k.state = .retiring then s.answer .badState
        else if k.asid ≠ field payload 0 2 then s.answer .perm
        else (s.abortKernel n (BitVec.ofNat 32 (field payload 0x10 4))).answer .ok

end Sys2Proof.Machine
end

