-- ==== Sys2Proof/Machine/Interposer.lean ====
section
/-! DEFINITION. Links, lane maps, routes, comb sources and scale-up ports (R447 to R457, R471). A link is numbered
2 × (36 i + j) + plane, a pair 36 i + j; a scale-up port p takes the link number 4096 + p. -/

namespace Sys2Proof.Machine

/-- A link; one that is not listed is as at boot. -/
def State.link (s : State) (k : Nat) : Link := s.links.lookD k {}

/-- Change a link. -/
def State.modLink (s : State) (k : Nat) (f : Link → Link) : State := { s with links := s.links.put k (f (s.link k)) }

/-- A pair. -/
def State.pair (s : State) (k : Nat) : Pair := s.pairs.lookD k {}

/-- Change a pair. -/
def State.modPair (s : State) (k : Nat) (f : Pair → Pair) : State := { s with pairs := s.pairs.put k (f (s.pair k)) }

/-- Two populated ports, i ≠ j (R15, R447). -/
def validPair (k : Nat) : Bool := k / 36 < 34 && k % 36 < 34 && k / 36 != k % 36

/-- The colour of a pair (R15, R447). -/
def colourOf (k : Nat) : Nat := (k % 36 + 36 - k / 36) % 36

/-- The other plane's link. -/
def otherPlane (link : Nat) : Nat := if link % 2 = 0 then link + 1 else link - 1

/-- The key of a lane map entry (R450, R472). -/
def laneKey (port plane half colour : Nat) : Nat := ((2 * port + plane) * 2 + half) * 64 + colour

/-- A lane map entry; at boot, in both halves: in use, fed by the active source of its colour, on every lane (R16, R17; log entry 6). -/
def State.laneEntry (s : State) (port plane half colour : Nat) : BitVec 16 :=
  s.laneMaps.lookD (laneKey port plane half colour)
    (if 1 ≤ colour ∧ colour ≤ 35 then BitVec.ofNat 16 (0x80FF + colour / 4 * 256) else 0)

/-- Write a lane map entry. -/
def State.setLaneEntry (s : State) (port plane half colour : Nat) (x : BitVec 16) : State :=
  { s with laneMaps := s.laneMaps.put (laneKey port plane half colour) x }

/-- The entries of a half of a link engine's lane map, colour by colour. -/
def State.laneHalf (s : State) (port plane half : Nat) : List (BitVec 16) := (List.range 36).map (s.laneEntry port plane half)

/-- A link engine's ACTIVE half takes the entries of a list (R451). -/
def State.setActive (s : State) (port plane : Nat) (xs : List (BitVec 16)) : State :=
  ((List.range 36).drop 1).foldl (fun s c => s.setLaneEntry port plane 0 c (xs.getD c 0)) s

/-- A link engine loads its SHADOW half into ACTIVE (R451). -/
def State.loadShadow (s : State) (port plane : Nat) : State := s.setActive port plane (s.laneHalf port plane 1)

/-- The transmitter's ACTIVE entry of a link's colour. -/
def State.txEntry (s : State) (link : Nat) : BitVec 16 := s.laneEntry (link / 2 / 36) (link % 2) 0 (colourOf (link / 2))

/-- The receiver's ACTIVE entry of a link's colour. -/
def State.rxEntry (s : State) (link : Nat) : BitVec 16 := s.laneEntry (link / 2 % 36) (link % 2) 0 (colourOf (link / 2))

/-- The comb source of a lane map entry (R450). -/
def laneSource (e : BitVec 16) : Nat := e.toNat / 256 % 16

/-- Light reaches a link (R17, R450, R455): its colour is in use and its entry names the source that feeds the colour's position, a spare
steered there or else the active source of it; that source has not failed, and the rings of the position are locked. -/
def State.lit (s : State) (link : Nat) : Bool :=
  let plane := link % 2
  let position := colourOf (link / 2) / 4
  let e := s.txEntry link
  let source := match s.steered.find? fun r => r.1 == plane && r.2.2 == position with
    | some r => r.2.1
    | none => position
  e.getLsbD 15 && laneSource e == source && !s.failedSources.contains (11 * plane + source)
    && !s.relocking.any fun r => r.1 == plane && r.2.2.1 == position

/-! ### Routes (R452 to R454) -/

/-- A field of a route register. -/
def routeField (r : BitVec 32) (lo n : Nat) : Nat := r.toNat / 2 ^ lo % 2 ^ n

/-- MODE (R452). -/
def Pair.mode (p : Pair) : Nat := routeField p.route 0 2

/-- A route register with another MODE and RELAY. -/
def setRoute (r : BitVec 32) (mode relay : Nat) : BitVec 32 :=
  BitVec.ofNat 32 (r.toNat / 256 * 256 + relay % 64 * 4 + mode % 4)

/-- A chiplet in service, by its interposer port (R15, R22, R26). -/
def State.portInService (s : State) (p : Nat) : Bool :=
  if p < 16 then !s.absentChips.getLsbD p
  else if p < 32 then !s.fenceMap.getLsbD (192 + p - 16)
  else p < 34 && !s.fenceMap.getLsbD (208 + p - 32)

/-- Both ports of a pair are in service (R22). -/
def State.pairInService (s : State) (k : Nat) : Bool := s.portInService (k / 36) && s.portInService (k % 36)

/-- A port can relay a pair (R452). -/
def State.relayOk (s : State) (pair r : Nat) : Bool :=
  let i := pair / 36
  let j := pair % 36
  r < 32 && r != i && r != j && s.portInService r && !(s.pair (36 * i + r)).down && !(s.pair (36 * r + j)).down

/-- A link's states after which it carries nothing of its own. -/
def LinkState.failed (x : LinkState) : Bool := x == .half || x == .relay || x == .down

/-- No link or relay can carry a pair (R453): every context stops with a record, and the part is reported failed. -/
def State.pairDown (s : State) (k : Nat) : State :=
  if (s.pair k).down then s
  else
    let s := (s.modLink (2 * k) fun l => { l with state := .down }).modLink (2 * k + 1) fun l => { l with state := .down }
    let s := s.modPair k fun p => { p with down := true }
    let s := s.ctxs.keys.foldl (fun s a => (s.trapRecord a { time := s.time, cause := .softError }).faultCtx a) s
    s.report .partFailed

/-- Pairs whose relay can carry them no more are DOWN too (R453). -/
def State.settlePairs (s : State) (fuel : Nat) : State :=
  match fuel with
  | 0 => s
  | fuel + 1 =>
    match s.pairs.find? fun p => !p.2.down && p.2.mode == 3 && !s.relayOk p.1 (routeField p.2.route 2 6) with
    | some p => (s.pairDown p.1).settlePairs fuel
    | none => s

/-- What names a flit on the links of a pair: its SEQ, or its pair and SEQ when a relay carries it. -/
def Flit.key (f : Flit) : Nat :=
  match f.pair with
  | none => f.seq
  | some k => 4096 * (k + 1) + f.seq

/-- Flits sent on a link that has failed, to be sent again on the pair's chosen path (R454). -/
def State.keepFlits (s : State) (link : Nat) : State :=
  let kept := (s.link link).replay.map Flit.key
  (s.modLink link fun l => { l with toSend := [], resent := [] }).modPair (link / 2) fun p =>
    { p with resend := p.resend ++ kept.filter fun x => !p.resend.contains x }

/-- A link fails (R453, R454): HALF or RELAY by FAILOVER, RELAY or DOWN when the pair's other link has failed too. Its
unacknowledged flits are kept, to be sent again on the chosen path. -/
def State.failLink (s : State) (link : Nat) : State :=
  let k := link / 2
  let l := s.link link
  if l.state.failed || !validPair k then s
  else
    let r := (s.pair k).route
    let frelay := routeField r 16 6
    let both := (s.link (otherPlane link)).state.failed
    let s := (s.modLink link fun l => { l with naks := 0, swap := false, swapWait := false }).keepFlits link
    if (routeField r 8 2 = 0 ∨ !s.relayOk k frelay) ∧ !both then
      (s.modLink link fun l => { l with state := .half }).modPair k fun p =>
        { p with route := setRoute p.route (if link % 2 = 0 then 2 else 1) (routeField p.route 2 6) }
    else if s.relayOk k frelay then
      let s := s.modLink link fun l => { l with state := .relay }
      let s := if both then s.modLink (otherPlane link) fun l => { l with state := .relay } else s
      s.modPair k fun p => { p with route := setRoute p.route 3 frelay }
    else (s.pairDown k).settlePairs 1296

/-- A list with a number in it, once. -/
def addOnce (xs : List Nat) (x : Nat) : List Nat := if xs.contains x then xs else xs ++ [x]

/-- Loss of light or lock fails a link (R454); firmware records the colour, which is fenced at the next boot (R25). -/
def execLinkFailure (link : Nat) (s : State) : Result :=
  if !validPair (link / 2) then .next s
  else
    .next ((s.failLink link).recordConfig fun c =>
      { c with colours := c.colours ||| BitVec.twoPow 128 (64 * (link % 2) + colourOf (link / 2)) })

/-- The links of a plane that a test of their pairs names. -/
def linksWhere (plane : Nat) (p : Nat → Bool) : List Nat :=
  ((List.range 1296).filter fun k => validPair k && p k).map fun k => 2 * k + plane

/-- A comb source stops: the link of every pair whose colour it feeds fails (R454), and firmware records it (R25). -/
def execCombSourceFailure (plane source : Nat) (s : State) : Result :=
  if 2 ≤ plane ∨ 11 ≤ source then .next s
  else
    let fed := linksWhere plane fun k =>
      let e := s.laneEntry (k / 36) plane 0 (colourOf k)
      e.getLsbD 15 && e.toNat / 256 % 16 == source
    let n := 11 * plane + source
    let s := { s with failedSources := addOnce s.failedSources n }
    .next ((fed.foldl (fun s k => s.failLink k) s).recordConfig fun c => { c with sources := addOnce c.sources n })

/-- The fields of a route register, and not its reserved bits (R2, R452). -/
def routeBits : Nat := 0x3F03FF

/-- Firmware writes a route register (R452, R453); a value outside its fields is ignored (R472), reserved bits are (R2). A pair with an
absent port stays DOWN (R22), and a link that no light reaches fails again (R17). -/
def State.writeRoute (s : State) (k value : Nat) : State :=
  let value := (BitVec.ofNat 32 value &&& BitVec.ofNat 32 routeBits).toNat
  let mode := value % 4
  let ok := validPair k && value / 2 ^ 8 % 4 < 2 && value / 4 % 64 < 34 && value / 2 ^ 16 < 34
  if !ok then s
  else if !s.pairInService k then s.modPair k fun p => { p with route := BitVec.ofNat 32 value }
  else
    let s := s.modPair k fun p => { p with route := BitVec.ofNat 32 value, down := false }
    let to_ := fun (s : State) (plane : Nat) (x : LinkState) => s.modLink (2 * k + plane) fun l => { l with state := x, naks := 0 }
    let s := match mode with
      | 0 => to_ (to_ s 0 .up) 1 .up
      | 1 => to_ (to_ s 0 .up) 1 .half
      | 2 => to_ (to_ s 0 .half) 1 .up
      | _ => to_ (to_ s 0 .relay) 1 .relay
    let s := if mode = 3 ∧ !s.relayOk k (value / 4 % 64) then (s.pairDown k).settlePairs 1296 else s
    [2 * k, 2 * k + 1].foldl (fun s l => if (s.link l).state == .up && !s.lit l then s.failLink l else s) s

/-- Firmware writes a route register (R453). -/
def execRouteWrite (pair value : Nat) (s : State) : Result := .next (s.writeRoute pair value)

/-! ### Flits (R448, R449) -/

/-- The header of a flit in its 72 bytes. -/
def flitHeader (bs : List Byte) : Nat := Memory.toNat ((bs.drop 64).take 8)

/-- The CRC of a flit (R448): over the payload and header bits [63:32]. -/
def flitCrc (bs : List Byte) : BitVec 32 :=
  Bits.crc 0x04C11DB7 0xFFFFFFFF (bs.take 64 ++ Memory.ofNat 4 (flitHeader bs / 2 ^ 32))

/-- A flit arrived intact (R448): 72 bytes, a listed TYPE, the right CRC. -/
def flitIntact (bs : List Byte) : Bool :=
  bs.length == 72 && flitHeader bs / 2 ^ 48 % 16 ≤ 5 && flitHeader bs % 2 ^ 32 == (flitCrc bs).toNat

/-- The 72 bytes of a flit of a type (R448). -/
def flitBytes (f : Flit) (type : Nat) : List Byte :=
  let body := (List.range 64).map fun k => f.payload.getD k 0
  let head := f.seq % 4096 * 2 ^ 52 + type * 2 ^ 48
  body ++ Memory.ofNat 8 (head + (flitCrc (body ++ Memory.ofNat 8 head)).toNat)

/-- The receiver has had a SEQ: delivered it, or holds it (R448). -/
def Pair.has (p : Pair) (seq : Nat) : Bool := 2048 ≤ (seq + 4096 - p.expect) % 4096 || p.early.any fun f => f.seq == seq

/-- Deliver the flits that are next in order (R448). -/
def Pair.deliver (p : Pair) (fuel : Nat) : Pair :=
  match fuel with
  | 0 => p
  | fuel + 1 =>
    match p.early.find? fun f => f.seq == p.expect with
    | some f =>
      ({ p with early := p.early.filter fun g => g.seq != f.seq, expect := (p.expect + 1) % 4096, delivered := p.delivered + 1 } : Pair).deliver fuel
    | none => p

/-- A link may carry flits (R17, R22, R452, R453): its ports are in service, light reaches it, and its pair's route uses its plane. -/
def State.carries (s : State) (link : Nat) : Bool :=
  let p := s.pair (link / 2)
  !p.down && !(s.link link).state.failed && s.pairInService (link / 2) && s.lit link
    && match p.mode with
      | 0 => true
      | 1 => link % 2 == 0
      | 2 => link % 2 == 1
      | _ => false

/-- The ports that a flit at a port visits, given those that it has to reach in turn: the relay of a pair with MODE 3 comes before the
pair's own end (R452). -/
def State.route (s : State) (port : Nat) (to_ : List Nat) (fuel : Nat) : List Nat :=
  match fuel, to_ with
  | 0, _ => to_
  | _, [] => []
  | fuel + 1, t :: rest =>
    let p := s.pair (36 * port + t)
    if p.mode = 3 then s.route port (routeField p.route 2 6 :: t :: rest) fuel else t :: rest

/-- A flit of a pair as it leaves a port, with the ports that it has to reach in turn: the next port, and the flit as the replay buffer holds
it. One that goes straight to its pair's end is the link's own. -/
def State.leaving (s : State) (pair port : Nat) (to_ : List Nat) (f : Flit) : Option (Nat × Flit) :=
  match s.route port to_ 36 with
  | [] => none
  | b :: rest =>
    let own := 36 * port + b == pair && rest.isEmpty
    some (b, { seq := f.seq, payload := f.payload, pair := if own then none else some pair, path := rest })

/-- The flit that a port may send next on a link, and the state in which it is sent (R448, R449, R452, R454): those that a NAK named first;
then those that failed links have kept, whose custody it takes; then those that wait at it to be relayed; last a new one. Without room in
the replay buffer, or while a swap runs, nothing but the first. -/
def State.nextFlit (s : State) (link key : Nat) (payload : List Byte) : Option (Flit × State) :=
  let l := s.link link
  let port := link / 2 / 36
  let b := link / 2 % 36
  let put := fun (s : State) (f : Flit) => s.modLink link fun l => { l with replay := l.replay ++ [f] }
  let pair := if key < 4096 then link / 2 else key / 4096 - 1
  match l.toSend with
  | x :: rest =>
    if x ≠ key then none
    else (l.replay.find? fun f => f.key == key).map fun f => (f, s.modLink link fun l => { l with toSend := rest })
  | [] =>
    if l.swap && !l.swapWait || 256 ≤ l.replay.length then none
    else
      -- flits of a pair of this port that its failed links have kept
      let kept := (List.range 36).findSome? fun t =>
        match (s.pair (36 * port + t)).resend with
        | x :: _ =>
          let holders := [2 * (36 * port + t), 2 * (36 * port + t) + 1]
          match (holders.flatMap fun h => (s.link h).replay).find? fun f => f.key == x with
          | some f =>
            match s.leaving (f.pair.getD (36 * port + t)) port (t :: f.path) f with
            | some (b', f') => if b' == b && f'.key == key then some (t, x, f', holders) else none
            | none => none
          | none => none
        | [] => none
      match kept with
      | some (t, x, f, holders) =>
        let s := holders.foldl (fun (s : State) h => s.modLink h fun l => { l with replay := l.replay.filter fun g => g.key != x }) s
        some (f, put (s.modPair (36 * port + t) fun p => { p with resend := p.resend.drop 1 }) f)
      | none =>
        if !(s.pair (link / 2)).resend.isEmpty then none
        else
          match (s.relayed.find? fun r => r.1 == port && r.2.pair == some pair) with
          | some r =>
            match s.leaving pair port r.2.path r.2 with
            | some (b', f) =>
              if b' == b && f.key == key then some (f, put { s with relayed := s.relayed.erase r } f) else none
            | none => none
          | none =>
            let seq := key % 4096
            if pair / 36 ≠ port ∨ !validPair pair ∨ seq ≠ (s.pair pair).nextSeq ∨ !(s.pair pair).resend.isEmpty then none
            else
              match s.leaving pair port [pair % 36] { seq := seq, payload := payload } with
              | some (b', f) =>
                if b' == b && f.key == key then some (f, (put s f).modPair pair fun p => { p with nextSeq := (seq + 1) % 4096 }) else none
              | none => none

/-- The entries of both ends of a link agree, and have the colour in use, for a flit on it (R450, R451): flits before a swap's first one
travel under the old maps. -/
def State.mapsAgree (s : State) (link key : Nat) : Bool :=
  let l := s.link link
  let old := l.oldFlits.contains key
  let ends := match old, l.before, l.rxOld with
    | true, some p, _ => p
    | true, none, some half => (s.txEntry link, half.getD (colourOf (link / 2)) 0)
    | _, _, _ => (s.txEntry link, s.rxEntry link)
  ends.1 == ends.2 && ends.1.getLsbD 15

/-- A receiver whose transmitter has kept its old map restores its own when it receives a flit under it (R451). -/
def State.restoreHalf (s : State) (link : Nat) : State :=
  match (s.link link).rxOld, (s.link link).swap with
  | some old, false => (s.setActive (link / 2 % 36) (link % 2) old).modLink link fun l => { l with rxOld := none }
  | _, _ => s

/-- A flit sent on a link arrives intact (R448, R452): at its pair's end it is held or delivered in SEQ order, once; at a relay it waits to
go on. Either way the link's receiver acknowledges it. -/
def State.receiveFlit (s : State) (link : Nat) (f : Flit) (received : List Byte) : State :=
  let got := flitHeader received / 2 ^ 52
  let b := link / 2 % 36
  let k := f.pair.getD (link / 2)
  let s := if f.path.isEmpty then
      if (s.pair k).has got then s
      else s.modPair k fun p =>
        ({ p with early := p.early ++ [{ seq := got, payload := received.take 64 }] } : Pair).deliver (p.early.length + 1)
    else { s with relayed := s.relayed ++ [(b, { f with payload := received.take 64, pair := some k })] }
  s.later (.linkAck link f.key)

/-- A DATA flit, named by its key, is sent on a link and received as the bytes `received` (R448, R449, R450): one that arrives intact under
maps that agree goes on; otherwise a NAK names the link's first flit not received. -/
def execLinkData (link key : Nat) (payload received : List Byte) (s : State) : Result :=
  if !validPair (link / 2) || !s.carries link then .next s
  else
    match s.nextFlit link key payload with
    | none => .next s
    | some (f, s) =>
      let s := s.restoreHalf link
      if !flitIntact received || !s.mapsAgree link key then
        let lost := (s.link link).replay.find? fun g => g.key == key || (g.pair.isNone && !(s.pair (link / 2)).has g.seq)
        .next (s.later (.linkNak link ((lost.map Flit.key).getD key)))
      else if flitHeader received / 2 ^ 48 % 16 ≠ 1 then .next s
      else .next (s.receiveFlit link f received)

/-- A swap starts (R451, R453): the transmitter sends MAPSWAP with the SEQ of the first flit under the new map. -/
def State.startSwap (s : State) (link : Nat) : State :=
  let n := (s.pair (link / 2)).nextSeq
  (s.modLink link fun l =>
    { l with
      swapWait := false
      swapSeq := n
      swapAt := s.time.toNat
      oldFlits := l.replay.map Flit.key
      before := none
      state := if l.state == .up then .remap else l.state }).later (.mapSwap link)

/-- An ACK frees the flit from the replay buffers of its pair (R449); once every flit sent again is acknowledged, the link is UP, and a swap
that has waited for it starts (R453). -/
def execLinkAck (link key : Nat) (s : State) : Result :=
  if 4096 ≤ link then
    let p := link - 4096
    .next (if s.ports.look p = some .replay then { s with ports := s.ports.put p .up } else s)
  else
    let free := fun (l : Link) =>
      let rest := l.resent.filter fun n => n != key
      let l := { l with
        replay := l.replay.filter fun f => f.key != key
        resent := rest
        toSend := l.toSend.filter fun n => n != key
        oldFlits := l.oldFlits.filter fun n => n != key }
      if l.state == .replay && rest.isEmpty then { l with state := .up, naks := 0 } else l
    if !validPair (link / 2) then .next s
    else
      let s := ((s.modLink link free).modLink (otherPlane link) free).modPair (link / 2) fun p =>
        { p with resend := p.resend.filter fun n => n != key }
      .next ([link, otherPlane link].foldl (fun s k =>
        if (s.link k).swapWait && (s.link k).state != .replay then s.startSwap k else s) s)

/-- A list from the first element that a test names on. -/
def fromFirst {α : Type} (p : α → Bool) (xs : List α) : List α := xs.dropWhile fun x => !p x

/-- A NAK has the link's unacknowledged flits from the named one sent again, in order, before any new one (R449); the eighth in a row that
names one flit fails the link (R453). -/
def execLinkNak (link key : Nat) (s : State) : Result :=
  if 4096 ≤ link then
    let p := link - 4096
    .next (if s.ports.look p = some .up ∨ s.ports.look p = some .replay then
        { s with ports := s.ports.put p .replay, portReplays := s.portReplays.put p (min 65535 (s.portReplays.lookD p 0 + 1)) }
      else s)
  else
    let l := s.link link
    if l.state.failed || !validPair (link / 2) then .next s
    else
      let n := if l.naks ≠ 0 ∧ l.nakSeq = key then l.naks + 1 else 1
      let later := fun (f : Flit) => f.key == key
        || (f.pair.isNone && decide (key < 4096) && decide ((f.seq + 4096 - key) % 4096 < 2048))
      let again := (fromFirst later l.replay).map Flit.key
      let s := s.modLink link fun l =>
        { l with
          nakSeq := key
          naks := n
          resent := again
          toSend := again
          replays := min 65535 (l.replays + 1)
          state := if l.state == .up then .replay else l.state }
      .next (if 8 ≤ n ∧ (s.link link).state = .replay then s.failLink link else s)

/-! ### Lane-map swaps (R451) -/

/-- SWAP is written (R451, R453): the swap starts, or waits for the end of a replay (DESIGN CHOICE, log entry 6). -/
def State.requestSwap (s : State) (link : Nat) : State :=
  let l := s.link link
  if l.swap || l.state == .down || !validPair (link / 2) then s
  else if l.state == .replay then s.modLink link fun l => { l with swap := true, swapWait := true }
  else (s.modLink link fun l => { l with swap := true }).startSwap link

/-- Firmware asks for a lane-map swap (R451). -/
def execLinkctlSwap (link : Nat) (s : State) : Result := .next (s.requestSwap link)

/-- Firmware clears SWFAIL (R472). -/
def State.clearSwfail (s : State) (link : Nat) : State :=
  if (s.link link).swfail then s.modLink link fun l => { l with swfail := false } else s

/-- A write of 1 clears SWFAIL (R472). -/
def execLinkctlSwfailClear (link : Nat) (s : State) : Result := .next (s.clearSwfail link)

/-- The receiving engine loads its SHADOW half into ACTIVE and answers MAPACK (R451). -/
def execMapSwap (link : Nat) (s : State) : Result :=
  let port := link / 2 % 36
  if !(s.link link).swap || (s.link link).swapWait then .next s
  else
    let old := s.laneHalf port (link % 2) 0
    .next (((s.loadShadow port (link % 2)).modLink link fun l => { l with rxOld := some old }).later (.mapAck link))

/-- The transmitting engine goes on under the new map (R451); flits before the swap's first one still travel under the old. A failed link
whose colour is restored is UP (R453, R455). -/
def execMapAck (link : Nat) (s : State) : Result :=
  let l := s.link link
  if !l.swap || l.swapWait then .next s
  else
    let half := l.rxOld.getD (s.laneHalf (link / 2 % 36) (link % 2) 0)
    let old := (s.txEntry link, half.getD (colourOf (link / 2)) 0)
    .next ((s.loadShadow (link / 2 / 36) (link % 2)).modLink link fun l =>
      { l with swap := false, rxOld := none, before := some old, naks := 0, state := if l.state == .down then .down else .up })

/-- No MAPACK within 10 µs: the old map stays, SWFAIL is set and firmware told (R451). -/
def execMapAckTimeout (link : Nat) (s : State) : Result :=
  let l := s.link link
  if !l.swap || l.swapWait || s.time.toNat < l.swapAt + 10000 then .next s
  else
    .next ((s.modLink link fun l =>
      { l with swap := false, swfail := true, state := if l.state == .remap then .up else l.state }).report (.swapFailed link))

/-! ### Comb sources (R17, R455) -/

/-- A source's trend monitors warn (R455). -/
def execAgeingInterrupt (plane source : Nat) (s : State) : Result := .next (s.report (.ageing plane source))

/-- Firmware retunes the rings that steer a spare into a position (R17, R455): their lock bits clear, so the links of the position's
colours that still ran fail, with those of the position that the spare has left, and they relock. -/
def execRingRetune (plane spare position : Nat) (s : State) : Result :=
  if 2 ≤ plane ∨ ¬ (spare = 9 ∨ spare = 10) ∨ 9 ≤ position then .next s
  else
    let left := (s.steered.filter fun r => r.1 == plane && r.2.1 == spare).map fun r => r.2.2
    let links := linksWhere plane fun k => (position :: left).contains (colourOf k / 4)
    let s := links.foldl (fun s k => s.failLink k) s
    .next { s with
      relocking := (s.relocking.filter fun r => !(r.1 == plane && r.2.1 == spare)) ++ [(plane, spare, position, s.time.toNat)]
      steered := s.steered.filter fun r => !(r.1 == plane && (r.2.1 == spare || r.2.2 == position)) }

/-- The rings have locked, 40 µs after retuning (R17, R455). -/
def execRingLock (plane spare position : Nat) (s : State) : Result :=
  match s.relocking.find? fun r => r.1 == plane && r.2.1 == spare && r.2.2.1 == position with
  | none => .next s
  | some r =>
    if s.time.toNat < r.2.2.2 + 40000 then .next s
    else .next { s with relocking := s.relocking.filter fun x => x != r, steered := s.steered ++ [(plane, spare, position)] }

/-! ### Scale-up ports (R456, R457) -/

/-- The ports that reach a peer (R457): every port until firmware or a failure says otherwise (DESIGN CHOICE, log entry 28). -/
def State.portMask (s : State) (device : Nat) : BitVec 20 := s.portMasks.lookD device (BitVec.allOnes 20)

/-- A scale-up port's bridge chiplet is in service (R22, R456). -/
def State.portPresent (s : State) (port : Nat) : Bool := port < 20 && s.portInService (32 + port / 10)

/-- The port on which an access to a peer travels (R457). -/
def State.portOf (s : State) (device granule : Nat) : Option Nat :=
  let ps := (List.range 20).filter fun k => (s.portMask device).getLsbD k && s.portPresent k
  if ps.isEmpty then none else ps[Config.portHash granule % ps.length]?

/-- A port finishes training (R456); those of a fenced bridge chiplet are absent (R22). -/
def execPortUp (port : Nat) (s : State) : Result :=
  if !s.portPresent port then .next s
  else
    match s.ports.look port with
    | none => .next { s with ports := s.ports.put port .up }
    | some .training => .next { s with ports := s.ports.put port .up }
    | some _ => .next s

/-- A port goes DOWN and leaves every mask; what it carried travels on the ports that the hash then selects (R457). -/
def execPortDown (port : Nat) (s : State) : Result :=
  if 20 ≤ port then .next s
  else
    .next { s with
      ports := s.ports.put port .down
      portMasks := (List.range 64).foldl (fun m d => m.put d (s.portMask d &&& ~~~ BitVec.twoPow 20 port)) s.portMasks }

/-! ### LSTAT (R471) -/

/-- STATE of a link. -/
def LinkState.code (x : LinkState) : Nat :=
  match x with
  | .up => 0
  | .replay => 1
  | .remap => 2
  | .half => 3
  | .relay => 4
  | .down => 5

/-- STATE of a port. -/
def PortState.code (x : PortState) : Nat :=
  match x with
  | .up => 0
  | .replay => 1
  | .down => 5
  | .training => 6

/-- The snapshot of a link. -/
def State.linkWord (s : State) (link : Nat) : DWord :=
  let k := link / 2
  let l := s.link link
  let r := (s.pair k).route
  let e := (s.laneEntry (k / 36) (link % 2) 0 (colourOf k)).toNat
  BitVec.ofNat 64
    (l.replays * 2 ^ 48 + routeField r 2 6 * 2 ^ 34 + routeField r 0 2 * 2 ^ 32 + e / 256 % 16 * 2 ^ 28 + e % 256 * 2 ^ 20
      + colourOf k * 2 ^ 14 + l.state.code)

/-- The snapshot of a port. -/
def State.portWord (s : State) (p : Nat) : DWord :=
  BitVec.ofNat 64
    (s.portReplays.lookD p 0 * 2 ^ 48 + Config.deviceNumber.toNat * 2 ^ 32 + (s.ports.lookD p .training).code)

/-- What LSTAT names; none when a field is outside its values. -/
def State.linkSnapshot (s : State) (x : DWord) : Option DWord :=
  let n := x.toNat
  let i := n % 64
  let j := n / 64 % 64
  let plane := n / 2 ^ 12 % 2
  if 2 ^ 16 ≤ n ∨ n / 2 ^ 13 % 4 ≠ 0 then none
  else if n / 2 ^ 15 = 1 then if plane = 0 ∧ j = 0 ∧ i < 20 then some (s.portWord i) else none
  else if i < 34 ∧ j < 34 ∧ i ≠ j then some (s.linkWord (2 * (36 * i + j) + plane))
  else none

/-- Read the state of a link or port (R471). -/
def execLstat (a b : BitVec 6) : State → Result :=
  gate { gr := [a.toNat], gw := [b.toNat] } fun cx s =>
    let x := cx.grp.greg a.toNat
    match s.linkSnapshot x with
    | none => .next (s.trapAll cx .perm x)
    | some w => .next ((s.modGroup cx.gid fun g => g.setG b.toNat w).retireG cx 28)

end Sys2Proof.Machine
end

