-- ==== Sys2Proof/Machine/Power.lean ====
section
/-! DEFINITION. The management register space (R472), and the events that act on clamps, rails and droop windows (R476 to R480). -/

namespace Sys2Proof.Machine

/-! ### Reading the register space (R472) -/

/-- Bits [64k + 63 : 64k] of a register block. -/
def word64 {w : Nat} (x : BitVec w) (k : Nat) : Nat := x.toNat / 2 ^ (64 * k) % 2 ^ 64

/-- The counters of a quadrant (R255). -/
def Quad.counter (q : Quad) (k : Nat) : Nat :=
  match k with
  | 0 => q.lookups.toNat
  | 1 => q.hits.toNat
  | 2 => q.made.toNat
  | _ => q.kills.toNat

/-- WTAB of a core (R474): every entry is 8 at boot. -/
def State.wtab (s : State) (c : Nat) : BitVec 128 := s.wtabs.lookD c 0x88888888888888888888888888888888

/-- A register of core c at offset `o` of its block (R474, R475, R477, R255); those of a fenced core read as zero. -/
def State.coreReg (s : State) (c o : Nat) : Nat :=
  let x := s.core c
  if !s.inService c then 0
  else
    match o / 8 with
    | 0 => x.dk * 2 ^ 52 + x.ctgt * 2 ^ 28 + x.account
    | 1 => word64 (s.wtab c) 0
    | 2 => word64 (s.wtab c) 1
    | 3 => x.eff.toNat * 2 ^ 16 + x.ckpat.toNat
    | 4 => x.drCount * 2 ^ 32 + x.drEnable.toNat * 2 ^ 16 + x.drLevel
    | n => if 8 ≤ n ∧ n < 24 then (s.quad (4 * c + (n - 8) / 4)).counter ((n - 8) % 4) else 0

/-- A register of the management register space, by its byte offset (R472); an offset that no row lists reads as zero. -/
def State.regValue (s : State) (off : Nat) : Nat :=
  if off % 8 ≠ 0 then 0
  else if off < 0x20 then word64 s.fenceMap (off / 8)
  else if 0x100 ≤ off ∧ off < 0x300 then word64 s.shareFault ((off - 0x100) / 8)
  else if off = 0x400 then s.survivors
  else if off = 0x408 then s.plim * 2 ^ 32 + s.ilim
  else if off = 0x410 then s.wdlim
  else if 0x10000 ≤ off ∧ off < 0x10000 + 0x100 * 192 then s.coreReg ((off - 0x10000) / 0x100) (off % 0x100)
  else if 0x20000 ≤ off ∧ off < 0x20000 + 8 * 1296 then
    if validPair ((off - 0x20000) / 8) then (s.pair ((off - 0x20000) / 8)).route.toNat else 0
  else if 0x24000 ≤ off ∧ off < 0x24000 + 16 * 1296 then
    let l := s.link ((off - 0x24000) / 8)
    if validPair ((off - 0x24000) / 16) then l.swap.toNat + 2 * l.swfail.toNat else 0
  else if 0x30000 ≤ off ∧ off < 0x30000 + 0x400 * 68 then
    let o := off - 0x30000
    let colour := o % 0x200 / 8
    if 1 ≤ colour ∧ colour ≤ 35 then (s.laneEntry (o / 0x800) (o / 0x400 % 2) (o / 0x200 % 2) colour).toNat else 0
  else 0

/-! ### Writing it (R472, R474, R475, R477, R482) -/

/-- A register write of a core, its fields within their values (R474, R475, R477); a write outside them leaves the core as it is. What is
written to reserved bits and to read-only fields is ignored (R2). -/
def CoreSt.writeReg (x : CoreSt) (o v : Nat) : CoreSt :=
  match o / 8 with
  | 0 =>
    let dk := v / 2 ^ 52 % 16
    if 2 ≤ dk ∧ dk ≤ 10 then { x with dk := dk, ctgt := v / 2 ^ 28 % 2 ^ 24 } else x
  | 3 => if v % 2 ^ 16 ≠ 0 then { x with ckpat := BitVec.ofNat 16 v } else x
  | 4 =>
    let level := v % 2 ^ 10
    if 300 ≤ level ∧ level ≤ 1000 then { x with drEnable := v / 2 ^ 16 % 2 == 1, drLevel := level } else x
  | _ => x

/-- Half k of WTAB takes a value (R474). -/
def putHalf (w : BitVec 128) (k v : Nat) : BitVec 128 :=
  if k = 0 then w.extractLsb' 64 64 ++ BitVec.ofNat 64 v else BitVec.ofNat 64 v ++ w.extractLsb' 0 64

/-- A register write of core c (R472): one of a fenced core is ignored, one of CURCFG or WTAB takes effect at the next cycle (R474). -/
def State.writeCoreReg (s : State) (c o v : Nat) : State :=
  if !s.inService c then s
  else if o = 0 ∨ o = 8 ∨ o = 16 then { s with curWrites := s.curWrites ++ [(c, o, v)] }
  else s.modCore c fun x => x.writeReg o v

/-- A write of CURCFG or WTAB, by core, offset and value, takes effect (R474). -/
def State.applyCurrent (s : State) (w : Nat × Nat × Nat) : State :=
  let c := w.1
  if w.2.1 = 0 then s.modCore c fun x => x.writeReg 0 w.2.2
  else { s with wtabs := s.wtabs.put c (putHalf (s.wtab c) (w.2.1 / 8 - 1) w.2.2) }

/-- A lane map entry's fields are within their values (R450). -/
def laneEntryOk (v : Nat) : Bool := v / 256 % 16 ≤ 10 && (v / 2 ^ 15 % 2 == 1) == (v % 256 != 0)

/-- Firmware writes a register (R472): one with a field outside its values is ignored, what it writes to reserved bits is too (R2). -/
def State.writeReg (s : State) (off v : Nat) : State :=
  if off % 8 ≠ 0 ∨ 2 ^ 64 ≤ v then s
  else if off = 0x408 then
    let plim := v / 2 ^ 32 % 2 ^ 12
    let ilim := v % 2 ^ 13
    if 1 ≤ plim ∧ plim ≤ 2400 ∧ 1 ≤ ilim ∧ ilim ≤ 5000 then
      { s with plim := plim, ilim := ilim }
    else s
  else if off = 0x410 then
    let limit := v % 2 ^ 48
    if limit = 0 ∨ 2 ^ 20 ≤ limit then { s with wdlim := limit } else s
  else if 0x10000 ≤ off ∧ off < 0x10000 + 0x100 * 192 then s.writeCoreReg ((off - 0x10000) / 0x100) (off % 0x100) v
  else if 0x20000 ≤ off ∧ off < 0x20000 + 8 * 1296 then s.writeRoute ((off - 0x20000) / 8) v
  else if 0x24000 ≤ off ∧ off < 0x24000 + 16 * 1296 then
    let link := (off - 0x24000) / 8
    if !validPair (link / 2) then s
    else
      let s := if v / 2 % 2 = 1 then s.clearSwfail link else s
      if v % 2 = 1 then s.requestSwap link else s
  else if 0x30000 ≤ off ∧ off < 0x30000 + 0x400 * 68 then
    let o := off - 0x30000
    let colour := o % 0x200 / 8
    if o / 0x200 % 2 = 1 ∧ 1 ≤ colour ∧ colour ≤ 35 ∧ laneEntryOk v then
      s.setLaneEntry (o / 0x800) (o / 0x400 % 2) 1 colour (BitVec.ofNat 16 v &&& 0x8FFF)
    else s
  else s

/-- Firmware writes a register of the management register space (R472). -/
def execMgmtRegWrite (addr value : Nat) (s : State) : Result := .next (s.writeReg addr value)

/-! ### Clamps (R476) -/

/-- Change the listed cores that are in service. -/
def State.modCores (s : State) (cs : List Nat) (f : CoreSt → CoreSt) : State :=
  cs.foldl (fun s c => if s.inService c then s.modCore c f else s) s

/-- The cores of a compute chiplet, which share its rail (R19). -/
def chipCores (chip : Nat) : List Nat := (List.range 12).map (12 * chip + ·)

/-- A limit is exceeded for one µs more (R476): CLR + 1, at most 15. -/
def CoreSt.clampMore (now : Nat) (x : CoreSt) : CoreSt := { x with clr := min 15 (x.clr + 1), clampAt := now }

/-- A trip or an unanswered canary (R476): CLR is 15. -/
def CoreSt.clampFull (now : Nat) (x : CoreSt) : CoreSt := { x with clr := 15, clampAt := now }

/-- Clamp cores, with an interrupt to firmware for a chiplet when the count of one of them rises (R476). -/
def State.clamp (s : State) (cs : List Nat) (f : Nat → CoreSt → CoreSt) (chip : Nat) : State :=
  let t := s.modCores cs (f s.time.toNat)
  if cs.any fun c => s.inService c && decide ((s.core c).clr < 15) then t.report (.limit chip) else t

/-- The current of a core rail has been above its limit for one µs (R20, R476). -/
def execCurrentLimitExceeded (chip : Nat) (s : State) : Result :=
  if 16 ≤ chip then .next s else .next (s.clamp (chipCores chip) CoreSt.clampMore chip)

/-- The package power has been above its limit for one µs (R20, R476). -/
def execPowerLimitExceeded (s : State) : Result := .next (s.clamp (List.range 192) CoreSt.clampMore 16)

/-- A chiplet's junction is at or above 110 °C (R476). -/
def execThermalTrip (chip : Nat) (s : State) : Result :=
  if 16 ≤ chip then .next s
  else .next ((s.modChip chip fun x => { x with trip := true }).clamp (chipCores chip) CoreSt.clampFull chip)

/-- A tripped chiplet is below 100 °C again (R476): its cores' clamps relax from now on. -/
def execThermalClear (chip : Nat) (s : State) : Result :=
  if (s.chip chip).trip then
    .next ((s.modChip chip fun x => { x with trip := false }).modCores (chipCores chip) fun x => { x with clampAt := s.time.toNat })
  else .next s

/-- A canary of a core warns (R479): an interrupt, and an entry in the ageing log (R480). -/
def execCanaryWarning (core temperature : Nat) (s : State) : Result :=
  if !s.inService core then .next s
  else
    let chip := core / 12
    let entry : AgeingEntry :=
      { core := core, rail := (s.chip chip).rail, pattern := Bits.popcount (s.core core).eff, temperature := temperature
        time := s.time.toNat }
    let s := s.modChip chip fun x => { x with canary := true, canaryAt := if x.canary then x.canaryAt else s.time.toNat }
    .next ((s.recordConfig fun c => { c with ageing := c.ageing ++ [entry] }).report (.canary chip))

/-- A warning has not been answered within 20 µs (R476). -/
def execCanaryTimeout (chip : Nat) (s : State) : Result :=
  let x := s.chip chip
  if x.canary && !x.canaryClamp && decide (x.canaryAt + 20000 ≤ s.time.toNat) then
    .next ((s.modChip chip fun x => { x with canaryClamp := true }).clamp (chipCores chip) CoreSt.clampFull chip)
  else .next s

/-- Firmware changes a rail's voltage, which answers its warnings and ends a canary clamp (R476, R479). -/
def execRailVoltageChange (chip mv : Nat) (s : State) : Result :=
  if 16 ≤ chip then .next s
  else
    let held := (s.chip chip).canaryClamp
    let s := s.modChip chip fun x => { x with rail := mv, canary := false, canaryClamp := false }
    .next (if held then s.modCores (chipCores chip) fun x => { x with clampAt := s.time.toNat } else s)

/-- No condition has held for 10 µs: CLR − 1 (R476). -/
def execClampRelax (core : Nat) (s : State) : Result :=
  let x := s.core core
  let chip := s.chip (core / 12)
  if x.clr ≠ 0 ∧ !chip.trip ∧ !chip.canaryClamp ∧ x.clampAt + 10000 ≤ s.time.toNat then
    .next (s.modCore core fun x => { x with clr := x.clr - 1, clampAt := s.time.toNat })
  else .next s

/-! ### Droop (R477, R478) -/

/-- The alarm of a droop detector (R477, R478): COUNT rises, and both windows start again. -/
def CoreSt.alarm (x : CoreSt) : CoreSt :=
  { x with drCount := min (2 ^ 32 - 1) (x.drCount + 1), droop := true, stretch := 6, halving := 64 }

/-- A core's supply falls below LEVEL at the end of a pulse, while its detector is enabled (R477). -/
def execDroopAlarm (core : Nat) (s : State) : Result :=
  let x := s.core core
  if s.inService core ∧ x.drEnable ∧ x.pulsed then .next (s.modCore core CoreSt.alarm) else .next s

/-- Both windows of an alarm have run out (R478). -/
def execDroopWindowEnd (core : Nat) (s : State) : Result :=
  let x := s.core core
  if x.droop ∧ x.stretch = 0 ∧ x.halving = 0 then .next (s.modCore core fun x => { x with droop := false }) else .next s

end Sys2Proof.Machine
end

