-- ==== Sys2Proof/Machine/Boot.lean ====
section
/-! DEFINITION. Boot and the loss of the supply (R22 to R27, R384, R395, R488, R489). -/

namespace Sys2Proof.Machine

/-- What outlives the supply: flash, the configuration image's record, the safe tier and host memory; the events still to come and
the model's counters go on too (DESIGN CHOICE, log entry 30). Everything else is as `State.reset` has it. -/
def State.persistent (s : State) : State :=
  { State.reset with
    flash := s.flash
    config := s.config
    xmssNext := s.config.xmssIndex
    safeTier := s.safeTier
    mem := s.mem.filter fun c => 2 ^ 48 ≤ c.1
    memPoison := s.memPoison.filter fun w => 2 ^ 48 ≤ 8 * w
    agenda := s.agenda
    fresh := s.fresh
    uid := s.uid }

/-- The supply fails (R488): the part holds nothing until the next boot, and what an IMGLOAD had not written is not in flash. -/
def execPowerLoss (s : State) : Result := .next { s.persistent with inReset := true }

/-- The record of the configuration image that is used from this boot on (R27): that of the image in flash, which firmware has signed, or
what another image brings, with the ageing log taken over (DESIGN CHOICE, log entry 29). An image that fails verification is not used: it
supplies nothing, and no index is known to be fresh (R489), so nothing can be signed until another image is loaded. -/
def State.bootConfig (s : State) (verifies : Bool) : ConfigImage :=
  match s.flash.look 3 with
  | none => s.config
  | some x =>
    if !verifies then { xmssIndex := 2 ^ 20 }
    else if s.config.digest = some x.digest then s.config
    else
      { fence := Config.imageFence x.digest
        fencedShares := Config.imageShares x.digest
        colours := Config.imageColours x.digest
        sources := Config.imageSources x.digest
        ageing := s.config.ageing
        minVersion := [(1, Config.imageMinimum x.digest 1), (2, Config.imageMinimum x.digest 2), (3, Config.imageMinimum x.digest 3)]
        xmssIndex := Config.imageIndex x.digest
        digest := some x.digest }

/-- The reserved bits of FENCEMAP are zero (R26). -/
def fenceBits : BitVec 256 := BitVec.ofNat 256 (2 ^ 210 - 1)

/-- The part stays in reset (R24): both bridge chiplets fenced, no core in service, or fewer than 8 store chiplets. -/
def State.cannotRun (s : State) : Bool :=
  (s.fenceMap.getLsbD 208 && s.fenceMap.getLsbD 209) || (List.range 192).all (fun c => s.fenceMap.getLsbD c) || s.survivors < 8

/-- The colours that fail at boot, as bits plane × 64 + colour: each pair on one loses that link (R22). A failed comb source feeds its four
colours no more (R17, R25). -/
def failedLinks (colours : BitVec 128) (sources : List Nat) : List Nat :=
  [0, 1].flatMap fun plane => linksWhere plane fun k =>
    colours.getLsbD (64 * plane + colourOf k) || sources.contains (11 * plane + colourOf k / 4)

/-- The units of absent compute chiplets, n to a chiplet, as bits. -/
def chipUnits (w n : Nat) (chips : BitVec 16) : BitVec w :=
  (List.range 16).foldl (fun m c => if chips.getLsbD c then m ||| BitVec.ofNat w ((2 ^ n - 1) * 2 ^ (n * c)) else m) 0

/-- The links of a chiplet that is not in service carry nothing, and their pairs are DOWN (R22). -/
def State.absentLinks (s : State) : State :=
  ((List.range 1296).filter fun k => validPair k && !s.pairInService k).foldl (fun s k =>
    ((s.modLink (2 * k) fun l => { l with state := .down }).modLink (2 * k + 1) fun l => { l with state := .down }).modPair k
      fun p => { p with down := true }) s

/-- A part that stays in reset reports its fence map (R24). -/
def State.reportReset (s : State) : State :=
  if s.cannotRun then ({ s with inReset := true } : State).report (.fenceMap s.fenceMap) else s

/-- A boot (R22 to R27): the tests find the units `fence` that fail, as FENCEMAP bits with bit 256 + n for the uncore of compute chiplet n,
and the shares and the colours; bit K of `verified` says that flash's image of KIND K verifies. The configuration image's faulty units are
fenced too, and an absent compute chiplet's 12 cores and 32 banks of 8 shares (R10, R22). -/
def execBoot (fence shares colours verified : Nat) (s : State) : Result :=
  let passes := fun (k : Nat) => verified / 2 ^ k % 2 == 1
  let config := s.bootConfig (passes 3)
  let s := s.persistent
  let chips := BitVec.ofNat 16 (fence / 2 ^ 256)
  let failed := BitVec.ofNat 4096 shares ||| config.fencedShares ||| chipUnits 4096 256 chips
  let s := { s with
    config := config
    xmssNext := config.xmssIndex
    images := s.flash.filter fun x => passes x.1
    fenceMap := (BitVec.ofNat 256 fence ||| config.fence ||| chipUnits 256 12 chips) &&& fenceBits
    absentChips := chips
    shareFault := failed
    failedSources := config.sources
    polders := [(0, { state := .active, grant := 0, current := ~~~ failed })] }
  let s := s.reportReset.absentLinks
  .next ((failedLinks (BitVec.ofNat 128 colours ||| config.colours) config.sources).foldl (fun s l => s.failLink l) s)

end Sys2Proof.Machine
end

