-- ==== Sys2Proof/Machine/EngineOps.lean ====
section
/-! DEFINITION. Memory accesses of the collective and publish engines, and the failure of a collective (R417, R419, R462, R465 to
R467). Their accesses count as the system agent's in the page classes (DEDUCED, log entry 27). -/

namespace Sys2Proof.Machine

/-- What an engine's access ends with: done, a page that it must wait for, or a cause. -/
inductive EngineDone (α : Type) where
  | ok (s : State) (a : α)
  | wait (va : Nat) (k : AccessKind)
  /-- No bounce slot is free (R417), or the pair of ports is DOWN (R453): it waits without a page request. -/
  | stay
  | fault (c : Cause) (va : Nat)

/-- Go on after an access that is done. -/
def EngineDone.then {α β : Type} (x : EngineDone α) (f : State → α → EngineDone β) : EngineDone β :=
  match x with
  | .ok s a => f s a
  | .wait va k => .wait va k
  | .stay => .stay
  | .fault c va => .fault c va

/-- A run of n bytes from a virtual address, cut at 64 KiB page boundaries: addresses and lengths. -/
def pageRuns (va n : Nat) : List (Nat × Nat) :=
  (List.range (n / 65536 + 2)).filterMap fun k =>
    let lo := if k = 0 then va else (va / 65536 + k) * 65536
    let hi := min (va + n) ((va / 65536 + k + 1) * 65536)
    if lo < hi then some (lo, hi - lo) else none

/-- Read n bytes, with whether any is poisoned (R316). -/
def State.engineRead (s : State) (asid va n : Nat) (twin : Bool) : EngineDone (List Byte × Bool) :=
  (pageRuns va n).foldl (fun acc r =>
    acc.then fun s a =>
      match s.engineXlateAt none asid r.1 false twin with
      | .ok pa =>
        match s.rangeKind pa with
        | .peer _ => .fault .peerFault r.1
        | _ =>
          let x := (s.walkTouch asid r.1).agentRead .system pa r.2
          if (lineRuns pa r.2).all fun l => s.reachable .system l.1 then .ok x.1 (a.1 ++ x.2.1, a.2 || x.2.2) else .stay
      | .cause c => .fault c r.1
      | _ => .wait r.1 .read) (.ok s ([], false))

/-- Write bytes, poisoned ones poisoning what they reach; a page not present at level 4 bounces them (R417). -/
def State.engineWrite (s : State) (asid va : Nat) (bs : List Byte) (twin bad : Bool) : EngineDone Unit :=
  (pageRuns va bs.length).foldl (fun acc r =>
    acc.then fun s _ =>
      let part := (bs.drop (r.1 - va)).take r.2
      match s.engineXlateAt none asid r.1 true twin with
      | .ok pa =>
        match s.rangeKind pa with
        | .peer _ => .fault .peerFault r.1
        | _ =>
          if (lineRuns pa r.2).all fun l => s.reachable .system l.1 then
            .ok ((s.walkTouch asid r.1).agentStore .system pa part bad) ()
          else .stay
      | .absent entry at_ =>
        match (s.walkTouch asid r.1).bounceWrite asid r.1 entry at_ part with
        | some s => .ok (if bad then s.bouncePoisonAt asid ((List.range part.length).map (r.1 + ·)) else s) ()
        | none => .stay
      | .cause c => .fault c r.1
      | .page => .wait r.1 .write) (.ok s ())

/-- Write a collective's step or completion word (R465, R466): 4 bytes, nothing for an address of 0; a cause other than PAGE drops it
with a record, and the context goes FAULTED (DEDUCED, log entry 27). -/
def State.collWord (s : State) (asid : Nat) (at_ : DWord) (v : Nat) : EngineDone Unit :=
  if at_ = 0 then .ok s ()
  else
    match s.engineWrite asid at_.toNat (Memory.ofNat 4 v) false false with
    | .fault c va => .ok (((s.walkTouch asid va).trapRecord asid { time := s.time, addr := BitVec.ofNat 64 va, cause := c }).faultCtx asid) ()
    | x => x

/-- A collective's request of a page that it waits for; the walk counts (R396, R414). -/
def State.collWait (s : State) (key asid va : Nat) (k : AccessKind) : State :=
  (s.walkTouch asid va).pageRequest asid va k (.collective key)

/-- A collective's step waits, with the data that it has received (R414). -/
def State.collHold (s : State) (key : Nat) (data : List Byte) : State :=
  { s with colls := s.colls.upd key fun c => { c with held := some data } }

/-- The failed collective of the direct mode ends: its completion word names the lowest failed position (R467). -/
def State.collEnd (s : State) (key : Nat) : State :=
  match s.colls.look key with
  | none => s
  | some c =>
    match c.shadow, c.failed with
    | false, some p =>
      match s.collWord c.asid c.caddr (0xFFFFFF00 + p) with
      | .ok s _ => { s with colls := s.colls.del key, peerReqs := s.peerReqs.filter fun r => r.2.coll != some key }
      | .wait va k => s.collWait key c.asid va k
      | .stay => s
      | .fault _ _ => s
    | _, _ => s

/-- A collective fails at a ring position (R466, R467): in shadow mode it waits for CREFORM or CABORT. -/
def State.collFail (s : State) (key pos : Nat) : State :=
  ({ s with
    colls := s.colls.upd key fun c =>
      { c with held := none, failed := some (match c.failed with
          | some p => min p pos
          | none => pos) } } : State).collEnd key

end Sys2Proof.Machine
end

