-- ==== Sys2Proof/Machine/Directory.lean ====
section
/-! DEFINITION. The events of homes and banks: eviction notices, acknowledgements and merges (R398 to R402), generation stamps and
retention sleep (R403, R404), and the ends of page classes (R396, R397). -/

namespace Sys2Proof.Machine

/-- Ways of a set (R385). -/
def Polder.ways (p : Polder) : Nat := 4 * 2 ^ p.assoc

/-- Sets of a share (R385). -/
def Polder.sets (p : Polder) : Nat := 262144 / (p.lineBytes * p.ways)

/-- An eviction notice reaches the home (R400). -/
def execEvictionNotice (bank line : Nat) (s : State) : Result := .next (s.evictNotice bank line)

/-- A bank invalidates its copies of an entry's lines, an owner writing back. -/
def State.invalidate (s : State) (bank line k n : Nat) : State := s.dropLines bank (s.inRegion (s.homeOf line) k n)

/-- A bank invalidates its copies of the lines of the entry that covers a line, an owner writing back, and acknowledges (R400), to an
entry that its home has given up first (R402); a bank whose notice the home has counted sends nothing. -/
def execInvalAck (bank line : Nat) (s : State) : Result :=
  let left := match s.leavingEntry line with
    | some (k, e) => if e.awaiting.contains bank then some (k, e.lines) else none
    | none => none
  match left with
  | some (k, n) => .next ((s.invalidate bank line k n).leavingAck line k bank)
  | none =>
    match s.dirEntry line with
    | none => .next s
    | some (k, e) =>
      if e.awaiting.contains bank then
        .next ((s.invalidate bank line k e.lines).modDir line fun e => { e with awaiting := e.awaiting.filter fun c => c != bank })
      else .next s

/-- What the sibling entries of n lines each at and after the region `base` become where they merge: neither has had a conflict for 50
ticks, neither is OWNED nor awaits an acknowledgement (R401). -/
def Home.merged (h : Home) (base n : Nat) : Option DirEntry :=
  let g := h.generation
  let quiet := fun (e : DirEntry) =>
    50 ≤ ageOf g e.conflict e.conflictOldest && e.awaiting.isEmpty && match e.sharers with
      | .owned _ => false
      | _ => true
  match h.dir.look base, h.dir.look (base + n) with
  | some x, some y =>
    if n < 512 && x.lines == n && y.lines == n && quiet x && quiet y then
      let younger := if ageOf g x.conflict x.conflictOldest ≤ ageOf g y.conflict y.conflictOldest then x else y
      let filled := if ageOf g x.fill x.fillOldest ≤ ageOf g y.fill y.fillOldest then x else y
      some
        { lines := 2 * n, sharers := x.sharers.union y.sharers, conflict := younger.conflict
          conflictOldest := younger.conflictOldest, fill := filled.fill, fillOldest := filled.fillOldest }
    else none
  | _, _ => none

/-- The entry of a line and its sibling become one where they can (R401). -/
def execDirMerge (line : Nat) (s : State) : Result :=
  let h := s.homeOf line
  match s.dirEntry line with
  | none => .next s
  | some (k, e) =>
    let n := e.lines
    let base := k / (2 * n) * (2 * n)
    match (s.home h).merged base n with
    | some m => .next (s.modHome h fun z => { z with dir := (z.dir.del (base + n)).put base m })
    | none => .next s

/-- The merges that the homes can make (R401). -/
def State.mergesDue (s : State) : List Instr :=
  s.homes.flatMap fun (h : Nat × Home) => h.2.dir.filterMap fun (e : Nat × DirEntry) =>
    if e.1 % (2 * e.2.lines) = 0 ∧ (h.2.merged e.1 e.2.lines).isSome then (s.regionLine h.1 e.1 (2 * e.2.lines)).map Instr.dirMerge
    else none

/-- A keeper's generation lags behind the reference time; a sleeping bank's does not advance (R403, R404). -/
def State.ticksDue (s : State) (x : Nat) : Nat :=
  if x < 512 then
    match s.banks.look x with
    | some b => if b.asleep.isSome then 0 else (s.tick + 65536 - b.generation % 65536) % 65536
    | none => 0
  else
    match s.homes.look (x - 512) with
    | some h => (s.tick + 65536 - h.generation % 65536) % 65536
    | none => 0

/-- The generation of a keeper advances: bank x, or home x − 512 (R403). Every 8,192 ticks its stamps are visited. -/
def execGenerationTick (x : Nat) (s : State) : Result :=
  if s.ticksDue x = 0 then .next s
  else
    let s := if x < 512 then s.modBank x fun b => { b with generation := (b.generation + 1) % 65536 }
      else s.modHome (x - 512) fun h => { h with generation := (h.generation + 1) % 65536 }
    let g := if x < 512 then (s.bank x).generation else (s.home (x - 512)).generation
    .next (if g % 8192 = 0 then s.later (.stampSweep x) else s)

/-- The stamps of age 16,384 or more are marked oldest (R403). -/
def execStampSweep (x : Nat) (s : State) : Result :=
  if x < 512 then
    if (s.banks.look x).isNone then .next s
    else
      .next (s.modBank x fun b =>
        { b with lines := b.lines.map fun l => if 16384 ≤ ageOf b.generation l.stamp l.oldest then { l with oldest := true } else l })
  else if (s.homes.look (x - 512)).isNone then .next s
  else
    .next (s.modHome (x - 512) fun h =>
      let visit := fun (e : Nat × DirEntry) =>
        (e.1, { e.2 with
          conflictOldest := decide (16384 ≤ ageOf h.generation e.2.conflict e.2.conflictOldest)
          fillOldest := decide (16384 ≤ ageOf h.generation e.2.fill e.2.fillOldest) })
      { h with dir := h.dir.map visit, leaving := h.leaving.map visit })

/-- Firmware puts a bank in retention sleep (R404). -/
def execBankSleep (bank : Nat) (s : State) : Result :=
  if 512 ≤ bank ∨ (s.bank bank).asleep.isSome then .next s
  else .next (s.modBank bank fun b => { b with asleep := some s.time.toNat })

/-- An access wakes a sleeping bank (R404). -/
def execBankWake (bank : Nat) (s : State) : Result := .next (s.wakeBank bank)

/-- A reclassification that the home holds accesses for ends (R397). -/
def execReclassifyComplete (page : Nat) (s : State) : Result :=
  match s.classes.look page with
  | none => .next s
  | some r => .next (if r.held then s.makeShared page r.line else s)

/-- A SHARED page that nothing has accessed for 1,024 ticks and no bank shares is UNOWNED again (R396). -/
def execPageClassIdle (page : Nat) (s : State) : Result :=
  match s.classes.look page with
  | none => .next s
  | some r =>
    let unshared := (s.pageEntries page).all fun e => e.sharers.banks.isEmpty && e.awaiting.isEmpty
    if r.cls == .shared && !r.held && decide (r.stamp + 1024 ≤ s.tick) && unshared then
      .next (({ s with classes := s.classes.del page } : State).freeEntries page)
    else .next s

end Sys2Proof.Machine
end

