-- ==== Sys2Proof/Machine/Polder.lean ====
section
/-! DEFINITION. Polders: placement, lookups and fills, write policies, definition, live resize and share failure (R383 to R395,
R405 to R407). -/

namespace Sys2Proof.Machine

/-! ### Placement (R386) -/

/-- The shares of a set, ascending. -/
def sharesOf (x : BitVec 4096) : List Nat := (List.range 4096).filter fun k => x.getLsbD k

/-- The weight of a share for a line number (R386). -/
def shareWeight (x share : Nat) : Nat := (Bits.crc (0x04C11DB7 : BitVec 32) 0xFFFFFFFF (Memory.ofNat 8 (x * 4096 + share))).toNat

/-- The share of greatest weight, the lower one among equals (R386). -/
def bestShare (x : Nat) (shares : List Nat) : Option Nat :=
  (shares.foldl (fun (best : Option (Nat × Nat)) k =>
    let w := shareWeight x k
    match best with
    | some (b, wb) => if wb < w then some (k, w) else some (b, wb)
    | none => some (k, w)) none).map Prod.fst

/-- The placement set of an access from a chiplet, for a current set (R386): every share of it when the lines are spread. -/
def Polder.placeSet (p : Polder) (c : BitVec 4096) (spread : Bool) (chip : Nat) : List Nat :=
  let all := sharesOf c
  if !p.isNear || spread then all
  else
    let close := all.filter fun k => p.near.contains (k / 8) && k / 256 == chip
    if close.isEmpty then all else close

/-- The share in which a line of a polder lies for a chiplet under a set (R386). -/
def Polder.placeBy (p : Polder) (c : BitVec 4096) (spread : Bool) (chip x : Nat) : Option Nat := bestShare x (p.placeSet c spread chip)

/-- Polder 0 (R384). -/
def State.zero (s : State) : Polder := s.polders.lookD 0 { state := .active, grant := 0, current := 0 }

/-- A polder has lost every share of its current set by failure: its lines are placed as polder 0's (R394). -/
def Polder.asZero (p : Polder) : Bool := p.current == 0 && p.state == .active

/-- The share in which a line of a polder is placed (R386, R394). -/
def State.place (s : State) (p : Polder) (chip x : Nat) : Option Nat :=
  if p.asZero then p.placeBy s.zero.current true chip x else p.placeBy p.current false chip x

/-- The share in which a line of a polder was placed before the resize under way, its own or, where its lines are placed as polder 0's, that
of polder 0 (R392, R394). -/
def State.oldPlace (s : State) (p : Polder) (chip x : Nat) : Option Nat :=
  if p.state == .resizing then p.placeBy p.old p.oldSpread chip x
  else if p.asZero && s.zero.state == .resizing then p.placeBy s.zero.old true chip x
  else none

/-! ### Lookups and fills (R387 to R389, R392) -/

/-- A bank line of a polder by its share and number. -/
def State.findLine (s : State) (polder share x : Nat) : Option BankLine :=
  (s.bank (share / 8)).lines.find? fun l => l.polder == polder && l.share == share && l.number == x

/-- A lookup of a line in a share, which wakes its bank (R404): the share if it holds the line. -/
def State.lookIn (s : State) (id x : Nat) (share : Option Nat) : State × Option Nat :=
  match share with
  | none => (s, none)
  | some k =>
    let s := s.wakeBank (k / 8)
    (s, if (s.findLine id k x).isSome then some k else none)

/-- A lookup of a line: at its place, or else, while a resize drains it, at its old one (R392). -/
def State.lookup (s : State) (id : Nat) (p : Polder) (chip x : Nat) : State × Option Nat :=
  match s.lookIn id x (s.place p chip x) with
  | (s, some k) => (s, some k)
  | (s, none) => s.lookIn id x (s.oldPlace p chip x)

/-- A use of a line stamps it (R403). -/
def State.stampLine (s : State) (share : Nat) (l : BankLine) (f : BankLine → BankLine) : State :=
  s.modBank (share / 8) fun b =>
    { b with lines := b.lines.map fun y => if y == l then f { y with stamp := b.generation, oldest := false } else y }

/-- The victim of a full set (R389): its way. -/
def Bank.victim (b : Bank) (repl ways : Nat) (set : List BankLine) : Nat :=
  let age := fun (l : BankLine) => ageOf b.generation l.stamp l.oldest
  let pick := fun (better : BankLine → BankLine → Bool) =>
    match set.foldl (fun (best : Option BankLine) l =>
      match best with
      | none => some l
      | some m => if better l m then some l else some m) none with
    | some l => l.way
    | none => 0
  match repl with
  | 0 => pick fun l m => age m < age l || (age m == age l && l.way < m.way)
  | 1 => b.lfsr.toNat % ways
  | _ => pick fun l m => l.filled < m.filled

/-- Fill a line into its placement share (R387, R389): the lowest free way, else the victim's. The bank's LFSR advances by a free
value where it names the victim (DESIGN CHOICE, log entry 25). -/
def State.fillLine (s : State) (id : Nat) (p : Polder) (share x hint : Nat) (dirty : Bool) : State :=
  let b := share / 8
  let set := x % p.sets
  let mine := (s.bank b).lines.filter fun l => l.polder == id && l.share == share && l.set_ == set
  let free := (List.range p.ways).find? fun w => mine.all fun l => l.way != w
  let way := free.getD ((s.bank b).victim p.repl p.ways mine)
  let s := match free, mine.find? fun l => l.way == way with
    | none, some l => s.evictLine b l
    | _, _ => s
  let s := if free.isNone ∧ p.repl = 1 then
      { s.modBank b fun y => { y with lfsr := (Config.freeValue s.fresh).setWidth 16 } with fresh := s.fresh + 1 }
    else s
  let s := s.modBank b fun y =>
    { y with
      lines := y.lines ++
        [{ polder := id, share := share, number := x, set_ := set, way := way, dirty := dirty, stamp := y.generation
           oldest := hint == 1, filled := s.uid }] }
  { s with uid := s.uid + 1 }

/-- The 128-byte lines of line x of a polder. -/
def Polder.dirLines (p : Polder) (x : Nat) : List Nat :=
  if p.line = 2 then [2 * x, 2 * x + 1] else [x * p.lineBytes / 128]

/-- A polder in use, by its id: ACTIVE or RESIZING (R391). -/
def State.polderInUse (s : State) (id : Nat) : Option Polder :=
  match s.polders.look id with
  | some p => if p.state == .empty then none else some p
  | none => none

/-- An access that meets a line with invalidations under way comes again after them (R398, R400). -/
def State.afterAcks (s : State) (waits : List (Nat × Nat)) (i : Instr) : State :=
  (waits.foldl (fun s w => s.later (.invalAck w.1 w.2)) s).later i

/-- A core's lookup of a device address in a polder: a hit stamps the line, a miss fills it from the home (R387, R389, R398). -/
def execDirFill (core addr polder hint : Nat) (s : State) : Result :=
  match s.polderInUse polder with
  | none => .next s
  | some p =>
    let x := addr / p.lineBytes
    match s.lookup polder p (core / 12) x with
    | (s, some k) =>
      match s.findLine polder k x with
      | some l => .next (s.stampLine k l id)
      | none => .next s
    | (s, none) =>
      match s.place p (core / 12) x with
      | none => .next s
      | some k =>
        let waits := s.awaited (p.dirLines x)
        if !waits.isEmpty then .next (s.afterAcks waits (.dirFill core addr polder hint))
        else
          let s := s.fillLine polder p k x hint false
          .next ((p.dirLines x).foldl (fun s n => s.dirFill (k / 8) n) s)

/-- A write or atomic of a core at a device address goes through a polder (R388, R398): kind 0 a store under the write policy,
any other kind an atomic, performed at the home. A line that is dirty stays so under every policy (R390). -/
def execDirWrite (core addr polder kind : Nat) (s : State) : Result :=
  match s.polderInUse polder with
  | none => .next (s.dirWrite (addr / 128) (.forwarded none))
  | some p =>
    let x := addr / p.lineBytes
    let line := addr / 128
    let waits := s.awaited (p.dirLines x)
    if !waits.isEmpty then .next (s.afterAcks waits (.dirWrite core addr polder kind))
    else
      let found := s.lookup polder p (core / 12) x
      let s := found.1
      match if found.2.isSome then found.2 else s.place p (core / 12) x with
      | none => .next (s.dirWrite line (.forwarded none))
      | some k =>
        let hit := found.2.isSome
        let b := k / 8
        let drop := fun (s : State) => s.dropLines b fun l => l.polder == polder && l.share == k && l.number == x
        let filled := fun (s : State) => if hit then s else s.fillLine polder p k x 0 false
        let touch := fun (s : State) (dirty : Bool) =>
          match s.findLine polder k x with
          | some l => s.stampLine k l fun y => { y with dirty := dirty || y.dirty }
          | none => s
        let others := (p.dirLines x).filter fun n => n != line
        let register := fun (s : State) => if hit then s else others.foldl (fun s n => s.dirFill b n) s
        if kind ≠ 0 then .next ((if s.tracked line then s else drop s).dirWrite line (.forwarded (some b)))
        else
          match p.wpol, hit with
          | 0, _ => .next ((touch (register (filled s)) true).dirWrite line (.owns b))
          | 1, _ => .next ((touch (register (filled s)) false).dirWrite line (.through b))
          | 2, true => .next ((touch s true).dirWrite line (.owns b))
          | 3, true => .next ((drop s).dirWrite line (.forwarded (some b)))
          | _, _ => .next (s.dirWrite line (.forwarded (some b)))

/-- An access of a core to a device address reaches its home (R396, R397) and goes through its page's polder; one that a
reclassification holds comes again after it. The accesses of instructions and engines do the same in their own steps,
where they perform their atomics too. -/
def execHomeAccess (core addr polder : Nat) (write : Bool) (s : State) : Result :=
  match s.paKind addr with
  | .device =>
    if s.homeReady (.core core) addr write then
      .next ((s.homeTouch (.core core) addr write).later
        (if write then .dirWrite core addr polder 0 else .dirFill core addr polder 0))
    else
      .next ((s.homeTouch (.core core) addr write).holdUntil (.homeAccess core addr polder write))
  | _ => .next s

/-! ### Definition (R384, R385, R390, R405) -/

/-- A polder definition record (R385). -/
structure PolderDesc where
  grantAddr : Nat
  owner : Nat
  near : List Nat
  isNear : Bool
  repl : Nat
  wpol : Nat
  assoc : Nat
  line : Nat
  valid : Bool
  id : Nat
  /-- Reserved fields, unused near entries and value ranges hold. -/
  ok : Bool
  deriving DecidableEq, Repr

/-- The record in 32 bytes (R385). -/
def polderDescOf (bs : List Byte) : PolderDesc :=
  let w := field bs 8 4
  let n := w / 2 ^ 11 % 32
  let raw := field bs 0xE 18
  let near := (List.range 16).map fun k => raw / 2 ^ (9 * k) % 512
  { grantAddr := field bs 0 8
    owner := w / 2 ^ 16
    near := near.take n
    isNear := w / 2 ^ 10 % 2 == 1
    repl := w / 2 ^ 8 % 4
    wpol := w / 2 ^ 6 % 4
    assoc := w / 2 ^ 4 % 4
    line := w / 2 ^ 2 % 4
    valid := w % 2 == 1
    id := field bs 0xC 1
    ok := w / 2 % 2 == 0 && field bs 0xD 1 == 0 && field bs 0xC 1 != 0 && w / 2 ^ 8 % 4 != 3 && w / 2 ^ 4 % 4 != 3
      && w / 2 ^ 2 % 4 != 3 && (near.drop n).all (fun b => b == 0)
      && (if w / 2 ^ 10 % 2 == 1 then 1 ≤ n && n ≤ 16 else n == 0) }

/-- The bitmap in 512 bytes (R385). -/
def shareMap (bs : List Byte) : BitVec 4096 := BitVec.ofNat 4096 (Memory.toNat bs)

/-- Every share of a is in b. -/
def subSet (a b : BitVec 4096) : Bool := a &&& ~~~ b == 0

/-- The checks of R405 on a record and its grant bitmap. -/
def State.pdefOk (s : State) (d : PolderDesc) (grant : BitVec 4096) : Bool :=
  let old := s.polders.look d.id
  let had := match old with
    | some p => p.grant
    | none => 0
  let zero := s.zero.current
  let after := (zero ||| (had &&& ~~~ grant)) &&& ~~~ (grant &&& ~~~ had)
  d.ok && (!d.isNear || (sharesOf grant).all fun k => d.near.contains (k / 8))
    && (grant &&& s.shareFault == 0) && subSet grant (zero ||| had) && 128 ≤ Bits.popcount after
    && match d.valid, old with
      | true, some p =>
        p.state != .resizing && p.line == d.line && p.assoc == d.assoc && p.isNear == d.isNear && p.near == d.near
          && subSet p.current grant
      | true, none => true
      | false, some p => p.state == .empty
      | false, none => false

/-- Polder 0's current set changes: it is RESIZING until its drain is complete (R392, R393). -/
def State.moveZero (s : State) (c : BitVec 4096) : State :=
  let z := s.zero
  if c = z.current then s
  else { s with polders := s.polders.put 0 { z with state := .resizing, old := z.old ||| z.current, current := c } }

/-- Apply the row of R390 that a PDEF takes. -/
def State.definePolder (s : State) (d : PolderDesc) (grant : BitVec 4096) : State :=
  let old := s.polders.look d.id
  let had := match old with
    | some p => p.grant
    | none => 0
  let s := s.moveZero ((s.zero.current ||| (had &&& ~~~ grant)) &&& ~~~ (grant &&& ~~~ had))
  match d.valid, old with
  | true, some p =>
    { s with polders := s.polders.put d.id { p with owner := d.owner, wpol := d.wpol, repl := d.repl, grant := grant } }
  | true, none =>
    { s with
      polders := s.polders.put d.id
        { state := .empty, owner := d.owner, near := d.near, isNear := d.isNear, repl := d.repl, wpol := d.wpol, assoc := d.assoc
          line := d.line, grant := grant, current := 0 } }
  | false, _ => { s with polders := s.polders.del d.id }

/-- Install or remove a polder definition (R405): the split parks until polder 0's drain, if any, is complete. -/
def execPdef (a : BitVec 6) : State → Result :=
  gate { gr := [a.toNat], firmware := true, memory := true } fun cx s =>
    let at_ := cx.grp.greg a.toNat
    match s.readRecord cx true at_ 32 32 at_ with
    | .stop s => .next s
    | .bytes s bs =>
      let d := polderDescOf bs
      let finish := fun (s : State) (grant : BitVec 4096) =>
        if !s.pdefOk d grant then s.trapAll cx .perm at_
        else
          let s := (s.definePolder d grant).retireG cx 28
          if s.zero.state = .resizing then s.park cx.gid cx.sp.tag [zeroTag] else s
      if d.valid then
        match s.readRecord cx true (BitVec.ofNat 64 d.grantAddr) 512 64 (BitVec.ofNat 64 d.grantAddr) with
        | .stop s => .next s
        | .bytes s gs => .next (finish s (shareMap gs))
      else .next (finish s 0)

/-! ### Live resize (R392, R393, R406) -/

/-- The resize of polder 0 or p is over at these splits: the parked PDEFs go on, the waiting PRESIZEs execute again. -/
def State.wakeResize (s : State) (p : Nat) : State :=
  let again := fun (sp : Split) =>
    if sp.state == .waiting && sp.wait == some (.resize p) then sp.lookAgain
    else if p == 0 && sp.parkOn.contains zeroTag then
      let rest := sp.parkOn.filter fun t => t != zeroTag
      { sp with
        parkOn := rest
        state := if sp.state == .parked && rest.isEmpty && sp.pendingTrap.isNone then .ready else sp.state }
    else sp
  let hit := fun (g : Group) => g.splits.any fun sp => again sp != sp
  { s with
    groups := s.groups.map fun q =>
      (q.1, if hit q.2 then { q.2 with res := q.2.res.map fun r => (r.1, again r.2), stack := q.2.stack.map again } else q.2) }

/-- The record of a completion write that fails a check other than PAGE, or whose page the pager fails (R406, R415), as R348 fills a failed
copy's; the context goes FAULTED. -/
def State.resizeFails (s : State) (w : ResizeWrite) (c : Cause) : State :=
  (s.trapRecord w.asid
    { time := s.time, addr := w.addr, pc := w.pc, lanes := w.lanes, kernel := w.kernel, team := w.team, group := w.group, split := w.split
      nested := w.firmware, core := w.core, cause := c }).faultCtx w.asid

/-- The completion write of a resize (R406); one that meets PAGE is kept until the pager answers (R414). -/
def State.resizeWrite (s : State) (w : ResizeWrite) : State :=
  if w.addr = 0 then s
  else
    match s.writeAs .system w.asid w.addr.toNat 4 (Memory.ofNat 4 w.value.toNat) with
    | (s, none) => s
    | (s, some .page) => ({ s with resizeWrites := s.resizeWrites ++ [w] } : State).pageRequest w.asid w.addr.toNat .write .resize
    | (s, some c) => s.resizeFails w c

/-- The completion writes that wait for a page. -/
def State.writesAt (s : State) (asid page : Nat) : List ResizeWrite :=
  s.resizeWrites.filter fun w => w.asid == asid && w.addr.toNat / 65536 == page

/-- The completion writes that wait for a page do not any more. -/
def State.takeWrites (s : State) (asid page : Nat) : State :=
  { s with resizeWrites := s.resizeWrites.filter fun w => !(w.asid == asid && w.addr.toNat / 65536 == page) }

/-- A line must leave its place when the resize of a polder ends (R392): its share has left the current set, or its placement under the new
set, for a chiplet that may look for it in its share, lies in a share that the old set does not have. Lines of a polder that are placed
as polder 0's (R394) move with polder 0. -/
def State.mustLeave (s : State) (id : Nat) (p : Polder) (l : BankLine) : Bool :=
  let mine := l.polder == id || (id == 0 && match s.polders.look l.polder with
    | some q => !q.current.getLsbD l.share
    | none => true)
  let spread := !p.isNear
  let moved := (if spread then [0] else List.range 16).any fun c =>
    (spread || p.placeBy p.old p.oldSpread c l.number == some l.share)
      && match p.placeBy p.current false c l.number with
        | some k => k != l.share && !p.old.getLsbD k
        | none => false
  mine && (!p.current.getLsbD l.share || moved)

/-- The drain visits every share of the old set, which wakes their banks (R392, R404). -/
def State.wakeShares (s : State) (old : BitVec 4096) : State :=
  s.banks.keys.foldl (fun s b => if (List.range 8).any fun k => old.getLsbD (8 * b + k) then s.wakeBank b else s) s

/-- A polder's drain is complete (R390, R392): what lies at an old place is gone, and its state follows its current set. -/
def State.endResize (s : State) (id : Nat) : State :=
  match s.polders.look id with
  | none => s
  | some p =>
    let gone := s.mustLeave id p
    let s := s.wakeShares p.old
    let s := s.banks.keys.foldl (fun s b => s.drainLines b gone) s
    let s := { s with
      polders := s.polders.put id
        { p with old := 0, oldSpread := false, completion := none, state := if id ≠ 0 ∧ p.current = 0 then .empty else .active } }
    let s := match p.completion with
      | some w => s.resizeWrite w
      | none => s
    s.wakeResize id

/-- A resize's drain ends (R392, R406). -/
def execPolderDrainComplete (polder : Nat) (s : State) : Result :=
  match s.polders.look polder with
  | none => .next s
  | some p => if p.state = .resizing then .next (s.endResize polder) else .next s

/-- Set the current set of a polder (R406). -/
def execPresize (a b : BitVec 6) : State → Result :=
  gate { gr := [a.toNat, b.toNat], ends := true, memory := true } fun cx s =>
    let x := cx.grp.greg a.toNat
    let at_ := cx.grp.greg b.toNat
    match (if x = 0 ∨ 255 < x.toNat then none else s.polders.look x.toNat) with
    | none => .next (s.trapAll cx .perm x)
    | some p =>
      if !cx.sp.firmware && p.owner != cx.asid then .next (s.trapAll cx .perm x)
      else
        match s.readRecord cx cx.sp.firmware at_ 576 64 at_ with
        | .stop s => .next s
        | .bytes s bs =>
          let shares := shareMap (bs.take 512)
          let caddr := field bs 0x200 8
          if 2 ^ 56 ≤ caddr ∨ field bs 0x20C 52 ≠ 0 ∨ !subSet shares p.grant ∨ caddr % 4 ≠ 0 then .next (s.trapAll cx .perm at_)
          else if p.state = .resizing then .next ((s.waitOn cx (.resize x.toNat)).charge cx.core (s.weight cx.core 28))
          else
            let s := { s with
              polders := s.polders.put x.toNat
                { p with
                  state := .resizing
                  old := if p.asZero then s.zero.current else p.current
                  oldSpread := p.asZero
                  current := shares
                  completion := some
                    { asid := cx.asid, addr := BitVec.ofNat 64 caddr, value := BitVec.ofNat 32 (field bs 0x208 4), pc := cx.sp.pc
                      lanes := cx.sp.mask, kernel := cx.team.kernel, team := cx.team.linear, group := cx.grp.index, split := cx.k
                      core := cx.core, firmware := cx.sp.firmware } } }
            let s := s.retireG cx 28
            .next (if shares = p.current then s.endResize x.toNat else s)

/-- The state code of PSTAT (R407). -/
def PolderState.code (x : PolderState) : Nat :=
  match x with
  | .empty => 1
  | .active => 2
  | .resizing => 3

/-- A snapshot of a polder (R407). -/
def Polder.word (p : Polder) : DWord :=
  BitVec.ofNat 64
    (Bits.popcount p.current * 2 ^ 48 + Bits.popcount p.grant * 2 ^ 32 + p.owner % 65536 * 2 ^ 16 + p.line * 2 ^ 14 + p.assoc * 2 ^ 12
      + p.wpol * 2 ^ 10 + p.isNear.toNat * 2 ^ 9 + p.repl * 2 ^ 7 + p.degraded.toNat * 2 ^ 6 + p.state.code)

/-- Read a polder's state (R407). -/
def execPstat (a b : BitVec 6) : State → Result :=
  gate { gr := [a.toNat], gw := [b.toNat] } fun cx s =>
    let x := cx.grp.greg a.toNat
    if 255 < x.toNat then .next (s.trapAll cx .perm x)
    else
      let w := match s.polders.look x.toNat with
        | some p => p.word
        | none => 0
      .next ((s.modGroup cx.gid fun g => g.setG b.toNat w).retireG cx 28)

/-! ### Share failure (R393 to R395) -/

/-- Move idle shares of grants into polder 0, the highest polder id first, until it holds 128 shares (R394). -/
def State.refillZero (s : State) : State :=
  let ids := (s.polders.keys.filter fun k => k != 0).reverse
  let idle := ids.flatMap fun id =>
    match s.polders.look id with
    | some p => (sharesOf (p.grant &&& ~~~ p.current &&& ~~~ p.old)).map fun k => (id, k)
    | none => []
  let moved := idle.take (128 - Bits.popcount s.zero.current)
  let s := moved.foldl (fun s m =>
    { s with polders := s.polders.upd m.1 fun p => { p with grant := p.grant &&& ~~~ BitVec.twoPow 4096 m.2 } }) s
  s.moveZero (moved.foldl (fun c m => c ||| BitVec.twoPow 4096 m.2) s.zero.current)

/-- A share fails (R383, R393, R394): its lines are gone, written back where they can be read; a dirty line that cannot be is a
soft error of its own (R150). The share leaves every set and is fenced at the next boot (R25, R395). -/
def execShareFailure (share : Nat) (s : State) : Result :=
  if 4096 ≤ share ∨ s.shareFault.getLsbD share then .next s
  else
    let bit := BitVec.twoPow 4096 share
    let s := s.drainLines (share / 8) fun l => l.share == share
    let s := s.recordConfig fun c => { c with fencedShares := c.fencedShares ||| bit }
    let s := { s with
      shareFault := s.shareFault ||| bit
      polders := s.polders.map fun (p : Nat × Polder) =>
        (p.1, { p.2 with
          degraded := p.2.degraded || p.2.current.getLsbD share
          grant := p.2.grant &&& ~~~ bit
          current := p.2.current &&& ~~~ bit
          old := p.2.old &&& ~~~ bit }) }
    .next (s.report (.shareFailed share)).refillZero

end Sys2Proof.Machine
end

