-- ==== Sys2Proof/WellFormed.lean ====
section
/-! DEFINITION. The decode checks 4 and 5 of R99, which depend on the instruction and the kernel's declared
vector-register count alone. Checks 1 to 3 are the decoder's; check 6 (firmware-only) is made at issue. -/

namespace Sys2Proof

/-- A vector operand of `size` registers: the field is a multiple of the size and every register it covers lies below
the declared count (R94). -/
abbrev vreg (vregs : Nat) (r : BitVec 6) (size : Nat) : Prop := r.toNat % size = 0 ∧ r.toNat + size ≤ vregs

/-- The address pair of a lane atomic: field va[5:1] names the pair v2p, v2p+1 (R117). -/
abbrev vpair (vregs : Nat) (p : BitVec 5) : Prop := 2 * p.toNat + 2 ≤ vregs

/-- The address operand of an LM word: a pair when base is 7, otherwise one register (R92, R94). -/
abbrev lmAddr (vregs : Nat) (a : BitVec 6) (base : BitVec 3) : Prop := vreg vregs a (if base = 7 then 2 else 1)

/-- A row without a vb register operand, and the LI and LK rows: gd is not 7 (R89, R90). -/
abbrev unguardedB (g : BitVec 3) : Prop := g ≠ 7

/-- m0 is not allowed as a destination (R94). -/
abbrev maskDest (k : BitVec 3) : Prop := k ≠ 0

/-- A run of n g registers from r lies within g0 to g63 (R94). -/
abbrev gRun (r : BitVec 6) (n : Nat) : Prop := r.toNat + n ≤ 64

/-- The GR width field: 0b111 is ILLEGAL (R96). -/
abbrev widthOk (w : BitVec 3) : Prop := w ≠ 7

/-- The widths of the signed minors of R269. -/
abbrev widthS (w : BitVec 3) : Prop := w = 0 ∨ w = 1 ∨ w = 3 ∨ w = 5

/-- The widths of the unsigned minors of R269. -/
abbrev widthZ (w : BitVec 3) : Prop := w = 0 ∨ w = 2 ∨ w = 4 ∨ w = 6

/-- V2G and G2V admit the pair form and the two word forms (R122). -/
abbrev wordOrPair (w : BitVec 3) : Prop := w = 0 ∨ w = 1 ∨ w = 2

/-- The registers that the vector operand of V2G or G2V covers: a pair in the .d form (R245, R246). -/
abbrev pairOf (w : BitVec 3) : Nat := if w = 0 then 2 else 1

/-- Scope codes 6 and 7 are invalid (R62, R95). -/
abbrev scopeOk (s : BitVec 3) : Prop := s.toNat < 6

/-- The order nibble of a GS word: without the ordering flag the scope is 0; a scope is valid (R95). -/
abbrev orderNibble (c : BitVec 4) : Prop :=
  if c.getLsbD 3 then (c.setWidth 3).toNat < 6 else c = 0

/-- WAITA's condition code, 0 to 5 (R127). -/
abbrev waitCond (c : BitVec 3) : Prop := c.toNat < 6

/-- A relaxed lane atomic has scope bit 0 (R117, R307). -/
abbrev relaxedDev (r s : BitVec 1) : Prop := r = 1 ∨ s = 0

/-- The special-register numbers that R201 lists. -/
def specialNumbers : List Nat :=
  [0, 1, 2, 3, 4, 5, 6, 7, 8, 9, 10, 11, 12, 16, 17, 18, 19, 24, 25, 32, 33, 34, 35]

/-- The number of an S2G word is listed (R122, R202). -/
abbrev specialListed (n : BitVec 12) : Prop := n.toNat ∈ specialNumbers

/-- S2GC names a register marked clearable: $fflags alone (R201, R202). -/
abbrev specialClearable (n : BitVec 12) : Prop := n.toNat = 34

/-- The number a SYSR or SYSW word carries: ga × 16 + c4 (R168). -/
abbrev sysNumber (n : BitVec 6) (u : BitVec 4) : Nat := n.toNat * 16 + u.toNat

/-- The system-register numbers that R145 lists: 0x000 to 0x00E and 0x010 to 0x012. -/
abbrev sysListed (n : BitVec 6) (u : BitVec 4) : Prop := sysNumber n u ≤ 18 ∧ sysNumber n u ≠ 15

/-- The decode checks 4 and 5 of R99 for a kernel that declares `vregs` vector registers. -/
def wellFormed (vregs : Nat) : Instr → Bool

  | .iadd g d a b => decide (vreg vregs d 1 ∧ vreg vregs a 1 ∧ (g = 7 ∨ vreg vregs b 1))
  | .isub g d a b => decide (vreg vregs d 1 ∧ vreg vregs a 1 ∧ (g = 7 ∨ vreg vregs b 1))
  | .imul g d a b => decide (vreg vregs d 1 ∧ vreg vregs a 1 ∧ (g = 7 ∨ vreg vregs b 1))
  | .imulhS g d a b => decide (vreg vregs d 1 ∧ vreg vregs a 1 ∧ (g = 7 ∨ vreg vregs b 1))
  | .imulhZ g d a b => decide (vreg vregs d 1 ∧ vreg vregs a 1 ∧ (g = 7 ∨ vreg vregs b 1))
  | .iaddSatS g d a b => decide (vreg vregs d 1 ∧ vreg vregs a 1 ∧ (g = 7 ∨ vreg vregs b 1))
  | .iaddSatZ g d a b => decide (vreg vregs d 1 ∧ vreg vregs a 1 ∧ (g = 7 ∨ vreg vregs b 1))
  | .isubSatS g d a b => decide (vreg vregs d 1 ∧ vreg vregs a 1 ∧ (g = 7 ∨ vreg vregs b 1))
  | .isubSatZ g d a b => decide (vreg vregs d 1 ∧ vreg vregs a 1 ∧ (g = 7 ∨ vreg vregs b 1))
  | .iminS g d a b => decide (vreg vregs d 1 ∧ vreg vregs a 1 ∧ (g = 7 ∨ vreg vregs b 1))
  | .iminZ g d a b => decide (vreg vregs d 1 ∧ vreg vregs a 1 ∧ (g = 7 ∨ vreg vregs b 1))
  | .imaxS g d a b => decide (vreg vregs d 1 ∧ vreg vregs a 1 ∧ (g = 7 ∨ vreg vregs b 1))
  | .imaxZ g d a b => decide (vreg vregs d 1 ∧ vreg vregs a 1 ∧ (g = 7 ∨ vreg vregs b 1))
  | .iabs g d a => decide (unguardedB g ∧ vreg vregs d 1 ∧ vreg vregs a 1)
  | .ineg g d a => decide (unguardedB g ∧ vreg vregs d 1 ∧ vreg vregs a 1)
  | .iadd64 g d a b => decide (vreg vregs d 2 ∧ vreg vregs a 2 ∧ (g = 7 ∨ vreg vregs b 2))
  | .iadd64S g d a b => decide (vreg vregs d 2 ∧ vreg vregs a 2 ∧ (g = 7 ∨ vreg vregs b 1))
  | .iadd64Z g d a b => decide (vreg vregs d 2 ∧ vreg vregs a 2 ∧ (g = 7 ∨ vreg vregs b 1))
  | .isub64 g d a b => decide (vreg vregs d 2 ∧ vreg vregs a 2 ∧ (g = 7 ∨ vreg vregs b 2))
  | .imulwS g d a b => decide (vreg vregs d 2 ∧ vreg vregs a 1 ∧ (g = 7 ∨ vreg vregs b 1))
  | .imulwZ g d a b => decide (vreg vregs d 2 ∧ vreg vregs a 1 ∧ (g = 7 ∨ vreg vregs b 1))
  | .and g d a b => decide (vreg vregs d 1 ∧ vreg vregs a 1 ∧ (g = 7 ∨ vreg vregs b 1))
  | .or g d a b => decide (vreg vregs d 1 ∧ vreg vregs a 1 ∧ (g = 7 ∨ vreg vregs b 1))
  | .xor g d a b => decide (vreg vregs d 1 ∧ vreg vregs a 1 ∧ (g = 7 ∨ vreg vregs b 1))
  | .andn g d a b => decide (vreg vregs d 1 ∧ vreg vregs a 1 ∧ (g = 7 ∨ vreg vregs b 1))
  | .not g d a => decide (unguardedB g ∧ vreg vregs d 1 ∧ vreg vregs a 1)
  | .shl g d a b => decide (vreg vregs d 1 ∧ vreg vregs a 1 ∧ (g = 7 ∨ vreg vregs b 1))
  | .shr g d a b => decide (vreg vregs d 1 ∧ vreg vregs a 1 ∧ (g = 7 ∨ vreg vregs b 1))
  | .sar g d a b => decide (vreg vregs d 1 ∧ vreg vregs a 1 ∧ (g = 7 ∨ vreg vregs b 1))
  | .rol g d a b => decide (vreg vregs d 1 ∧ vreg vregs a 1 ∧ (g = 7 ∨ vreg vregs b 1))
  | .popc g d a => decide (unguardedB g ∧ vreg vregs d 1 ∧ vreg vregs a 1)
  | .clz g d a => decide (unguardedB g ∧ vreg vregs d 1 ∧ vreg vregs a 1)
  | .brev g d a => decide (unguardedB g ∧ vreg vregs d 1 ∧ vreg vregs a 1)
  | .shl64 g d a b => decide (vreg vregs d 2 ∧ vreg vregs a 2 ∧ (g = 7 ∨ vreg vregs b 1))
  | .shr64 g d a b => decide (vreg vregs d 2 ∧ vreg vregs a 2 ∧ (g = 7 ∨ vreg vregs b 1))
  | .sar64 g d a b => decide (vreg vregs d 2 ∧ vreg vregs a 2 ∧ (g = 7 ∨ vreg vregs b 1))
  | .mov g d a => decide (unguardedB g ∧ vreg vregs d 1 ∧ vreg vregs a 1)
  | .icmpEq g k a b => decide (maskDest k ∧ vreg vregs a 1 ∧ (g = 7 ∨ vreg vregs b 1))
  | .icmpNe g k a b => decide (maskDest k ∧ vreg vregs a 1 ∧ (g = 7 ∨ vreg vregs b 1))
  | .icmpLtS g k a b => decide (maskDest k ∧ vreg vregs a 1 ∧ (g = 7 ∨ vreg vregs b 1))
  | .icmpLeS g k a b => decide (maskDest k ∧ vreg vregs a 1 ∧ (g = 7 ∨ vreg vregs b 1))
  | .icmpGtS g k a b => decide (maskDest k ∧ vreg vregs a 1 ∧ (g = 7 ∨ vreg vregs b 1))
  | .icmpGeS g k a b => decide (maskDest k ∧ vreg vregs a 1 ∧ (g = 7 ∨ vreg vregs b 1))
  | .icmpLtZ g k a b => decide (maskDest k ∧ vreg vregs a 1 ∧ (g = 7 ∨ vreg vregs b 1))
  | .icmpLeZ g k a b => decide (maskDest k ∧ vreg vregs a 1 ∧ (g = 7 ∨ vreg vregs b 1))
  | .icmpGtZ g k a b => decide (maskDest k ∧ vreg vregs a 1 ∧ (g = 7 ∨ vreg vregs b 1))
  | .icmpGeZ g k a b => decide (maskDest k ∧ vreg vregs a 1 ∧ (g = 7 ∨ vreg vregs b 1))
  | .fcmpEq g k a b => decide (maskDest k ∧ vreg vregs a 1 ∧ (g = 7 ∨ vreg vregs b 1))
  | .fcmpNe g k a b => decide (maskDest k ∧ vreg vregs a 1 ∧ (g = 7 ∨ vreg vregs b 1))
  | .fcmpLt g k a b => decide (maskDest k ∧ vreg vregs a 1 ∧ (g = 7 ∨ vreg vregs b 1))
  | .fcmpLe g k a b => decide (maskDest k ∧ vreg vregs a 1 ∧ (g = 7 ∨ vreg vregs b 1))
  | .fcmpGt g k a b => decide (maskDest k ∧ vreg vregs a 1 ∧ (g = 7 ∨ vreg vregs b 1))
  | .fcmpGe g k a b => decide (maskDest k ∧ vreg vregs a 1 ∧ (g = 7 ∨ vreg vregs b 1))
  | .fcmpNan g k a b => decide (maskDest k ∧ vreg vregs a 1 ∧ (g = 7 ∨ vreg vregs b 1))
  | .dcmpEq g k a b => decide (maskDest k ∧ vreg vregs a 2 ∧ (g = 7 ∨ vreg vregs b 2))
  | .dcmpNe g k a b => decide (maskDest k ∧ vreg vregs a 2 ∧ (g = 7 ∨ vreg vregs b 2))
  | .dcmpLt g k a b => decide (maskDest k ∧ vreg vregs a 2 ∧ (g = 7 ∨ vreg vregs b 2))
  | .dcmpLe g k a b => decide (maskDest k ∧ vreg vregs a 2 ∧ (g = 7 ∨ vreg vregs b 2))
  | .dcmpGt g k a b => decide (maskDest k ∧ vreg vregs a 2 ∧ (g = 7 ∨ vreg vregs b 2))
  | .dcmpGe g k a b => decide (maskDest k ∧ vreg vregs a 2 ∧ (g = 7 ∨ vreg vregs b 2))
  | .dcmpNan g k a b => decide (maskDest k ∧ vreg vregs a 2 ∧ (g = 7 ∨ vreg vregs b 2))
  | .v2m g k a => decide (unguardedB g ∧ maskDest k ∧ vreg vregs a 1)
  | .m2v g d _ => decide (unguardedB g ∧ vreg vregs d 1)
  | .fadd g d a b => decide (vreg vregs d 1 ∧ vreg vregs a 1 ∧ (g = 7 ∨ vreg vregs b 1))
  | .fsub g d a b => decide (vreg vregs d 1 ∧ vreg vregs a 1 ∧ (g = 7 ∨ vreg vregs b 1))
  | .fmul g d a b => decide (vreg vregs d 1 ∧ vreg vregs a 1 ∧ (g = 7 ∨ vreg vregs b 1))
  | .fmin g d a b => decide (vreg vregs d 1 ∧ vreg vregs a 1 ∧ (g = 7 ∨ vreg vregs b 1))
  | .fmax g d a b => decide (vreg vregs d 1 ∧ vreg vregs a 1 ∧ (g = 7 ∨ vreg vregs b 1))
  | .fabs g d a => decide (unguardedB g ∧ vreg vregs d 1 ∧ vreg vregs a 1)
  | .fneg g d a => decide (unguardedB g ∧ vreg vregs d 1 ∧ vreg vregs a 1)
  | .faddH2 g d a b => decide (vreg vregs d 1 ∧ vreg vregs a 1 ∧ (g = 7 ∨ vreg vregs b 1))
  | .fsubH2 g d a b => decide (vreg vregs d 1 ∧ vreg vregs a 1 ∧ (g = 7 ∨ vreg vregs b 1))
  | .fmulH2 g d a b => decide (vreg vregs d 1 ∧ vreg vregs a 1 ∧ (g = 7 ∨ vreg vregs b 1))
  | .fminH2 g d a b => decide (vreg vregs d 1 ∧ vreg vregs a 1 ∧ (g = 7 ∨ vreg vregs b 1))
  | .fmaxH2 g d a b => decide (vreg vregs d 1 ∧ vreg vregs a 1 ∧ (g = 7 ∨ vreg vregs b 1))
  | .faddB2 g d a b => decide (vreg vregs d 1 ∧ vreg vregs a 1 ∧ (g = 7 ∨ vreg vregs b 1))
  | .fsubB2 g d a b => decide (vreg vregs d 1 ∧ vreg vregs a 1 ∧ (g = 7 ∨ vreg vregs b 1))
  | .fmulB2 g d a b => decide (vreg vregs d 1 ∧ vreg vregs a 1 ∧ (g = 7 ∨ vreg vregs b 1))
  | .fminB2 g d a b => decide (vreg vregs d 1 ∧ vreg vregs a 1 ∧ (g = 7 ∨ vreg vregs b 1))
  | .fmaxB2 g d a b => decide (vreg vregs d 1 ∧ vreg vregs a 1 ∧ (g = 7 ∨ vreg vregs b 1))
  | .dadd g d a b => decide (vreg vregs d 2 ∧ vreg vregs a 2 ∧ (g = 7 ∨ vreg vregs b 2))
  | .dsub g d a b => decide (vreg vregs d 2 ∧ vreg vregs a 2 ∧ (g = 7 ∨ vreg vregs b 2))
  | .dmul g d a b => decide (vreg vregs d 2 ∧ vreg vregs a 2 ∧ (g = 7 ∨ vreg vregs b 2))
  | .dmin g d a b => decide (vreg vregs d 2 ∧ vreg vregs a 2 ∧ (g = 7 ∨ vreg vregs b 2))
  | .dmax g d a b => decide (vreg vregs d 2 ∧ vreg vregs a 2 ∧ (g = 7 ∨ vreg vregs b 2))
  | .dabs g d a => decide (unguardedB g ∧ vreg vregs d 2 ∧ vreg vregs a 2)
  | .dneg g d a => decide (unguardedB g ∧ vreg vregs d 2 ∧ vreg vregs a 2)
  | .frcp g d a => decide (unguardedB g ∧ vreg vregs d 1 ∧ vreg vregs a 1)
  | .frsq g d a => decide (unguardedB g ∧ vreg vregs d 1 ∧ vreg vregs a 1)
  | .fexp2 g d a => decide (unguardedB g ∧ vreg vregs d 1 ∧ vreg vregs a 1)
  | .flog2 g d a => decide (unguardedB g ∧ vreg vregs d 1 ∧ vreg vregs a 1)
  | .fsin g d a => decide (unguardedB g ∧ vreg vregs d 1 ∧ vreg vregs a 1)
  | .fcos g d a => decide (unguardedB g ∧ vreg vregs d 1 ∧ vreg vregs a 1)
  | .frcpH2 g d a => decide (unguardedB g ∧ vreg vregs d 1 ∧ vreg vregs a 1)
  | .frsqH2 g d a => decide (unguardedB g ∧ vreg vregs d 1 ∧ vreg vregs a 1)
  | .fexp2H2 g d a => decide (unguardedB g ∧ vreg vregs d 1 ∧ vreg vregs a 1)
  | .flog2H2 g d a => decide (unguardedB g ∧ vreg vregs d 1 ∧ vreg vregs a 1)
  | .i2fS g d a => decide (unguardedB g ∧ vreg vregs d 1 ∧ vreg vregs a 1)
  | .i2fZ g d a => decide (unguardedB g ∧ vreg vregs d 1 ∧ vreg vregs a 1)
  | .f2iS g d a => decide (unguardedB g ∧ vreg vregs d 1 ∧ vreg vregs a 1)
  | .f2iSTz g d a => decide (unguardedB g ∧ vreg vregs d 1 ∧ vreg vregs a 1)
  | .f2iZ g d a => decide (unguardedB g ∧ vreg vregs d 1 ∧ vreg vregs a 1)
  | .f2iZTz g d a => decide (unguardedB g ∧ vreg vregs d 1 ∧ vreg vregs a 1)
  | .i2dS g d a => decide (unguardedB g ∧ vreg vregs d 2 ∧ vreg vregs a 1)
  | .i2dZ g d a => decide (unguardedB g ∧ vreg vregs d 2 ∧ vreg vregs a 1)
  | .d2iS g d a => decide (unguardedB g ∧ vreg vregs d 1 ∧ vreg vregs a 2)
  | .d2iSTz g d a => decide (unguardedB g ∧ vreg vregs d 1 ∧ vreg vregs a 2)
  | .d2iZ g d a => decide (unguardedB g ∧ vreg vregs d 1 ∧ vreg vregs a 2)
  | .d2iZTz g d a => decide (unguardedB g ∧ vreg vregs d 1 ∧ vreg vregs a 2)
  | .f2d g d a => decide (unguardedB g ∧ vreg vregs d 2 ∧ vreg vregs a 1)
  | .d2f g d a => decide (unguardedB g ∧ vreg vregs d 1 ∧ vreg vregs a 2)
  | .f2h2 g d a b => decide (vreg vregs d 1 ∧ vreg vregs a 1 ∧ (g = 7 ∨ vreg vregs b 1))
  | .h2fLo g d a => decide (unguardedB g ∧ vreg vregs d 1 ∧ vreg vregs a 1)
  | .h2fHi g d a => decide (unguardedB g ∧ vreg vregs d 1 ∧ vreg vregs a 1)
  | .f2b2 g d a b => decide (vreg vregs d 1 ∧ vreg vregs a 1 ∧ (g = 7 ∨ vreg vregs b 1))
  | .b2fLo g d a => decide (unguardedB g ∧ vreg vregs d 1 ∧ vreg vregs a 1)
  | .b2fHi g d a => decide (unguardedB g ∧ vreg vregs d 1 ∧ vreg vregs a 1)
  | .nscale g d a _ => decide (unguardedB g ∧ vreg vregs d 1 ∧ vreg vregs a 1)
  | .npack g d a _ => decide (unguardedB g ∧ vreg vregs d 1 ∧ vreg vregs a 1)
  | .nunpk g d a _ => decide (unguardedB g ∧ vreg vregs d 1 ∧ vreg vregs a 1)
  | .ffma d a b c => decide (vreg vregs d 1 ∧ vreg vregs a 1 ∧ vreg vregs b 1 ∧ vreg vregs c 1)
  | .ffms d a b c => decide (vreg vregs d 1 ∧ vreg vregs a 1 ∧ vreg vregs b 1 ∧ vreg vregs c 1)
  | .fnma d a b c => decide (vreg vregs d 1 ∧ vreg vregs a 1 ∧ vreg vregs b 1 ∧ vreg vregs c 1)
  | .ffmaH2 d a b c => decide (vreg vregs d 1 ∧ vreg vregs a 1 ∧ vreg vregs b 1 ∧ vreg vregs c 1)
  | .ffmaB2 d a b c => decide (vreg vregs d 1 ∧ vreg vregs a 1 ∧ vreg vregs b 1 ∧ vreg vregs c 1)
  | .dfma d a b c => decide (vreg vregs d 2 ∧ vreg vregs a 2 ∧ vreg vregs b 2 ∧ vreg vregs c 2)
  | .dfms d a b c => decide (vreg vregs d 2 ∧ vreg vregs a 2 ∧ vreg vregs b 2 ∧ vreg vregs c 2)
  | .dfnma d a b c => decide (vreg vregs d 2 ∧ vreg vregs a 2 ∧ vreg vregs b 2 ∧ vreg vregs c 2)
  | .imad d a b c => decide (vreg vregs d 1 ∧ vreg vregs a 1 ∧ vreg vregs b 1 ∧ vreg vregs c 1)
  | .imadwS d a b c => decide (vreg vregs d 2 ∧ vreg vregs a 1 ∧ vreg vregs b 1 ∧ vreg vregs c 2)
  | .imadwZ d a b c => decide (vreg vregs d 2 ∧ vreg vregs a 1 ∧ vreg vregs b 1 ∧ vreg vregs c 2)
  | .sel d a b _ => decide (vreg vregs d 1 ∧ vreg vregs a 1 ∧ vreg vregs b 1)
  | .sel64 d a b _ => decide (vreg vregs d 2 ∧ vreg vregs a 2 ∧ vreg vregs b 2)
  | .iaddImm g d a _ => decide (unguardedB g ∧ vreg vregs d 1 ∧ vreg vregs a 1)
  | .imulImm g d a _ => decide (unguardedB g ∧ vreg vregs d 1 ∧ vreg vregs a 1)
  | .andImm g d a _ => decide (unguardedB g ∧ vreg vregs d 1 ∧ vreg vregs a 1)
  | .orImm g d a _ => decide (unguardedB g ∧ vreg vregs d 1 ∧ vreg vregs a 1)
  | .xorImm g d a _ => decide (unguardedB g ∧ vreg vregs d 1 ∧ vreg vregs a 1)
  | .shlImm g d a _ => decide (unguardedB g ∧ vreg vregs d 1 ∧ vreg vregs a 1)
  | .shrImm g d a _ => decide (unguardedB g ∧ vreg vregs d 1 ∧ vreg vregs a 1)
  | .sarImm g d a _ => decide (unguardedB g ∧ vreg vregs d 1 ∧ vreg vregs a 1)
  | .icmpEqImm g k a _ => decide (unguardedB g ∧ maskDest k ∧ vreg vregs a 1)
  | .icmpNeImm g k a _ => decide (unguardedB g ∧ maskDest k ∧ vreg vregs a 1)
  | .icmpLtSImm g k a _ => decide (unguardedB g ∧ maskDest k ∧ vreg vregs a 1)
  | .icmpGtSImm g k a _ => decide (unguardedB g ∧ maskDest k ∧ vreg vregs a 1)
  | .icmpLtZImm g k a _ => decide (unguardedB g ∧ maskDest k ∧ vreg vregs a 1)
  | .icmpGtZImm g k a _ => decide (unguardedB g ∧ maskDest k ∧ vreg vregs a 1)
  | .bfxZ g d a _ _ => decide (unguardedB g ∧ vreg vregs d 1 ∧ vreg vregs a 1)
  | .bfxS g d a _ _ => decide (unguardedB g ∧ vreg vregs d 1 ∧ vreg vregs a 1)
  | .bfi g d a _ _ => decide (unguardedB g ∧ vreg vregs d 1 ∧ vreg vregs a 1)
  | .lseq g d a _ => decide (unguardedB g ∧ vreg vregs d 1 ∧ vreg vregs a 1)
  | .ldi g d _ => decide (unguardedB g ∧ vreg vregs d 1)
  | .ldih g d _ => decide (unguardedB g ∧ vreg vregs d 1)
  | .addih g d _ => decide (unguardedB g ∧ vreg vregs d 1)
  | .ldZb _ d a b => decide (vreg vregs d 1 ∧ lmAddr vregs a b)
  | .ldSb _ d a b => decide (vreg vregs d 1 ∧ lmAddr vregs a b)
  | .ldZh _ d a b => decide (vreg vregs d 1 ∧ lmAddr vregs a b)
  | .ldSh _ d a b => decide (vreg vregs d 1 ∧ lmAddr vregs a b)
  | .ldW _ d a b => decide (vreg vregs d 1 ∧ lmAddr vregs a b)
  | .ldD _ d a b => decide (vreg vregs d 2 ∧ lmAddr vregs a b)
  | .ldQ _ d a b => decide (vreg vregs d 4 ∧ lmAddr vregs a b)
  | .ldWAcqDev _ d a b => decide (vreg vregs d 1 ∧ lmAddr vregs a b)
  | .ldDAcqDev _ d a b => decide (vreg vregs d 2 ∧ lmAddr vregs a b)
  | .ldWAcqSys _ d a b => decide (vreg vregs d 1 ∧ lmAddr vregs a b)
  | .ldDAcqSys _ d a b => decide (vreg vregs d 2 ∧ lmAddr vregs a b)
  | .stB s a b => decide (vreg vregs s 1 ∧ lmAddr vregs a b)
  | .stH s a b => decide (vreg vregs s 1 ∧ lmAddr vregs a b)
  | .stW s a b => decide (vreg vregs s 1 ∧ lmAddr vregs a b)
  | .stD s a b => decide (vreg vregs s 2 ∧ lmAddr vregs a b)
  | .stQ s a b => decide (vreg vregs s 4 ∧ lmAddr vregs a b)
  | .stWRelDev s a b => decide (vreg vregs s 1 ∧ lmAddr vregs a b)
  | .stDRelDev s a b => decide (vreg vregs s 2 ∧ lmAddr vregs a b)
  | .stWRelSys s a b => decide (vreg vregs s 1 ∧ lmAddr vregs a b)
  | .stDRelSys s a b => decide (vreg vregs s 2 ∧ lmAddr vregs a b)
  | .ldsZb d a _ b => decide (vreg vregs d 1 ∧ lmAddr vregs a b)
  | .ldsSb d a _ b => decide (vreg vregs d 1 ∧ lmAddr vregs a b)
  | .ldsZh d a _ b => decide (vreg vregs d 1 ∧ lmAddr vregs a b)
  | .ldsSh d a _ b => decide (vreg vregs d 1 ∧ lmAddr vregs a b)
  | .ldsW d a _ b => decide (vreg vregs d 1 ∧ lmAddr vregs a b)
  | .ldsD d a _ b => decide (vreg vregs d 2 ∧ lmAddr vregs a b)
  | .ldsQ d a _ b => decide (vreg vregs d 4 ∧ lmAddr vregs a b)
  | .stsB s a _ b => decide (vreg vregs s 1 ∧ lmAddr vregs a b)
  | .stsH s a _ b => decide (vreg vregs s 1 ∧ lmAddr vregs a b)
  | .stsW s a _ b => decide (vreg vregs s 1 ∧ lmAddr vregs a b)
  | .stsD s a _ b => decide (vreg vregs s 2 ∧ lmAddr vregs a b)
  | .stsQ s a _ b => decide (vreg vregs s 4 ∧ lmAddr vregs a b)
  | .atsAdd d a _ b => decide (vreg vregs d 1 ∧ lmAddr vregs a b)
  | .atsXchg d a _ b => decide (vreg vregs d 1 ∧ lmAddr vregs a b)
  | .atsCas d a _ b => decide (vreg vregs d 2 ∧ lmAddr vregs a b)
  | .atomAdd r _ d a s b => decide (vreg vregs d 1 ∧ vpair vregs a ∧ vreg vregs b 1 ∧ relaxedDev r s)
  | .atomAnd r _ d a s b => decide (vreg vregs d 1 ∧ vpair vregs a ∧ vreg vregs b 1 ∧ relaxedDev r s)
  | .atomOr r _ d a s b => decide (vreg vregs d 1 ∧ vpair vregs a ∧ vreg vregs b 1 ∧ relaxedDev r s)
  | .atomXor r _ d a s b => decide (vreg vregs d 1 ∧ vpair vregs a ∧ vreg vregs b 1 ∧ relaxedDev r s)
  | .atomXchg r _ d a s b => decide (vreg vregs d 1 ∧ vpair vregs a ∧ vreg vregs b 1 ∧ relaxedDev r s)
  | .atomCas r _ d a s b => decide (vreg vregs d 1 ∧ vpair vregs a ∧ vreg vregs b 2 ∧ relaxedDev r s)
  | .atomMinS r _ d a s b => decide (vreg vregs d 1 ∧ vpair vregs a ∧ vreg vregs b 1 ∧ relaxedDev r s)
  | .atomMaxS r _ d a s b => decide (vreg vregs d 1 ∧ vpair vregs a ∧ vreg vregs b 1 ∧ relaxedDev r s)
  | .atomMinZ r _ d a s b => decide (vreg vregs d 1 ∧ vpair vregs a ∧ vreg vregs b 1 ∧ relaxedDev r s)
  | .atomMaxZ r _ d a s b => decide (vreg vregs d 1 ∧ vpair vregs a ∧ vreg vregs b 1 ∧ relaxedDev r s)
  | .atomFadd r _ d a s b => decide (vreg vregs d 1 ∧ vpair vregs a ∧ vreg vregs b 1 ∧ relaxedDev r s)
  | .atomAddD r _ d a s b => decide (vreg vregs d 2 ∧ vpair vregs a ∧ vreg vregs b 2 ∧ relaxedDev r s)
  | .atomXchgD r _ d a s b => decide (vreg vregs d 2 ∧ vpair vregs a ∧ vreg vregs b 2 ∧ relaxedDev r s)
  | .atomCasD r _ d a s b => decide (vreg vregs d 2 ∧ vpair vregs a ∧ vreg vregs b 4 ∧ relaxedDev r s)
  | .atomMinZD r _ d a s b => decide (vreg vregs d 2 ∧ vpair vregs a ∧ vreg vregs b 2 ∧ relaxedDev r s)
  | .atomMaxZD r _ d a s b => decide (vreg vregs d 2 ∧ vpair vregs a ∧ vreg vregs b 2 ∧ relaxedDev r s)
  | .xlnBack d a _ => decide (vreg vregs d 1 ∧ vreg vregs a 1)
  | .xlnAhead d a _ => decide (vreg vregs d 1 ∧ vreg vregs a 1)
  | .xlnRot d a _ => decide (vreg vregs d 1 ∧ vreg vregs a 1)
  | .xlnFlip d a _ => decide (vreg vregs d 1 ∧ vreg vregs a 1)
  | .xlnPick d a _ => decide (vreg vregs d 1 ∧ vreg vregs a 1)
  | .xlnVar d a => decide (vreg vregs d 1 ∧ vreg vregs a 1)
  | .redsIadd d a => decide (vreg vregs d 1 ∧ vreg vregs a 1)
  | .redsIminS d a => decide (vreg vregs d 1 ∧ vreg vregs a 1)
  | .redsImaxS d a => decide (vreg vregs d 1 ∧ vreg vregs a 1)
  | .redsIminZ d a => decide (vreg vregs d 1 ∧ vreg vregs a 1)
  | .redsImaxZ d a => decide (vreg vregs d 1 ∧ vreg vregs a 1)
  | .redsAnd d a => decide (vreg vregs d 1 ∧ vreg vregs a 1)
  | .redsOr d a => decide (vreg vregs d 1 ∧ vreg vregs a 1)
  | .redsXor d a => decide (vreg vregs d 1 ∧ vreg vregs a 1)
  | .redsFadd d a => decide (vreg vregs d 1 ∧ vreg vregs a 1)
  | .redsFmin d a => decide (vreg vregs d 1 ∧ vreg vregs a 1)
  | .redsFmax d a => decide (vreg vregs d 1 ∧ vreg vregs a 1)
  | .redsDadd d a => decide (vreg vregs d 2 ∧ vreg vregs a 2)
  | .scanIadd d a _ => decide (vreg vregs d 1 ∧ vreg vregs a 1)
  | .scanIminS d a _ => decide (vreg vregs d 1 ∧ vreg vregs a 1)
  | .scanImaxS d a _ => decide (vreg vregs d 1 ∧ vreg vregs a 1)
  | .scanIminZ d a _ => decide (vreg vregs d 1 ∧ vreg vregs a 1)
  | .scanImaxZ d a _ => decide (vreg vregs d 1 ∧ vreg vregs a 1)
  | .scanAnd d a _ => decide (vreg vregs d 1 ∧ vreg vregs a 1)
  | .scanOr d a _ => decide (vreg vregs d 1 ∧ vreg vregs a 1)
  | .scanXor d a _ => decide (vreg vregs d 1 ∧ vreg vregs a 1)
  | .scanFadd d a _ => decide (vreg vregs d 1 ∧ vreg vregs a 1)
  | .scanFmin d a _ => decide (vreg vregs d 1 ∧ vreg vregs a 1)
  | .scanFmax d a _ => decide (vreg vregs d 1 ∧ vreg vregs a 1)
  | .scanDadd d a _ => decide (vreg vregs d 2 ∧ vreg vregs a 2)
  | .mbq a => decide (vreg vregs a 8)
  | .mdrain _ d a _ => decide (vreg vregs d 1 ∧ vreg vregs a 1)
  | .mdrainRaw _ d a _ => decide (vreg vregs d 1 ∧ vreg vregs a 1)
  | .mfill s a => decide (vreg vregs s 1 ∧ vreg vregs a 1)
  | .gadd w _ _ _ => decide (widthOk w)
  | .gsub w _ _ _ => decide (widthOk w)
  | .gmul w _ _ _ => decide (widthOk w)
  | .gmulhS w _ _ _ => decide (widthS w)
  | .gmulhZ w _ _ _ => decide (widthZ w)
  | .gminS w _ _ _ => decide (widthS w)
  | .gmaxS w _ _ _ => decide (widthS w)
  | .gminZ w _ _ _ => decide (widthZ w)
  | .gmaxZ w _ _ _ => decide (widthZ w)
  | .gneg w _ _ => decide (widthOk w)
  | .gand w _ _ _ => decide (widthOk w)
  | .gor w _ _ _ => decide (widthOk w)
  | .gxor w _ _ _ => decide (widthOk w)
  | .gandn w _ _ _ => decide (widthOk w)
  | .gnot w _ _ => decide (widthOk w)
  | .gshl w _ _ _ => decide (widthOk w)
  | .gshr w _ _ _ => decide (widthOk w)
  | .gsar w _ _ _ => decide (widthOk w)
  | .gpopc w _ _ => decide (widthOk w)
  | .gclz w _ _ => decide (widthOk w)
  | .gbrev w _ _ => decide (widthOk w)
  | .gcmpEq w k _ _ => decide (widthOk w ∧ maskDest k)
  | .gcmpNe w k _ _ => decide (widthOk w ∧ maskDest k)
  | .gcmpLtS w k _ _ => decide (widthS w ∧ maskDest k)
  | .gcmpLeS w k _ _ => decide (widthS w ∧ maskDest k)
  | .gcmpLtZ w k _ _ => decide (widthZ w ∧ maskDest k)
  | .gcmpLeZ w k _ _ => decide (widthZ w ∧ maskDest k)
  | .gselNz _ _ _ => true
  | .movG _ _ => true
  | .v2g w _ a _ => decide (wordOrPair w ∧ vreg vregs a (pairOf w))
  | .g2v w d _ => decide (wordOrPair w ∧ vreg vregs d (pairOf w))
  | .s2g _ n => decide (specialListed n)
  | .s2gc _ n => decide (specialClearable n)
  | .gaddImm _ _ _ => true
  | .gmulImm _ _ _ => true
  | .gandImm _ _ _ => true
  | .gorImm _ _ _ => true
  | .gxorImm _ _ _ => true
  | .gshlImm _ _ _ => true
  | .gshrImm _ _ _ => true
  | .gsarImm _ _ _ => true
  | .gcmpEqImm k _ _ => decide (maskDest k)
  | .gcmpLtSImm k _ _ => decide (maskDest k)
  | .gcmpLtZImm k _ _ => decide (maskDest k)
  | .gldq _ _ _ => true
  | .ginsq _ _ _ => true
  | .gaddq _ _ _ => true
  | .bra _ => true
  | .braAny _ _ => true
  | .braNone _ _ => true
  | .braD _ _ _ => true
  | .call _ => true
  | .join _ => true
  | .mand k _ _ => decide (maskDest k)
  | .mor k _ _ => decide (maskDest k)
  | .mxor k _ _ => decide (maskDest k)
  | .mandn k _ _ => decide (maskDest k)
  | .mnot k _ => decide (maskDest k)
  | .m2g _ _ => true
  | .g2m k _ => decide (maskDest k)
  | .mpopc _ _ => true
  | .j2m k _ => decide (maskDest k)
  | .m2j _ _ => true
  | .matchWord d a => decide (vreg vregs d 1 ∧ vreg vregs a 1)
  | .matchPair d a => decide (vreg vregs d 1 ∧ vreg vregs a 2)
  | .vote k a => decide (maskDest k ∧ vreg vregs a 1)
  | .elect k => decide (maskDest k)
  | .ret _ => true
  | .brx _ => true
  | .exit => true
  | .barInit _ _ _ => true
  | .barArv _ => true
  | .barArvb _ _ => true
  | .barExp _ _ => true
  | .barWait _ _ => true
  | .barTest _ _ => true
  | .barInval _ => true
  | .waita _ _ _ c => decide (waitCond c)
  | .wakea _ => true
  | .cpyLd _ b o => decide (orderNibble o ∧ gRun b 4)
  | .cpySt _ b o => decide (orderNibble o ∧ gRun b 4)
  | .cpySc _ b o => decide (orderNibble o ∧ gRun b 4)
  | .cpyPf _ b o => decide (orderNibble o ∧ gRun b 4)
  | .cpySeal => true
  | .cpyWaitn _ => true
  | .mres k => decide (maskDest k)
  | .mrel => true
  | .mzero _ => true
  | .mfence => true
  | .mwait _ => true
  | .mma _ _ _ _ o => decide (orderNibble o)
  | .gldZb _ _ _ o => decide (orderNibble o)
  | .gldSb _ _ _ o => decide (orderNibble o)
  | .gldZh _ _ _ o => decide (orderNibble o)
  | .gldSh _ _ _ o => decide (orderNibble o)
  | .gldW _ _ _ o => decide (orderNibble o)
  | .gldD _ _ _ o => decide (orderNibble o)
  | .gstB _ _ o => decide (orderNibble o)
  | .gstH _ _ o => decide (orderNibble o)
  | .gstW _ _ o => decide (orderNibble o)
  | .gstD _ _ o => decide (orderNibble o)
  | .gatomAdd _ _ _ o => decide (orderNibble o)
  | .gatomAnd _ _ _ o => decide (orderNibble o)
  | .gatomOr _ _ _ o => decide (orderNibble o)
  | .gatomXor _ _ _ o => decide (orderNibble o)
  | .gatomXchg _ _ _ o => decide (orderNibble o)
  | .gatomCas _ _ b o => decide (orderNibble o ∧ gRun b 2)
  | .gatomMinS _ _ _ o => decide (orderNibble o)
  | .gatomMaxS _ _ _ o => decide (orderNibble o)
  | .gatomMinZ _ _ _ o => decide (orderNibble o)
  | .gatomMaxZ _ _ _ o => decide (orderNibble o)
  | .gatomFadd _ _ _ o => decide (orderNibble o)
  | .gatomAddD _ _ _ o => decide (orderNibble o)
  | .gatomXchgD _ _ _ o => decide (orderNibble o)
  | .gatomCasD _ _ b o => decide (orderNibble o ∧ gRun b 2)
  | .gatomMinZD _ _ _ o => decide (orderNibble o)
  | .gatomMaxZD _ _ _ o => decide (orderNibble o)
  | .qpost _ _ => true
  | .qsig _ _ => true
  | .qstat _ _ => true
  | .kabort _ => true
  | .region a n => decide (gRun a (n.toNat + 1))
  | .regx => true
  | .rdenter => true
  | .rdexit => true
  | .qpoint => true
  | .gpstart _ => true
  | .gpwait _ => true
  | .gppoll _ _ => true
  | .gpfree _ _ => true
  | .publ _ => true
  | .pdef _ => true
  | .presize _ _ => true
  | .tlbiPage _ => true
  | .tlbiAsid _ => true
  | .tlbiAll => true
  | .tlbi2m _ => true
  | .tlbi1g _ => true
  | .pmig _ _ => true
  | .pclass _ _ => true
  | .pstat _ _ => true
  | .coll _ _ => true
  | .pubv _ => true
  | .psub _ _ => true
  | .lstat _ _ => true
  | .nop => true
  | .trap _ => true
  | .eret => true
  | .trapret => true
  | .sysr n _ u => decide (sysListed n u)
  | .sysw n _ u => decide (sysListed n u)
  | .fence s => decide (scopeOk s)
  | .time _ => true
  | .clock _ => true
  | .yield => true
  | .noreuse => true
  | .illegalWordIssue => true
  | .instructionFetchFault => true
  | .trapDelivery _ _ => true
  | .splitMerge _ _ _ => true
  | .waitSwap _ _ => true
  | .sluiceReply _ _ _ => true
  | .storeQueueRetire _ => true
  | .storeAck _ _ => true
  | .watchdogExpiry _ _ => true
  | .masterCycle _ => true
  | .copyLanding _ _ _ _ => true
  | .matrixOpComplete _ => true
  | .waitaReread _ _ => true
  | .gpStart => true
  | .quiescentRecord _ => true
  | .spillMove _ => true
  | .watchedLineWrite _ _ => true
  | .dispatchArbitration => true
  | .placerOffer => true
  | .passOverTimeout _ => true
  | .teamRetire _ => true
  | .kernelDone _ => true
  | .teamSave _ => true
  | .teamSaveComplete _ => true
  | .teamRestore _ _ => true
  | .teamDiscard _ => true
  | .softErrorDetected _ _ => true
  | .pagerResolved _ _ => true
  | .pagerFailed _ _ => true
  | .pagerInstall _ _ _ _ => true
  | .migrationStart _ _ _ => true
  | .migrateLine _ _ _ => true
  | .migrationFinish _ _ => true
  | .migrationAbort _ _ => true
  | .homeAccess _ _ _ _ => true
  | .reclassifyComplete _ => true
  | .pageClassIdle _ => true
  | .dirFill _ _ _ _ => true
  | .dirWrite _ _ _ _ => true
  | .evictionNotice _ _ => true
  | .invalAck _ _ => true
  | .dirMerge _ => true
  | .generationTick _ => true
  | .stampSweep _ => true
  | .bankSleep _ => true
  | .bankWake _ => true
  | .polderDrainComplete _ => true
  | .shareFailure _ => true
  | .hostAccess _ _ _ _ => true
  | .hostSnoopResponse _ _ => true
  | .inboundPeerAccess _ _ _ _ _ => true
  | .peerReply _ _ _ => true
  | .peerTimeout _ => true
  | .publishForward _ _ => true
  | .psubAnswer _ _ => true
  | .collectiveStepComplete _ _ => true
  | .linkData _ _ _ _ => true
  | .linkAck _ _ => true
  | .linkNak _ _ => true
  | .mapSwap _ => true
  | .mapAck _ => true
  | .mapAckTimeout _ => true
  | .linkFailure _ => true
  | .combSourceFailure _ _ => true
  | .ringLock _ _ _ => true
  | .ageingInterrupt _ _ => true
  | .portUp _ => true
  | .portDown _ => true
  | .currentLimitExceeded _ => true
  | .powerLimitExceeded => true
  | .thermalTrip _ => true
  | .thermalClear _ => true
  | .canaryWarning _ _ => true
  | .canaryTimeout _ => true
  | .railVoltageChange _ _ => true
  | .clampRelax _ => true
  | .droopAlarm _ => true
  | .droopWindowEnd _ => true
  | .boot _ _ _ _ => true
  | .linkctlSwap _ => true
  | .linkctlSwfailClear _ => true
  | .routeWrite _ _ => true
  | .mgmtRegWrite _ _ => true
  | .ctxBind _ => true
  | .ctxSuspend _ => true
  | .ctxSuspendComplete _ => true
  | .ctxClear _ => true
  | .ctxDestroy _ => true
  | .qCreate _ => true
  | .qArm _ => true
  | .qDrain _ => true
  | .qSuspend _ => true
  | .qSuspendComplete _ => true
  | .qResume _ => true
  | .qSkip _ => true
  | .qDestroy _ => true
  | .qPostHost _ => true
  | .kAbortHost _ => true
  | .exportDevice _ => true
  | .pubDef _ => true
  | .collReform _ => true
  | .collAbort _ => true
  | .regRead _ => true
  | .imgLoad _ => true
  | .imgLoadComplete => true
  | .attest _ => true
  | .ideKey _ => true
  | .ckpt _ => true
  | .ckptComplete _ => true
  | .ckRestore _ => true
  | .ckRestoreComplete _ => true
  | .powerLoss => true
  | .ringRetune _ _ _ => true
  | .unsupportedOpcode _ => true

/-- The instruction passes the decode checks 4 and 5 of R99 for a kernel that declares `vregs` vector registers. -/
abbrev WellFormed (vregs : Nat) (i : Instr) : Prop := wellFormed vregs i = true

end Sys2Proof
end

