-- ==== Sys2Proof/Decode.lean ====
section
/-! DEFINITION. The decoder, total on any word, and after it the encoder, from the formats of R87 and R88 and the maps of
R103 to R133. -/

namespace Sys2Proof

/-- The field of k bits of a word whose lowest bit is bit lo. -/
def fld (w : Word) (lo k : Nat) : BitVec k := w.extractLsb' lo k

/-- Integer arithmetic, lane major 0x0 (R103). -/
def decLane0 (w : Word) : Option Instr :=
  match (fld w 21 6).toNat with
  | 0 => some (.iadd (fld w 18 3) (fld w 12 6) (fld w 6 6) (fld w 0 6))
  | 1 => some (.isub (fld w 18 3) (fld w 12 6) (fld w 6 6) (fld w 0 6))
  | 2 => some (.imul (fld w 18 3) (fld w 12 6) (fld w 6 6) (fld w 0 6))
  | 3 => some (.imulhS (fld w 18 3) (fld w 12 6) (fld w 6 6) (fld w 0 6))
  | 4 => some (.imulhZ (fld w 18 3) (fld w 12 6) (fld w 6 6) (fld w 0 6))
  | 5 => some (.iaddSatS (fld w 18 3) (fld w 12 6) (fld w 6 6) (fld w 0 6))
  | 6 => some (.iaddSatZ (fld w 18 3) (fld w 12 6) (fld w 6 6) (fld w 0 6))
  | 7 => some (.isubSatS (fld w 18 3) (fld w 12 6) (fld w 6 6) (fld w 0 6))
  | 8 => some (.isubSatZ (fld w 18 3) (fld w 12 6) (fld w 6 6) (fld w 0 6))
  | 9 => some (.iminS (fld w 18 3) (fld w 12 6) (fld w 6 6) (fld w 0 6))
  | 10 => some (.iminZ (fld w 18 3) (fld w 12 6) (fld w 6 6) (fld w 0 6))
  | 11 => some (.imaxS (fld w 18 3) (fld w 12 6) (fld w 6 6) (fld w 0 6))
  | 12 => some (.imaxZ (fld w 18 3) (fld w 12 6) (fld w 6 6) (fld w 0 6))
  | 13 => if (fld w 0 6).toNat = 0 then some (.iabs (fld w 18 3) (fld w 12 6) (fld w 6 6)) else none
  | 14 => if (fld w 0 6).toNat = 0 then some (.ineg (fld w 18 3) (fld w 12 6) (fld w 6 6)) else none
  | 16 => some (.iadd64 (fld w 18 3) (fld w 12 6) (fld w 6 6) (fld w 0 6))
  | 17 => some (.iadd64S (fld w 18 3) (fld w 12 6) (fld w 6 6) (fld w 0 6))
  | 18 => some (.iadd64Z (fld w 18 3) (fld w 12 6) (fld w 6 6) (fld w 0 6))
  | 19 => some (.isub64 (fld w 18 3) (fld w 12 6) (fld w 6 6) (fld w 0 6))
  | 20 => some (.imulwS (fld w 18 3) (fld w 12 6) (fld w 6 6) (fld w 0 6))
  | 21 => some (.imulwZ (fld w 18 3) (fld w 12 6) (fld w 6 6) (fld w 0 6))
  | _ => none

/-- Logic, shifts, bit operations, MOV, lane major 0x1 (R104). -/
def decLane1 (w : Word) : Option Instr :=
  match (fld w 21 6).toNat with
  | 0 => some (.and (fld w 18 3) (fld w 12 6) (fld w 6 6) (fld w 0 6))
  | 1 => some (.or (fld w 18 3) (fld w 12 6) (fld w 6 6) (fld w 0 6))
  | 2 => some (.xor (fld w 18 3) (fld w 12 6) (fld w 6 6) (fld w 0 6))
  | 3 => some (.andn (fld w 18 3) (fld w 12 6) (fld w 6 6) (fld w 0 6))
  | 4 => if (fld w 0 6).toNat = 0 then some (.not (fld w 18 3) (fld w 12 6) (fld w 6 6)) else none
  | 5 => some (.shl (fld w 18 3) (fld w 12 6) (fld w 6 6) (fld w 0 6))
  | 6 => some (.shr (fld w 18 3) (fld w 12 6) (fld w 6 6) (fld w 0 6))
  | 7 => some (.sar (fld w 18 3) (fld w 12 6) (fld w 6 6) (fld w 0 6))
  | 8 => some (.rol (fld w 18 3) (fld w 12 6) (fld w 6 6) (fld w 0 6))
  | 9 => if (fld w 0 6).toNat = 0 then some (.popc (fld w 18 3) (fld w 12 6) (fld w 6 6)) else none
  | 10 => if (fld w 0 6).toNat = 0 then some (.clz (fld w 18 3) (fld w 12 6) (fld w 6 6)) else none
  | 11 => if (fld w 0 6).toNat = 0 then some (.brev (fld w 18 3) (fld w 12 6) (fld w 6 6)) else none
  | 12 => some (.shl64 (fld w 18 3) (fld w 12 6) (fld w 6 6) (fld w 0 6))
  | 13 => some (.shr64 (fld w 18 3) (fld w 12 6) (fld w 6 6) (fld w 0 6))
  | 14 => some (.sar64 (fld w 18 3) (fld w 12 6) (fld w 6 6) (fld w 0 6))
  | 15 => if (fld w 0 6).toNat = 0 then some (.mov (fld w 18 3) (fld w 12 6) (fld w 6 6)) else none
  | _ => none

/-- Compares and mask conversion, lane major 0x2 (R105). -/
def decLane2 (w : Word) : Option Instr :=
  match (fld w 21 6).toNat with
  | 0 => if (fld w 15 3).toNat = 0 then some (.icmpEq (fld w 18 3) (fld w 12 3) (fld w 6 6) (fld w 0 6)) else none
  | 1 => if (fld w 15 3).toNat = 0 then some (.icmpNe (fld w 18 3) (fld w 12 3) (fld w 6 6) (fld w 0 6)) else none
  | 2 => if (fld w 15 3).toNat = 0 then some (.icmpLtS (fld w 18 3) (fld w 12 3) (fld w 6 6) (fld w 0 6)) else none
  | 3 => if (fld w 15 3).toNat = 0 then some (.icmpLeS (fld w 18 3) (fld w 12 3) (fld w 6 6) (fld w 0 6)) else none
  | 4 => if (fld w 15 3).toNat = 0 then some (.icmpGtS (fld w 18 3) (fld w 12 3) (fld w 6 6) (fld w 0 6)) else none
  | 5 => if (fld w 15 3).toNat = 0 then some (.icmpGeS (fld w 18 3) (fld w 12 3) (fld w 6 6) (fld w 0 6)) else none
  | 6 => if (fld w 15 3).toNat = 0 then some (.icmpLtZ (fld w 18 3) (fld w 12 3) (fld w 6 6) (fld w 0 6)) else none
  | 7 => if (fld w 15 3).toNat = 0 then some (.icmpLeZ (fld w 18 3) (fld w 12 3) (fld w 6 6) (fld w 0 6)) else none
  | 8 => if (fld w 15 3).toNat = 0 then some (.icmpGtZ (fld w 18 3) (fld w 12 3) (fld w 6 6) (fld w 0 6)) else none
  | 9 => if (fld w 15 3).toNat = 0 then some (.icmpGeZ (fld w 18 3) (fld w 12 3) (fld w 6 6) (fld w 0 6)) else none
  | 16 => if (fld w 15 3).toNat = 0 then some (.fcmpEq (fld w 18 3) (fld w 12 3) (fld w 6 6) (fld w 0 6)) else none
  | 17 => if (fld w 15 3).toNat = 0 then some (.fcmpNe (fld w 18 3) (fld w 12 3) (fld w 6 6) (fld w 0 6)) else none
  | 18 => if (fld w 15 3).toNat = 0 then some (.fcmpLt (fld w 18 3) (fld w 12 3) (fld w 6 6) (fld w 0 6)) else none
  | 19 => if (fld w 15 3).toNat = 0 then some (.fcmpLe (fld w 18 3) (fld w 12 3) (fld w 6 6) (fld w 0 6)) else none
  | 20 => if (fld w 15 3).toNat = 0 then some (.fcmpGt (fld w 18 3) (fld w 12 3) (fld w 6 6) (fld w 0 6)) else none
  | 21 => if (fld w 15 3).toNat = 0 then some (.fcmpGe (fld w 18 3) (fld w 12 3) (fld w 6 6) (fld w 0 6)) else none
  | 22 => if (fld w 15 3).toNat = 0 then some (.fcmpNan (fld w 18 3) (fld w 12 3) (fld w 6 6) (fld w 0 6)) else none
  | 24 => if (fld w 15 3).toNat = 0 then some (.dcmpEq (fld w 18 3) (fld w 12 3) (fld w 6 6) (fld w 0 6)) else none
  | 25 => if (fld w 15 3).toNat = 0 then some (.dcmpNe (fld w 18 3) (fld w 12 3) (fld w 6 6) (fld w 0 6)) else none
  | 26 => if (fld w 15 3).toNat = 0 then some (.dcmpLt (fld w 18 3) (fld w 12 3) (fld w 6 6) (fld w 0 6)) else none
  | 27 => if (fld w 15 3).toNat = 0 then some (.dcmpLe (fld w 18 3) (fld w 12 3) (fld w 6 6) (fld w 0 6)) else none
  | 28 => if (fld w 15 3).toNat = 0 then some (.dcmpGt (fld w 18 3) (fld w 12 3) (fld w 6 6) (fld w 0 6)) else none
  | 29 => if (fld w 15 3).toNat = 0 then some (.dcmpGe (fld w 18 3) (fld w 12 3) (fld w 6 6) (fld w 0 6)) else none
  | 30 => if (fld w 15 3).toNat = 0 then some (.dcmpNan (fld w 18 3) (fld w 12 3) (fld w 6 6) (fld w 0 6)) else none
  | 32 => if (fld w 0 6).toNat = 0 ∧ (fld w 15 3).toNat = 0 then some (.v2m (fld w 18 3) (fld w 12 3) (fld w 6 6)) else none
  | 33 => if (fld w 0 6).toNat = 0 ∧ (fld w 9 3).toNat = 0 then some (.m2v (fld w 18 3) (fld w 12 6) (fld w 6 3)) else none
  | _ => none

/-- FP32 and packed 16-bit floating point, lane major 0x3 (R106). -/
def decLane3 (w : Word) : Option Instr :=
  match (fld w 21 6).toNat with
  | 0 => some (.fadd (fld w 18 3) (fld w 12 6) (fld w 6 6) (fld w 0 6))
  | 1 => some (.fsub (fld w 18 3) (fld w 12 6) (fld w 6 6) (fld w 0 6))
  | 2 => some (.fmul (fld w 18 3) (fld w 12 6) (fld w 6 6) (fld w 0 6))
  | 3 => some (.fmin (fld w 18 3) (fld w 12 6) (fld w 6 6) (fld w 0 6))
  | 4 => some (.fmax (fld w 18 3) (fld w 12 6) (fld w 6 6) (fld w 0 6))
  | 5 => if (fld w 0 6).toNat = 0 then some (.fabs (fld w 18 3) (fld w 12 6) (fld w 6 6)) else none
  | 6 => if (fld w 0 6).toNat = 0 then some (.fneg (fld w 18 3) (fld w 12 6) (fld w 6 6)) else none
  | 8 => some (.faddH2 (fld w 18 3) (fld w 12 6) (fld w 6 6) (fld w 0 6))
  | 9 => some (.fsubH2 (fld w 18 3) (fld w 12 6) (fld w 6 6) (fld w 0 6))
  | 10 => some (.fmulH2 (fld w 18 3) (fld w 12 6) (fld w 6 6) (fld w 0 6))
  | 11 => some (.fminH2 (fld w 18 3) (fld w 12 6) (fld w 6 6) (fld w 0 6))
  | 12 => some (.fmaxH2 (fld w 18 3) (fld w 12 6) (fld w 6 6) (fld w 0 6))
  | 16 => some (.faddB2 (fld w 18 3) (fld w 12 6) (fld w 6 6) (fld w 0 6))
  | 17 => some (.fsubB2 (fld w 18 3) (fld w 12 6) (fld w 6 6) (fld w 0 6))
  | 18 => some (.fmulB2 (fld w 18 3) (fld w 12 6) (fld w 6 6) (fld w 0 6))
  | 19 => some (.fminB2 (fld w 18 3) (fld w 12 6) (fld w 6 6) (fld w 0 6))
  | 20 => some (.fmaxB2 (fld w 18 3) (fld w 12 6) (fld w 6 6) (fld w 0 6))
  | _ => none

/-- FP64 and transcendentals, lane major 0x4 (R107). -/
def decLane4 (w : Word) : Option Instr :=
  match (fld w 21 6).toNat with
  | 0 => some (.dadd (fld w 18 3) (fld w 12 6) (fld w 6 6) (fld w 0 6))
  | 1 => some (.dsub (fld w 18 3) (fld w 12 6) (fld w 6 6) (fld w 0 6))
  | 2 => some (.dmul (fld w 18 3) (fld w 12 6) (fld w 6 6) (fld w 0 6))
  | 3 => some (.dmin (fld w 18 3) (fld w 12 6) (fld w 6 6) (fld w 0 6))
  | 4 => some (.dmax (fld w 18 3) (fld w 12 6) (fld w 6 6) (fld w 0 6))
  | 5 => if (fld w 0 6).toNat = 0 then some (.dabs (fld w 18 3) (fld w 12 6) (fld w 6 6)) else none
  | 6 => if (fld w 0 6).toNat = 0 then some (.dneg (fld w 18 3) (fld w 12 6) (fld w 6 6)) else none
  | 16 => if (fld w 0 6).toNat = 0 then some (.frcp (fld w 18 3) (fld w 12 6) (fld w 6 6)) else none
  | 17 => if (fld w 0 6).toNat = 0 then some (.frsq (fld w 18 3) (fld w 12 6) (fld w 6 6)) else none
  | 18 => if (fld w 0 6).toNat = 0 then some (.fexp2 (fld w 18 3) (fld w 12 6) (fld w 6 6)) else none
  | 19 => if (fld w 0 6).toNat = 0 then some (.flog2 (fld w 18 3) (fld w 12 6) (fld w 6 6)) else none
  | 20 => if (fld w 0 6).toNat = 0 then some (.fsin (fld w 18 3) (fld w 12 6) (fld w 6 6)) else none
  | 21 => if (fld w 0 6).toNat = 0 then some (.fcos (fld w 18 3) (fld w 12 6) (fld w 6 6)) else none
  | 24 => if (fld w 0 6).toNat = 0 then some (.frcpH2 (fld w 18 3) (fld w 12 6) (fld w 6 6)) else none
  | 25 => if (fld w 0 6).toNat = 0 then some (.frsqH2 (fld w 18 3) (fld w 12 6) (fld w 6 6)) else none
  | 26 => if (fld w 0 6).toNat = 0 then some (.fexp2H2 (fld w 18 3) (fld w 12 6) (fld w 6 6)) else none
  | 27 => if (fld w 0 6).toNat = 0 then some (.flog2H2 (fld w 18 3) (fld w 12 6) (fld w 6 6)) else none
  | _ => none

/-- Conversions, lane major 0x5 (R108). -/
def decLane5 (w : Word) : Option Instr :=
  match (fld w 21 6).toNat with
  | 0 => if (fld w 0 6).toNat = 0 then some (.i2fS (fld w 18 3) (fld w 12 6) (fld w 6 6)) else none
  | 1 => if (fld w 0 6).toNat = 0 then some (.i2fZ (fld w 18 3) (fld w 12 6) (fld w 6 6)) else none
  | 2 => if (fld w 0 6).toNat = 0 then some (.f2iS (fld w 18 3) (fld w 12 6) (fld w 6 6)) else none
  | 3 => if (fld w 0 6).toNat = 0 then some (.f2iSTz (fld w 18 3) (fld w 12 6) (fld w 6 6)) else none
  | 4 => if (fld w 0 6).toNat = 0 then some (.f2iZ (fld w 18 3) (fld w 12 6) (fld w 6 6)) else none
  | 5 => if (fld w 0 6).toNat = 0 then some (.f2iZTz (fld w 18 3) (fld w 12 6) (fld w 6 6)) else none
  | 6 => if (fld w 0 6).toNat = 0 then some (.i2dS (fld w 18 3) (fld w 12 6) (fld w 6 6)) else none
  | 7 => if (fld w 0 6).toNat = 0 then some (.i2dZ (fld w 18 3) (fld w 12 6) (fld w 6 6)) else none
  | 8 => if (fld w 0 6).toNat = 0 then some (.d2iS (fld w 18 3) (fld w 12 6) (fld w 6 6)) else none
  | 9 => if (fld w 0 6).toNat = 0 then some (.d2iSTz (fld w 18 3) (fld w 12 6) (fld w 6 6)) else none
  | 10 => if (fld w 0 6).toNat = 0 then some (.d2iZ (fld w 18 3) (fld w 12 6) (fld w 6 6)) else none
  | 11 => if (fld w 0 6).toNat = 0 then some (.d2iZTz (fld w 18 3) (fld w 12 6) (fld w 6 6)) else none
  | 12 => if (fld w 0 6).toNat = 0 then some (.f2d (fld w 18 3) (fld w 12 6) (fld w 6 6)) else none
  | 13 => if (fld w 0 6).toNat = 0 then some (.d2f (fld w 18 3) (fld w 12 6) (fld w 6 6)) else none
  | 14 => some (.f2h2 (fld w 18 3) (fld w 12 6) (fld w 6 6) (fld w 0 6))
  | 15 => if (fld w 0 6).toNat = 0 then some (.h2fLo (fld w 18 3) (fld w 12 6) (fld w 6 6)) else none
  | 16 => if (fld w 0 6).toNat = 0 then some (.h2fHi (fld w 18 3) (fld w 12 6) (fld w 6 6)) else none
  | 17 => some (.f2b2 (fld w 18 3) (fld w 12 6) (fld w 6 6) (fld w 0 6))
  | 18 => if (fld w 0 6).toNat = 0 then some (.b2fLo (fld w 18 3) (fld w 12 6) (fld w 6 6)) else none
  | 19 => if (fld w 0 6).toNat = 0 then some (.b2fHi (fld w 18 3) (fld w 12 6) (fld w 6 6)) else none
  | 32 => if (fld w 3 3).toNat = 0 then some (.nscale (fld w 18 3) (fld w 12 6) (fld w 6 6) (fld w 0 3)) else none
  | 33 => if (fld w 3 3).toNat = 0 then some (.npack (fld w 18 3) (fld w 12 6) (fld w 6 6) (fld w 0 3)) else none
  | 34 => if (fld w 3 3).toNat = 0 then some (.nunpk (fld w 18 3) (fld w 12 6) (fld w 6 6) (fld w 0 3)) else none
  | _ => none

/-- Fused floating point, lane major 0x6 (R109). -/
def decLane6 (w : Word) : Option Instr :=
  match (fld w 24 3).toNat with
  | 0 => some (.ffma (fld w 18 6) (fld w 12 6) (fld w 6 6) (fld w 0 6))
  | 1 => some (.ffms (fld w 18 6) (fld w 12 6) (fld w 6 6) (fld w 0 6))
  | 2 => some (.fnma (fld w 18 6) (fld w 12 6) (fld w 6 6) (fld w 0 6))
  | 3 => some (.ffmaH2 (fld w 18 6) (fld w 12 6) (fld w 6 6) (fld w 0 6))
  | 4 => some (.ffmaB2 (fld w 18 6) (fld w 12 6) (fld w 6 6) (fld w 0 6))
  | 5 => some (.dfma (fld w 18 6) (fld w 12 6) (fld w 6 6) (fld w 0 6))
  | 6 => some (.dfms (fld w 18 6) (fld w 12 6) (fld w 6 6) (fld w 0 6))
  | 7 => some (.dfnma (fld w 18 6) (fld w 12 6) (fld w 6 6) (fld w 0 6))
  | _ => none

/-- Fused integer and selects, lane major 0x7 (R110). -/
noncomputable def decLane7 (w : Word) : Option Instr :=
  match (fld w 24 3).toNat with
  | 0 => some (.imad (fld w 18 6) (fld w 12 6) (fld w 6 6) (fld w 0 6))
  | 1 => some (.imadwS (fld w 18 6) (fld w 12 6) (fld w 6 6) (fld w 0 6))
  | 2 => some (.imadwZ (fld w 18 6) (fld w 12 6) (fld w 6 6) (fld w 0 6))
  | 3 => if (fld w 3 3).toNat = 0 then some (.sel (fld w 18 6) (fld w 12 6) (fld w 6 6) (fld w 0 3)) else none
  | 4 => if (fld w 3 3).toNat = 0 then some (.sel64 (fld w 18 6) (fld w 12 6) (fld w 6 6) (fld w 0 3)) else none
  | _ => none

/-- Integer immediates, lane major 0x8 (R111). -/
noncomputable def decLane8 (w : Word) : Option Instr :=
  match (fld w 23 4).toNat with
  | 0 => some (.iaddImm (fld w 20 3) (fld w 14 6) (fld w 8 6) (fld w 0 8))
  | 1 => some (.imulImm (fld w 20 3) (fld w 14 6) (fld w 8 6) (fld w 0 8))
  | 2 => some (.andImm (fld w 20 3) (fld w 14 6) (fld w 8 6) (fld w 0 8))
  | 3 => some (.orImm (fld w 20 3) (fld w 14 6) (fld w 8 6) (fld w 0 8))
  | 4 => some (.xorImm (fld w 20 3) (fld w 14 6) (fld w 8 6) (fld w 0 8))
  | 5 => if (fld w 5 3).toNat = 0 then some (.shlImm (fld w 20 3) (fld w 14 6) (fld w 8 6) (fld w 0 5)) else none
  | 6 => if (fld w 5 3).toNat = 0 then some (.shrImm (fld w 20 3) (fld w 14 6) (fld w 8 6) (fld w 0 5)) else none
  | 7 => if (fld w 5 3).toNat = 0 then some (.sarImm (fld w 20 3) (fld w 14 6) (fld w 8 6) (fld w 0 5)) else none
  | 8 => if (fld w 17 3).toNat = 0 then some (.icmpEqImm (fld w 20 3) (fld w 14 3) (fld w 8 6) (fld w 0 8)) else none
  | 9 => if (fld w 17 3).toNat = 0 then some (.icmpNeImm (fld w 20 3) (fld w 14 3) (fld w 8 6) (fld w 0 8)) else none
  | 10 => if (fld w 17 3).toNat = 0 then some (.icmpLtSImm (fld w 20 3) (fld w 14 3) (fld w 8 6) (fld w 0 8)) else none
  | 11 => if (fld w 17 3).toNat = 0 then some (.icmpGtSImm (fld w 20 3) (fld w 14 3) (fld w 8 6) (fld w 0 8)) else none
  | 12 => if (fld w 17 3).toNat = 0 then some (.icmpLtZImm (fld w 20 3) (fld w 14 3) (fld w 8 6) (fld w 0 8)) else none
  | 13 => if (fld w 17 3).toNat = 0 then some (.icmpGtZImm (fld w 20 3) (fld w 14 3) (fld w 8 6) (fld w 0 8)) else none
  | _ => none

/-- Bit fields and lane patterns, lane major 0x9 (R112). -/
noncomputable def decLane9 (w : Word) : Option Instr :=
  match (fld w 23 4).toNat with
  | 0 => some (.bfxZ (fld w 20 3) (fld w 14 6) (fld w 8 6) (fld w 5 3) (fld w 0 5))
  | 1 => some (.bfxS (fld w 20 3) (fld w 14 6) (fld w 8 6) (fld w 5 3) (fld w 0 5))
  | 2 => some (.bfi (fld w 20 3) (fld w 14 6) (fld w 8 6) (fld w 5 3) (fld w 0 5))
  | 3 => some (.lseq (fld w 20 3) (fld w 14 6) (fld w 8 6) (fld w 0 8))
  | _ => none

/-- 16-bit immediates, lane major 0xA (R113). -/
noncomputable def decLaneA (w : Word) : Option Instr :=
  match (fld w 25 2).toNat with
  | 0 => some (.ldi (fld w 22 3) (fld w 16 6) (fld w 0 16))
  | 1 => some (.ldih (fld w 22 3) (fld w 16 6) (fld w 0 16))
  | 2 => some (.addih (fld w 22 3) (fld w 16 6) (fld w 0 16))
  | _ => none

/-- Global loads, lane major 0xB (R114). -/
noncomputable def decLaneB (w : Word) : Option Instr :=
  match (fld w 22 5).toNat with
  | 0 => if (fld w 3 3).toNat = 0 then some (.ldZb (fld w 18 4) (fld w 12 6) (fld w 6 6) (fld w 0 3)) else none
  | 1 => if (fld w 3 3).toNat = 0 then some (.ldSb (fld w 18 4) (fld w 12 6) (fld w 6 6) (fld w 0 3)) else none
  | 2 => if (fld w 3 3).toNat = 0 then some (.ldZh (fld w 18 4) (fld w 12 6) (fld w 6 6) (fld w 0 3)) else none
  | 3 => if (fld w 3 3).toNat = 0 then some (.ldSh (fld w 18 4) (fld w 12 6) (fld w 6 6) (fld w 0 3)) else none
  | 4 => if (fld w 3 3).toNat = 0 then some (.ldW (fld w 18 4) (fld w 12 6) (fld w 6 6) (fld w 0 3)) else none
  | 5 => if (fld w 3 3).toNat = 0 then some (.ldD (fld w 18 4) (fld w 12 6) (fld w 6 6) (fld w 0 3)) else none
  | 6 => if (fld w 3 3).toNat = 0 then some (.ldQ (fld w 18 4) (fld w 12 6) (fld w 6 6) (fld w 0 3)) else none
  | 8 => if (fld w 3 3).toNat = 0 then some (.ldWAcqDev (fld w 18 4) (fld w 12 6) (fld w 6 6) (fld w 0 3)) else none
  | 9 => if (fld w 3 3).toNat = 0 then some (.ldDAcqDev (fld w 18 4) (fld w 12 6) (fld w 6 6) (fld w 0 3)) else none
  | 10 => if (fld w 3 3).toNat = 0 then some (.ldWAcqSys (fld w 18 4) (fld w 12 6) (fld w 6 6) (fld w 0 3)) else none
  | 11 => if (fld w 3 3).toNat = 0 then some (.ldDAcqSys (fld w 18 4) (fld w 12 6) (fld w 6 6) (fld w 0 3)) else none
  | _ => none

/-- Global stores and scratchpad access, lane major 0xC (R115). -/
noncomputable def decLaneC (w : Word) : Option Instr :=
  match (fld w 22 5).toNat with
  | 0 => if (fld w 3 3).toNat = 0 ∧ (fld w 18 4).toNat = 0 then some (.stB (fld w 12 6) (fld w 6 6) (fld w 0 3)) else none
  | 1 => if (fld w 3 3).toNat = 0 ∧ (fld w 18 4).toNat = 0 then some (.stH (fld w 12 6) (fld w 6 6) (fld w 0 3)) else none
  | 2 => if (fld w 3 3).toNat = 0 ∧ (fld w 18 4).toNat = 0 then some (.stW (fld w 12 6) (fld w 6 6) (fld w 0 3)) else none
  | 3 => if (fld w 3 3).toNat = 0 ∧ (fld w 18 4).toNat = 0 then some (.stD (fld w 12 6) (fld w 6 6) (fld w 0 3)) else none
  | 4 => if (fld w 3 3).toNat = 0 ∧ (fld w 18 4).toNat = 0 then some (.stQ (fld w 12 6) (fld w 6 6) (fld w 0 3)) else none
  | 8 => if (fld w 3 3).toNat = 0 ∧ (fld w 18 4).toNat = 0 then some (.stWRelDev (fld w 12 6) (fld w 6 6) (fld w 0 3)) else none
  | 9 => if (fld w 3 3).toNat = 0 ∧ (fld w 18 4).toNat = 0 then some (.stDRelDev (fld w 12 6) (fld w 6 6) (fld w 0 3)) else none
  | 10 => if (fld w 3 3).toNat = 0 ∧ (fld w 18 4).toNat = 0 then some (.stWRelSys (fld w 12 6) (fld w 6 6) (fld w 0 3)) else none
  | 11 => if (fld w 3 3).toNat = 0 ∧ (fld w 18 4).toNat = 0 then some (.stDRelSys (fld w 12 6) (fld w 6 6) (fld w 0 3)) else none
  | 16 => if (fld w 18 4).toNat = 0 then some (.ldsZb (fld w 12 6) (fld w 6 6) (fld w 3 3) (fld w 0 3)) else none
  | 17 => if (fld w 18 4).toNat = 0 then some (.ldsSb (fld w 12 6) (fld w 6 6) (fld w 3 3) (fld w 0 3)) else none
  | 18 => if (fld w 18 4).toNat = 0 then some (.ldsZh (fld w 12 6) (fld w 6 6) (fld w 3 3) (fld w 0 3)) else none
  | 19 => if (fld w 18 4).toNat = 0 then some (.ldsSh (fld w 12 6) (fld w 6 6) (fld w 3 3) (fld w 0 3)) else none
  | 20 => if (fld w 18 4).toNat = 0 then some (.ldsW (fld w 12 6) (fld w 6 6) (fld w 3 3) (fld w 0 3)) else none
  | 21 => if (fld w 18 4).toNat = 0 then some (.ldsD (fld w 12 6) (fld w 6 6) (fld w 3 3) (fld w 0 3)) else none
  | 22 => if (fld w 18 4).toNat = 0 then some (.ldsQ (fld w 12 6) (fld w 6 6) (fld w 3 3) (fld w 0 3)) else none
  | 24 => if (fld w 18 4).toNat = 0 then some (.stsB (fld w 12 6) (fld w 6 6) (fld w 3 3) (fld w 0 3)) else none
  | 25 => if (fld w 18 4).toNat = 0 then some (.stsH (fld w 12 6) (fld w 6 6) (fld w 3 3) (fld w 0 3)) else none
  | 26 => if (fld w 18 4).toNat = 0 then some (.stsW (fld w 12 6) (fld w 6 6) (fld w 3 3) (fld w 0 3)) else none
  | 27 => if (fld w 18 4).toNat = 0 then some (.stsD (fld w 12 6) (fld w 6 6) (fld w 3 3) (fld w 0 3)) else none
  | 28 => if (fld w 18 4).toNat = 0 then some (.stsQ (fld w 12 6) (fld w 6 6) (fld w 3 3) (fld w 0 3)) else none
  | 29 => if (fld w 18 4).toNat = 0 then some (.atsAdd (fld w 12 6) (fld w 6 6) (fld w 3 3) (fld w 0 3)) else none
  | 30 => if (fld w 18 4).toNat = 0 then some (.atsXchg (fld w 12 6) (fld w 6 6) (fld w 3 3) (fld w 0 3)) else none
  | 31 => if (fld w 18 4).toNat = 0 then some (.atsCas (fld w 12 6) (fld w 6 6) (fld w 3 3) (fld w 0 3)) else none
  | _ => none

/-- Lane atomics, lane major 0xD (R116, R117). -/
noncomputable def decLaneD (w : Word) : Option Instr :=
  match (fld w 22 4).toNat with
  | 0 => some (.atomAdd (fld w 26 1) (fld w 18 4) (fld w 12 6) (fld w 7 5) (fld w 6 1) (fld w 0 6))
  | 1 => some (.atomAnd (fld w 26 1) (fld w 18 4) (fld w 12 6) (fld w 7 5) (fld w 6 1) (fld w 0 6))
  | 2 => some (.atomOr (fld w 26 1) (fld w 18 4) (fld w 12 6) (fld w 7 5) (fld w 6 1) (fld w 0 6))
  | 3 => some (.atomXor (fld w 26 1) (fld w 18 4) (fld w 12 6) (fld w 7 5) (fld w 6 1) (fld w 0 6))
  | 4 => some (.atomXchg (fld w 26 1) (fld w 18 4) (fld w 12 6) (fld w 7 5) (fld w 6 1) (fld w 0 6))
  | 5 => some (.atomCas (fld w 26 1) (fld w 18 4) (fld w 12 6) (fld w 7 5) (fld w 6 1) (fld w 0 6))
  | 6 => some (.atomMinS (fld w 26 1) (fld w 18 4) (fld w 12 6) (fld w 7 5) (fld w 6 1) (fld w 0 6))
  | 7 => some (.atomMaxS (fld w 26 1) (fld w 18 4) (fld w 12 6) (fld w 7 5) (fld w 6 1) (fld w 0 6))
  | 8 => some (.atomMinZ (fld w 26 1) (fld w 18 4) (fld w 12 6) (fld w 7 5) (fld w 6 1) (fld w 0 6))
  | 9 => some (.atomMaxZ (fld w 26 1) (fld w 18 4) (fld w 12 6) (fld w 7 5) (fld w 6 1) (fld w 0 6))
  | 10 => some (.atomFadd (fld w 26 1) (fld w 18 4) (fld w 12 6) (fld w 7 5) (fld w 6 1) (fld w 0 6))
  | 11 => some (.atomAddD (fld w 26 1) (fld w 18 4) (fld w 12 6) (fld w 7 5) (fld w 6 1) (fld w 0 6))
  | 12 => some (.atomXchgD (fld w 26 1) (fld w 18 4) (fld w 12 6) (fld w 7 5) (fld w 6 1) (fld w 0 6))
  | 13 => some (.atomCasD (fld w 26 1) (fld w 18 4) (fld w 12 6) (fld w 7 5) (fld w 6 1) (fld w 0 6))
  | 14 => some (.atomMinZD (fld w 26 1) (fld w 18 4) (fld w 12 6) (fld w 7 5) (fld w 6 1) (fld w 0 6))
  | 15 => some (.atomMaxZD (fld w 26 1) (fld w 18 4) (fld w 12 6) (fld w 7 5) (fld w 6 1) (fld w 0 6))
  | _ => none

/-- Lane exchange and lane-sourced matrix operations, lane major 0xE (R118). -/
noncomputable def decLaneE (w : Word) : Option Instr :=
  match (fld w 21 6).toNat with
  | 0 => if (fld w 17 4).toNat = 0 then some (.xlnBack (fld w 11 6) (fld w 5 6) (fld w 0 5)) else none
  | 1 => if (fld w 17 4).toNat = 0 then some (.xlnAhead (fld w 11 6) (fld w 5 6) (fld w 0 5)) else none
  | 2 => if (fld w 17 4).toNat = 0 then some (.xlnRot (fld w 11 6) (fld w 5 6) (fld w 0 5)) else none
  | 3 => if (fld w 17 4).toNat = 0 then some (.xlnFlip (fld w 11 6) (fld w 5 6) (fld w 0 5)) else none
  | 4 => if (fld w 17 4).toNat = 0 then some (.xlnPick (fld w 11 6) (fld w 5 6) (fld w 0 5)) else none
  | 5 => if (fld w 0 5).toNat = 0 ∧ (fld w 17 4).toNat = 0 then some (.xlnVar (fld w 11 6) (fld w 5 6)) else none
  | 8 => if (fld w 0 5).toNat = 0 ∧ (fld w 17 4).toNat = 0 then some (.redsIadd (fld w 11 6) (fld w 5 6)) else none
  | 9 => if (fld w 0 5).toNat = 0 ∧ (fld w 17 4).toNat = 0 then some (.redsIminS (fld w 11 6) (fld w 5 6)) else none
  | 10 => if (fld w 0 5).toNat = 0 ∧ (fld w 17 4).toNat = 0 then some (.redsImaxS (fld w 11 6) (fld w 5 6)) else none
  | 11 => if (fld w 0 5).toNat = 0 ∧ (fld w 17 4).toNat = 0 then some (.redsIminZ (fld w 11 6) (fld w 5 6)) else none
  | 12 => if (fld w 0 5).toNat = 0 ∧ (fld w 17 4).toNat = 0 then some (.redsImaxZ (fld w 11 6) (fld w 5 6)) else none
  | 13 => if (fld w 0 5).toNat = 0 ∧ (fld w 17 4).toNat = 0 then some (.redsAnd (fld w 11 6) (fld w 5 6)) else none
  | 14 => if (fld w 0 5).toNat = 0 ∧ (fld w 17 4).toNat = 0 then some (.redsOr (fld w 11 6) (fld w 5 6)) else none
  | 15 => if (fld w 0 5).toNat = 0 ∧ (fld w 17 4).toNat = 0 then some (.redsXor (fld w 11 6) (fld w 5 6)) else none
  | 16 => if (fld w 0 5).toNat = 0 ∧ (fld w 17 4).toNat = 0 then some (.redsFadd (fld w 11 6) (fld w 5 6)) else none
  | 17 => if (fld w 0 5).toNat = 0 ∧ (fld w 17 4).toNat = 0 then some (.redsFmin (fld w 11 6) (fld w 5 6)) else none
  | 18 => if (fld w 0 5).toNat = 0 ∧ (fld w 17 4).toNat = 0 then some (.redsFmax (fld w 11 6) (fld w 5 6)) else none
  | 19 => if (fld w 0 5).toNat = 0 ∧ (fld w 17 4).toNat = 0 then some (.redsDadd (fld w 11 6) (fld w 5 6)) else none
  | 32 => if (fld w 1 4).toNat = 0 ∧ (fld w 17 4).toNat = 0 then some (.scanIadd (fld w 11 6) (fld w 5 6) (fld w 0 1)) else none
  | 33 => if (fld w 1 4).toNat = 0 ∧ (fld w 17 4).toNat = 0 then some (.scanIminS (fld w 11 6) (fld w 5 6) (fld w 0 1)) else none
  | 34 => if (fld w 1 4).toNat = 0 ∧ (fld w 17 4).toNat = 0 then some (.scanImaxS (fld w 11 6) (fld w 5 6) (fld w 0 1)) else none
  | 35 => if (fld w 1 4).toNat = 0 ∧ (fld w 17 4).toNat = 0 then some (.scanIminZ (fld w 11 6) (fld w 5 6) (fld w 0 1)) else none
  | 36 => if (fld w 1 4).toNat = 0 ∧ (fld w 17 4).toNat = 0 then some (.scanImaxZ (fld w 11 6) (fld w 5 6) (fld w 0 1)) else none
  | 37 => if (fld w 1 4).toNat = 0 ∧ (fld w 17 4).toNat = 0 then some (.scanAnd (fld w 11 6) (fld w 5 6) (fld w 0 1)) else none
  | 38 => if (fld w 1 4).toNat = 0 ∧ (fld w 17 4).toNat = 0 then some (.scanOr (fld w 11 6) (fld w 5 6) (fld w 0 1)) else none
  | 39 => if (fld w 1 4).toNat = 0 ∧ (fld w 17 4).toNat = 0 then some (.scanXor (fld w 11 6) (fld w 5 6) (fld w 0 1)) else none
  | 40 => if (fld w 1 4).toNat = 0 ∧ (fld w 17 4).toNat = 0 then some (.scanFadd (fld w 11 6) (fld w 5 6) (fld w 0 1)) else none
  | 41 => if (fld w 1 4).toNat = 0 ∧ (fld w 17 4).toNat = 0 then some (.scanFmin (fld w 11 6) (fld w 5 6) (fld w 0 1)) else none
  | 42 => if (fld w 1 4).toNat = 0 ∧ (fld w 17 4).toNat = 0 then some (.scanFmax (fld w 11 6) (fld w 5 6) (fld w 0 1)) else none
  | 43 => if (fld w 1 4).toNat = 0 ∧ (fld w 17 4).toNat = 0 then some (.scanDadd (fld w 11 6) (fld w 5 6) (fld w 0 1)) else none
  | 48 => if (fld w 0 5).toNat = 0 ∧ (fld w 11 10).toNat = 0 then some (.mbq (fld w 5 6)) else none
  | 49 =>
    if (fld w 3 2).toNat = 0 then some (.mdrain (fld w 17 4) (fld w 11 6) (fld w 5 6) (fld w 0 3))
    else if (fld w 3 2).toNat = 1 then some (.mdrainRaw (fld w 17 4) (fld w 11 6) (fld w 5 6) (fld w 0 3))
    else none
  | 50 => if (fld w 0 5).toNat = 0 ∧ (fld w 17 4).toNat = 0 then some (.mfill (fld w 11 6) (fld w 5 6)) else none
  | _ => none

/-- Group integer arithmetic, group major 0x0 (R120). -/
noncomputable def decGroup0 (w : Word) : Option Instr :=
  match (fld w 21 6).toNat with
  | 0 => some (.gadd (fld w 18 3) (fld w 12 6) (fld w 6 6) (fld w 0 6))
  | 1 => some (.gsub (fld w 18 3) (fld w 12 6) (fld w 6 6) (fld w 0 6))
  | 2 => some (.gmul (fld w 18 3) (fld w 12 6) (fld w 6 6) (fld w 0 6))
  | 3 => some (.gmulhS (fld w 18 3) (fld w 12 6) (fld w 6 6) (fld w 0 6))
  | 4 => some (.gmulhZ (fld w 18 3) (fld w 12 6) (fld w 6 6) (fld w 0 6))
  | 5 => some (.gminS (fld w 18 3) (fld w 12 6) (fld w 6 6) (fld w 0 6))
  | 6 => some (.gmaxS (fld w 18 3) (fld w 12 6) (fld w 6 6) (fld w 0 6))
  | 7 => some (.gminZ (fld w 18 3) (fld w 12 6) (fld w 6 6) (fld w 0 6))
  | 8 => some (.gmaxZ (fld w 18 3) (fld w 12 6) (fld w 6 6) (fld w 0 6))
  | 9 => if (fld w 0 6).toNat = 0 then some (.gneg (fld w 18 3) (fld w 12 6) (fld w 6 6)) else none
  | _ => none

/-- Group logic and shifts, group major 0x1 (R121). -/
noncomputable def decGroup1 (w : Word) : Option Instr :=
  match (fld w 21 6).toNat with
  | 0 => some (.gand (fld w 18 3) (fld w 12 6) (fld w 6 6) (fld w 0 6))
  | 1 => some (.gor (fld w 18 3) (fld w 12 6) (fld w 6 6) (fld w 0 6))
  | 2 => some (.gxor (fld w 18 3) (fld w 12 6) (fld w 6 6) (fld w 0 6))
  | 3 => some (.gandn (fld w 18 3) (fld w 12 6) (fld w 6 6) (fld w 0 6))
  | 4 => if (fld w 0 6).toNat = 0 then some (.gnot (fld w 18 3) (fld w 12 6) (fld w 6 6)) else none
  | 5 => some (.gshl (fld w 18 3) (fld w 12 6) (fld w 6 6) (fld w 0 6))
  | 6 => some (.gshr (fld w 18 3) (fld w 12 6) (fld w 6 6) (fld w 0 6))
  | 7 => some (.gsar (fld w 18 3) (fld w 12 6) (fld w 6 6) (fld w 0 6))
  | 8 => if (fld w 0 6).toNat = 0 then some (.gpopc (fld w 18 3) (fld w 12 6) (fld w 6 6)) else none
  | 9 => if (fld w 0 6).toNat = 0 then some (.gclz (fld w 18 3) (fld w 12 6) (fld w 6 6)) else none
  | 10 => if (fld w 0 6).toNat = 0 then some (.gbrev (fld w 18 3) (fld w 12 6) (fld w 6 6)) else none
  | _ => none

/-- Group compare, select, moves, group major 0x2 (R122). -/
noncomputable def decGroup2 (w : Word) : Option Instr :=
  match (fld w 21 6).toNat with
  | 0 => if (fld w 15 3).toNat = 0 then some (.gcmpEq (fld w 18 3) (fld w 12 3) (fld w 6 6) (fld w 0 6)) else none
  | 1 => if (fld w 15 3).toNat = 0 then some (.gcmpNe (fld w 18 3) (fld w 12 3) (fld w 6 6) (fld w 0 6)) else none
  | 2 => if (fld w 15 3).toNat = 0 then some (.gcmpLtS (fld w 18 3) (fld w 12 3) (fld w 6 6) (fld w 0 6)) else none
  | 3 => if (fld w 15 3).toNat = 0 then some (.gcmpLeS (fld w 18 3) (fld w 12 3) (fld w 6 6) (fld w 0 6)) else none
  | 4 => if (fld w 15 3).toNat = 0 then some (.gcmpLtZ (fld w 18 3) (fld w 12 3) (fld w 6 6) (fld w 0 6)) else none
  | 5 => if (fld w 15 3).toNat = 0 then some (.gcmpLeZ (fld w 18 3) (fld w 12 3) (fld w 6 6) (fld w 0 6)) else none
  | 8 => if (fld w 18 3).toNat = 0 then some (.gselNz (fld w 12 6) (fld w 6 6) (fld w 0 6)) else none
  | 16 => if (fld w 0 6).toNat = 0 ∧ (fld w 18 3).toNat = 0 then some (.movG (fld w 12 6) (fld w 6 6)) else none
  | 17 => some (.v2g (fld w 18 3) (fld w 12 6) (fld w 6 6) (fld w 0 6))
  | 18 => if (fld w 0 6).toNat = 0 then some (.g2v (fld w 18 3) (fld w 12 6) (fld w 6 6)) else none
  | 19 => if (fld w 18 3).toNat = 0 then some (.s2g (fld w 12 6) (fld w 0 12)) else none
  | 20 => if (fld w 18 3).toNat = 0 then some (.s2gc (fld w 12 6) (fld w 0 12)) else none
  | _ => none

/-- Group immediates, group major 0x3 (R123). -/
noncomputable def decGroup3 (w : Word) : Option Instr :=
  match (fld w 23 4).toNat with
  | 0 => some (.gaddImm (fld w 17 6) (fld w 11 6) (fld w 0 11))
  | 1 => some (.gmulImm (fld w 17 6) (fld w 11 6) (fld w 0 11))
  | 2 => some (.gandImm (fld w 17 6) (fld w 11 6) (fld w 0 11))
  | 3 => some (.gorImm (fld w 17 6) (fld w 11 6) (fld w 0 11))
  | 4 => some (.gxorImm (fld w 17 6) (fld w 11 6) (fld w 0 11))
  | 5 => if (fld w 6 5).toNat = 0 then some (.gshlImm (fld w 17 6) (fld w 11 6) (fld w 0 6)) else none
  | 6 => if (fld w 6 5).toNat = 0 then some (.gshrImm (fld w 17 6) (fld w 11 6) (fld w 0 6)) else none
  | 7 => if (fld w 6 5).toNat = 0 then some (.gsarImm (fld w 17 6) (fld w 11 6) (fld w 0 6)) else none
  | 8 => if (fld w 20 3).toNat = 0 then some (.gcmpEqImm (fld w 17 3) (fld w 11 6) (fld w 0 11)) else none
  | 9 => if (fld w 20 3).toNat = 0 then some (.gcmpLtSImm (fld w 17 3) (fld w 11 6) (fld w 0 11)) else none
  | 10 => if (fld w 20 3).toNat = 0 then some (.gcmpLtZImm (fld w 17 3) (fld w 11 6) (fld w 0 11)) else none
  | _ => none

/-- 16-bit quarters, group major 0x4 (R124). -/
noncomputable def decGroup4 (w : Word) : Option Instr :=
  match (fld w 25 2).toNat with
  | 0 => if (fld w 22 1).toNat = 0 then some (.gldq (fld w 23 2) (fld w 16 6) (fld w 0 16)) else none
  | 1 => if (fld w 22 1).toNat = 0 then some (.ginsq (fld w 23 2) (fld w 16 6) (fld w 0 16)) else none
  | 2 => if (fld w 22 1).toNat = 0 then some (.gaddq (fld w 23 2) (fld w 16 6) (fld w 0 16)) else none
  | _ => none

/-- Branches and JOIN, group major 0x5 (R125). -/
noncomputable def decGroup5 (w : Word) : Option Instr :=
  match (fld w 24 3).toNat with
  | 0 => if (fld w 18 6).toNat = 0 then some (.bra (fld w 0 18)) else none
  | 1 => if (fld w 18 3).toNat = 0 then some (.braAny (fld w 21 3) (fld w 0 18)) else none
  | 2 => if (fld w 18 3).toNat = 0 then some (.braNone (fld w 21 3) (fld w 0 18)) else none
  | 3 => some (.braD (fld w 21 3) (fld w 18 3) (fld w 0 18))
  | 4 => if (fld w 18 6).toNat = 0 then some (.call (fld w 0 18)) else none
  | 5 => if (fld w 0 18).toNat = 0 ∧ (fld w 21 3).toNat = 0 then some (.join (fld w 18 3)) else none
  | _ => none

/-- Masks, regrouping, indirect control, group major 0x6 (R126). -/
noncomputable def decGroup6 (w : Word) : Option Instr :=
  match (fld w 21 6).toNat with
  | 0 => if (fld w 3 3).toNat = 0 ∧ (fld w 9 3).toNat = 0 ∧ (fld w 15 6).toNat = 0 then some (.mand (fld w 12 3) (fld w 6 3) (fld w 0 3)) else none
  | 1 => if (fld w 3 3).toNat = 0 ∧ (fld w 9 3).toNat = 0 ∧ (fld w 15 6).toNat = 0 then some (.mor (fld w 12 3) (fld w 6 3) (fld w 0 3)) else none
  | 2 => if (fld w 3 3).toNat = 0 ∧ (fld w 9 3).toNat = 0 ∧ (fld w 15 6).toNat = 0 then some (.mxor (fld w 12 3) (fld w 6 3) (fld w 0 3)) else none
  | 3 => if (fld w 3 3).toNat = 0 ∧ (fld w 9 3).toNat = 0 ∧ (fld w 15 6).toNat = 0 then some (.mandn (fld w 12 3) (fld w 6 3) (fld w 0 3)) else none
  | 4 => if (fld w 0 6).toNat = 0 ∧ (fld w 9 3).toNat = 0 ∧ (fld w 15 6).toNat = 0 then some (.mnot (fld w 12 3) (fld w 6 3)) else none
  | 5 => if (fld w 0 6).toNat = 0 ∧ (fld w 9 3).toNat = 0 ∧ (fld w 18 3).toNat = 0 then some (.m2g (fld w 12 6) (fld w 6 3)) else none
  | 6 => if (fld w 0 6).toNat = 0 ∧ (fld w 15 6).toNat = 0 then some (.g2m (fld w 12 3) (fld w 6 6)) else none
  | 7 => if (fld w 0 6).toNat = 0 ∧ (fld w 9 3).toNat = 0 ∧ (fld w 18 3).toNat = 0 then some (.mpopc (fld w 12 6) (fld w 6 3)) else none
  | 8 => if (fld w 0 6).toNat = 0 ∧ (fld w 9 3).toNat = 0 ∧ (fld w 15 6).toNat = 0 then some (.j2m (fld w 12 3) (fld w 6 3)) else none
  | 9 => if (fld w 0 6).toNat = 0 ∧ (fld w 9 3).toNat = 0 ∧ (fld w 15 6).toNat = 0 then some (.m2j (fld w 12 3) (fld w 6 3)) else none
  | 16 => if (fld w 0 6).toNat = 0 ∧ (fld w 18 3).toNat = 0 then some (.matchWord (fld w 12 6) (fld w 6 6)) else none
  | 17 => if (fld w 0 6).toNat = 0 ∧ (fld w 18 3).toNat = 0 then some (.matchPair (fld w 12 6) (fld w 6 6)) else none
  | 18 => if (fld w 0 6).toNat = 0 ∧ (fld w 15 6).toNat = 0 then some (.vote (fld w 12 3) (fld w 6 6)) else none
  | 19 => if (fld w 0 12).toNat = 0 ∧ (fld w 15 6).toNat = 0 then some (.elect (fld w 12 3)) else none
  | 24 => if (fld w 0 6).toNat = 0 ∧ (fld w 12 9).toNat = 0 then some (.ret (fld w 6 6)) else none
  | 25 => if (fld w 0 6).toNat = 0 ∧ (fld w 12 9).toNat = 0 then some (.brx (fld w 6 6)) else none
  | 26 => if (fld w 0 21).toNat = 0 then some (.exit) else none
  | _ => none

/-- Barriers and waits, group major 0x7 (R127). -/
noncomputable def decGroup7 (w : Word) : Option Instr :=
  match (fld w 20 7).toNat with
  | 0 => if (fld w 1 3).toNat = 1 ∧ (fld w 16 4).toNat = 0 then some (.barInit (fld w 10 6) (fld w 4 6) (fld w 0 1)) else none
  | 1 => if (fld w 0 10).toNat = 0 ∧ (fld w 16 4).toNat = 0 then some (.barArv (fld w 10 6)) else none
  | 2 => if (fld w 0 4).toNat = 0 ∧ (fld w 16 4).toNat = 0 then some (.barArvb (fld w 10 6) (fld w 4 6)) else none
  | 3 => if (fld w 0 4).toNat = 0 ∧ (fld w 16 4).toNat = 0 then some (.barExp (fld w 10 6) (fld w 4 6)) else none
  | 4 => if (fld w 0 4).toNat = 0 ∧ (fld w 16 4).toNat = 0 then some (.barWait (fld w 10 6) (fld w 4 6)) else none
  | 5 => if (fld w 0 4).toNat = 0 ∧ (fld w 16 4).toNat = 0 then some (.barTest (fld w 10 6) (fld w 4 6)) else none
  | 6 => if (fld w 0 10).toNat = 0 ∧ (fld w 16 4).toNat = 0 then some (.barInval (fld w 10 6)) else none
  | 8 => if (fld w 16 4).toNat = 0 then some (.waita (fld w 10 6) (fld w 4 6) (fld w 3 1) (fld w 0 3)) else none
  | 9 => if (fld w 0 10).toNat = 0 ∧ (fld w 16 4).toNat = 0 then some (.wakea (fld w 10 6)) else none
  | _ => none

/-- Copy, group major 0x8 (R128). -/
noncomputable def decGroup8 (w : Word) : Option Instr :=
  match (fld w 20 7).toNat with
  | 0 => if (fld w 16 4).toNat = 0 then some (.cpyLd (fld w 10 6) (fld w 4 6) (fld w 0 4)) else none
  | 1 => if (fld w 16 4).toNat = 0 then some (.cpySt (fld w 10 6) (fld w 4 6) (fld w 0 4)) else none
  | 2 => if (fld w 16 4).toNat = 0 then some (.cpySc (fld w 10 6) (fld w 4 6) (fld w 0 4)) else none
  | 3 => if (fld w 16 4).toNat = 0 then some (.cpyPf (fld w 10 6) (fld w 4 6) (fld w 0 4)) else none
  | 8 => if (fld w 0 20).toNat = 0 then some (.cpySeal) else none
  | 9 => if (fld w 4 16).toNat = 0 then some (.cpyWaitn (fld w 0 4)) else none
  | _ => none

/-- Matrix, group major 0x9 (R129). -/
noncomputable def decGroup9 (w : Word) : Option Instr :=
  match (fld w 20 7).toNat with
  | 0 => if (fld w 3 17).toNat = 0 then some (.mres (fld w 0 3)) else none
  | 1 => if (fld w 0 20).toNat = 0 then some (.mrel) else none
  | 2 => if (fld w 0 10).toNat = 0 ∧ (fld w 16 4).toNat = 0 then some (.mzero (fld w 10 6)) else none
  | 3 => if (fld w 0 20).toNat = 0 then some (.mfence) else none
  | 4 => if (fld w 4 16).toNat = 0 then some (.mwait (fld w 0 4)) else none
  | m => if 64 ≤ m ∧ (fld w 16 4).toNat = 0 then some (.mma (fld w 23 3) (fld w 20 3) (fld w 10 6) (fld w 4 6) (fld w 0 4)) else none

/-- Uniform memory, group major 0xA (R130). -/
noncomputable def decGroupA (w : Word) : Option Instr :=
  match (fld w 20 7).toNat with
  | 0 => some (.gldZb (fld w 16 4) (fld w 10 6) (fld w 4 6) (fld w 0 4))
  | 1 => some (.gldSb (fld w 16 4) (fld w 10 6) (fld w 4 6) (fld w 0 4))
  | 2 => some (.gldZh (fld w 16 4) (fld w 10 6) (fld w 4 6) (fld w 0 4))
  | 3 => some (.gldSh (fld w 16 4) (fld w 10 6) (fld w 4 6) (fld w 0 4))
  | 4 => some (.gldW (fld w 16 4) (fld w 10 6) (fld w 4 6) (fld w 0 4))
  | 5 => some (.gldD (fld w 16 4) (fld w 10 6) (fld w 4 6) (fld w 0 4))
  | 8 => if (fld w 16 4).toNat = 0 then some (.gstB (fld w 10 6) (fld w 4 6) (fld w 0 4)) else none
  | 9 => if (fld w 16 4).toNat = 0 then some (.gstH (fld w 10 6) (fld w 4 6) (fld w 0 4)) else none
  | 10 => if (fld w 16 4).toNat = 0 then some (.gstW (fld w 10 6) (fld w 4 6) (fld w 0 4)) else none
  | 11 => if (fld w 16 4).toNat = 0 then some (.gstD (fld w 10 6) (fld w 4 6) (fld w 0 4)) else none
  | 16 => some (.gatomAdd (fld w 16 4) (fld w 10 6) (fld w 4 6) (fld w 0 4))
  | 17 => some (.gatomAnd (fld w 16 4) (fld w 10 6) (fld w 4 6) (fld w 0 4))
  | 18 => some (.gatomOr (fld w 16 4) (fld w 10 6) (fld w 4 6) (fld w 0 4))
  | 19 => some (.gatomXor (fld w 16 4) (fld w 10 6) (fld w 4 6) (fld w 0 4))
  | 20 => some (.gatomXchg (fld w 16 4) (fld w 10 6) (fld w 4 6) (fld w 0 4))
  | 21 => some (.gatomCas (fld w 16 4) (fld w 10 6) (fld w 4 6) (fld w 0 4))
  | 22 => some (.gatomMinS (fld w 16 4) (fld w 10 6) (fld w 4 6) (fld w 0 4))
  | 23 => some (.gatomMaxS (fld w 16 4) (fld w 10 6) (fld w 4 6) (fld w 0 4))
  | 24 => some (.gatomMinZ (fld w 16 4) (fld w 10 6) (fld w 4 6) (fld w 0 4))
  | 25 => some (.gatomMaxZ (fld w 16 4) (fld w 10 6) (fld w 4 6) (fld w 0 4))
  | 26 => some (.gatomFadd (fld w 16 4) (fld w 10 6) (fld w 4 6) (fld w 0 4))
  | 27 => some (.gatomAddD (fld w 16 4) (fld w 10 6) (fld w 4 6) (fld w 0 4))
  | 28 => some (.gatomXchgD (fld w 16 4) (fld w 10 6) (fld w 4 6) (fld w 0 4))
  | 29 => some (.gatomCasD (fld w 16 4) (fld w 10 6) (fld w 4 6) (fld w 0 4))
  | 30 => some (.gatomMinZD (fld w 16 4) (fld w 10 6) (fld w 4 6) (fld w 0 4))
  | 31 => some (.gatomMaxZD (fld w 16 4) (fld w 10 6) (fld w 4 6) (fld w 0 4))
  | _ => none

/-- Queue, kernel, region, tide, group major 0xB (R131). -/
noncomputable def decGroupB (w : Word) : Option Instr :=
  match (fld w 20 7).toNat with
  | 0 => if (fld w 0 4).toNat = 0 ∧ (fld w 16 4).toNat = 0 then some (.qpost (fld w 10 6) (fld w 4 6)) else none
  | 1 => if (fld w 0 4).toNat = 0 ∧ (fld w 16 4).toNat = 0 then some (.qsig (fld w 10 6) (fld w 4 6)) else none
  | 2 => if (fld w 0 4).toNat = 0 ∧ (fld w 16 4).toNat = 0 then some (.qstat (fld w 10 6) (fld w 4 6)) else none
  | 3 => if (fld w 0 10).toNat = 0 ∧ (fld w 16 4).toNat = 0 then some (.kabort (fld w 10 6)) else none
  | 16 => if (fld w 4 6).toNat = 0 ∧ (fld w 16 4).toNat = 0 then some (.region (fld w 10 6) (fld w 0 4)) else none
  | 17 => if (fld w 0 20).toNat = 0 then some (.regx) else none
  | 24 => if (fld w 0 20).toNat = 0 then some (.rdenter) else none
  | 25 => if (fld w 0 20).toNat = 0 then some (.rdexit) else none
  | 26 => if (fld w 0 20).toNat = 0 then some (.qpoint) else none
  | 27 => if (fld w 0 4).toNat = 0 ∧ (fld w 10 10).toNat = 0 then some (.gpstart (fld w 4 6)) else none
  | 28 => if (fld w 0 10).toNat = 0 ∧ (fld w 16 4).toNat = 0 then some (.gpwait (fld w 10 6)) else none
  | 29 => if (fld w 0 4).toNat = 0 ∧ (fld w 16 4).toNat = 0 then some (.gppoll (fld w 10 6) (fld w 4 6)) else none
  | 30 => if (fld w 0 4).toNat = 0 ∧ (fld w 16 4).toNat = 0 then some (.gpfree (fld w 10 6) (fld w 4 6)) else none
  | _ => none

/-- Page, polder, link, collective, group major 0xC (R132). -/
noncomputable def decGroupC (w : Word) : Option Instr :=
  match (fld w 20 7).toNat with
  | 0 => if (fld w 0 10).toNat = 0 ∧ (fld w 16 4).toNat = 0 then some (.publ (fld w 10 6)) else none
  | 1 => if (fld w 0 10).toNat = 0 ∧ (fld w 16 4).toNat = 0 then some (.pdef (fld w 10 6)) else none
  | 2 => if (fld w 0 4).toNat = 0 ∧ (fld w 16 4).toNat = 0 then some (.presize (fld w 10 6) (fld w 4 6)) else none
  | 3 =>
    if (fld w 0 10).toNat = 0 ∧ (fld w 16 4).toNat = 0 then some (.tlbiPage (fld w 10 6))
    else if (fld w 0 10).toNat = 1 ∧ (fld w 16 4).toNat = 0 then some (.tlbiAsid (fld w 10 6))
    else if (fld w 0 20).toNat = 2 then some (.tlbiAll)
    else if (fld w 0 10).toNat = 3 ∧ (fld w 16 4).toNat = 0 then some (.tlbi2m (fld w 10 6))
    else if (fld w 0 10).toNat = 4 ∧ (fld w 16 4).toNat = 0 then some (.tlbi1g (fld w 10 6))
    else none
  | 4 => if (fld w 0 4).toNat = 0 ∧ (fld w 16 4).toNat = 0 then some (.pmig (fld w 10 6) (fld w 4 6)) else none
  | 5 => if (fld w 0 4).toNat = 0 ∧ (fld w 16 4).toNat = 0 then some (.pclass (fld w 10 6) (fld w 4 6)) else none
  | 6 => if (fld w 0 4).toNat = 0 ∧ (fld w 16 4).toNat = 0 then some (.pstat (fld w 10 6) (fld w 4 6)) else none
  | 16 => if (fld w 0 4).toNat = 0 ∧ (fld w 16 4).toNat = 0 then some (.coll (fld w 10 6) (fld w 4 6)) else none
  | 17 => if (fld w 0 10).toNat = 0 ∧ (fld w 16 4).toNat = 0 then some (.pubv (fld w 10 6)) else none
  | 18 => if (fld w 0 4).toNat = 0 ∧ (fld w 16 4).toNat = 0 then some (.psub (fld w 10 6) (fld w 4 6)) else none
  | 19 => if (fld w 0 4).toNat = 0 ∧ (fld w 16 4).toNat = 0 then some (.lstat (fld w 10 6) (fld w 4 6)) else none
  | _ => none

/-- System, group major 0xD (R133). -/
noncomputable def decGroupD (w : Word) : Option Instr :=
  match (fld w 20 7).toNat with
  | 0 => if (fld w 0 20).toNat = 0 then some (.nop) else none
  | 1 => if (fld w 4 16).toNat = 0 then some (.trap (fld w 0 4)) else none
  | 2 => if (fld w 0 20).toNat = 0 then some (.eret) else none
  | 3 => if (fld w 0 20).toNat = 0 then some (.trapret) else none
  | 4 => if (fld w 16 4).toNat = 0 then some (.sysr (fld w 10 6) (fld w 4 6) (fld w 0 4)) else none
  | 5 => if (fld w 16 4).toNat = 0 then some (.sysw (fld w 10 6) (fld w 4 6) (fld w 0 4)) else none
  | 6 => if (fld w 3 17).toNat = 0 then some (.fence (fld w 0 3)) else none
  | 7 => if (fld w 0 4).toNat = 0 ∧ (fld w 10 10).toNat = 0 then some (.time (fld w 4 6)) else none
  | 8 => if (fld w 0 4).toNat = 0 ∧ (fld w 10 10).toNat = 0 then some (.clock (fld w 4 6)) else none
  | 9 => if (fld w 0 20).toNat = 0 then some (.yield) else none
  | 10 => if (fld w 0 20).toNat = 0 then some (.noreuse) else none
  | _ => none

/-- The instruction a word stands for, by set and major (R86, R102, R119), minor and reserved fields: checks 1 to 3 of
R99. The remaining decode checks are WellFormed. -/
noncomputable def decodeWord (w : Word) : Option Instr :=
  match (fld w 27 5).toNat with
  | 0 => decLane0 w
  | 1 => decLane1 w
  | 2 => decLane2 w
  | 3 => decLane3 w
  | 4 => decLane4 w
  | 5 => decLane5 w
  | 6 => decLane6 w
  | 7 => decLane7 w
  | 8 => decLane8 w
  | 9 => decLane9 w
  | 10 => decLaneA w
  | 11 => decLaneB w
  | 12 => decLaneC w
  | 13 => decLaneD w
  | 14 => decLaneE w
  | 16 => decGroup0 w
  | 17 => decGroup1 w
  | 18 => decGroup2 w
  | 19 => decGroup3 w
  | 20 => decGroup4 w
  | 21 => decGroup5 w
  | 22 => decGroup6 w
  | 23 => decGroup7 w
  | 24 => decGroup8 w
  | 25 => decGroup9 w
  | 26 => decGroupA w
  | 27 => decGroupB w
  | 28 => decGroupC w
  | 29 => decGroupD w
  | _ => none

/-- The word of an instruction, from the opcode table's match bits and field places (R87, R88); none for an event, which
has no word. -/
def encode : Instr → Option Word
  | .iadd g d a b => some (BitVec.ofNat 32 (0x00000000 + g.toNat * 262144 + d.toNat * 4096 + a.toNat * 64 + b.toNat))
  | .isub g d a b => some (BitVec.ofNat 32 (0x00200000 + g.toNat * 262144 + d.toNat * 4096 + a.toNat * 64 + b.toNat))
  | .imul g d a b => some (BitVec.ofNat 32 (0x00400000 + g.toNat * 262144 + d.toNat * 4096 + a.toNat * 64 + b.toNat))
  | .imulhS g d a b => some (BitVec.ofNat 32 (0x00600000 + g.toNat * 262144 + d.toNat * 4096 + a.toNat * 64 + b.toNat))
  | .imulhZ g d a b => some (BitVec.ofNat 32 (0x00800000 + g.toNat * 262144 + d.toNat * 4096 + a.toNat * 64 + b.toNat))
  | .iaddSatS g d a b => some (BitVec.ofNat 32 (0x00A00000 + g.toNat * 262144 + d.toNat * 4096 + a.toNat * 64 + b.toNat))
  | .iaddSatZ g d a b => some (BitVec.ofNat 32 (0x00C00000 + g.toNat * 262144 + d.toNat * 4096 + a.toNat * 64 + b.toNat))
  | .isubSatS g d a b => some (BitVec.ofNat 32 (0x00E00000 + g.toNat * 262144 + d.toNat * 4096 + a.toNat * 64 + b.toNat))
  | .isubSatZ g d a b => some (BitVec.ofNat 32 (0x01000000 + g.toNat * 262144 + d.toNat * 4096 + a.toNat * 64 + b.toNat))
  | .iminS g d a b => some (BitVec.ofNat 32 (0x01200000 + g.toNat * 262144 + d.toNat * 4096 + a.toNat * 64 + b.toNat))
  | .iminZ g d a b => some (BitVec.ofNat 32 (0x01400000 + g.toNat * 262144 + d.toNat * 4096 + a.toNat * 64 + b.toNat))
  | .imaxS g d a b => some (BitVec.ofNat 32 (0x01600000 + g.toNat * 262144 + d.toNat * 4096 + a.toNat * 64 + b.toNat))
  | .imaxZ g d a b => some (BitVec.ofNat 32 (0x01800000 + g.toNat * 262144 + d.toNat * 4096 + a.toNat * 64 + b.toNat))
  | .iabs g d a => some (BitVec.ofNat 32 (0x01A00000 + g.toNat * 262144 + d.toNat * 4096 + a.toNat * 64))
  | .ineg g d a => some (BitVec.ofNat 32 (0x01C00000 + g.toNat * 262144 + d.toNat * 4096 + a.toNat * 64))
  | .iadd64 g d a b => some (BitVec.ofNat 32 (0x02000000 + g.toNat * 262144 + d.toNat * 4096 + a.toNat * 64 + b.toNat))
  | .iadd64S g d a b => some (BitVec.ofNat 32 (0x02200000 + g.toNat * 262144 + d.toNat * 4096 + a.toNat * 64 + b.toNat))
  | .iadd64Z g d a b => some (BitVec.ofNat 32 (0x02400000 + g.toNat * 262144 + d.toNat * 4096 + a.toNat * 64 + b.toNat))
  | .isub64 g d a b => some (BitVec.ofNat 32 (0x02600000 + g.toNat * 262144 + d.toNat * 4096 + a.toNat * 64 + b.toNat))
  | .imulwS g d a b => some (BitVec.ofNat 32 (0x02800000 + g.toNat * 262144 + d.toNat * 4096 + a.toNat * 64 + b.toNat))
  | .imulwZ g d a b => some (BitVec.ofNat 32 (0x02A00000 + g.toNat * 262144 + d.toNat * 4096 + a.toNat * 64 + b.toNat))
  | .and g d a b => some (BitVec.ofNat 32 (0x08000000 + g.toNat * 262144 + d.toNat * 4096 + a.toNat * 64 + b.toNat))
  | .or g d a b => some (BitVec.ofNat 32 (0x08200000 + g.toNat * 262144 + d.toNat * 4096 + a.toNat * 64 + b.toNat))
  | .xor g d a b => some (BitVec.ofNat 32 (0x08400000 + g.toNat * 262144 + d.toNat * 4096 + a.toNat * 64 + b.toNat))
  | .andn g d a b => some (BitVec.ofNat 32 (0x08600000 + g.toNat * 262144 + d.toNat * 4096 + a.toNat * 64 + b.toNat))
  | .not g d a => some (BitVec.ofNat 32 (0x08800000 + g.toNat * 262144 + d.toNat * 4096 + a.toNat * 64))
  | .shl g d a b => some (BitVec.ofNat 32 (0x08A00000 + g.toNat * 262144 + d.toNat * 4096 + a.toNat * 64 + b.toNat))
  | .shr g d a b => some (BitVec.ofNat 32 (0x08C00000 + g.toNat * 262144 + d.toNat * 4096 + a.toNat * 64 + b.toNat))
  | .sar g d a b => some (BitVec.ofNat 32 (0x08E00000 + g.toNat * 262144 + d.toNat * 4096 + a.toNat * 64 + b.toNat))
  | .rol g d a b => some (BitVec.ofNat 32 (0x09000000 + g.toNat * 262144 + d.toNat * 4096 + a.toNat * 64 + b.toNat))
  | .popc g d a => some (BitVec.ofNat 32 (0x09200000 + g.toNat * 262144 + d.toNat * 4096 + a.toNat * 64))
  | .clz g d a => some (BitVec.ofNat 32 (0x09400000 + g.toNat * 262144 + d.toNat * 4096 + a.toNat * 64))
  | .brev g d a => some (BitVec.ofNat 32 (0x09600000 + g.toNat * 262144 + d.toNat * 4096 + a.toNat * 64))
  | .shl64 g d a b => some (BitVec.ofNat 32 (0x09800000 + g.toNat * 262144 + d.toNat * 4096 + a.toNat * 64 + b.toNat))
  | .shr64 g d a b => some (BitVec.ofNat 32 (0x09A00000 + g.toNat * 262144 + d.toNat * 4096 + a.toNat * 64 + b.toNat))
  | .sar64 g d a b => some (BitVec.ofNat 32 (0x09C00000 + g.toNat * 262144 + d.toNat * 4096 + a.toNat * 64 + b.toNat))
  | .mov g d a => some (BitVec.ofNat 32 (0x09E00000 + g.toNat * 262144 + d.toNat * 4096 + a.toNat * 64))
  | .icmpEq g k a b => some (BitVec.ofNat 32 (0x10000000 + g.toNat * 262144 + k.toNat * 4096 + a.toNat * 64 + b.toNat))
  | .icmpNe g k a b => some (BitVec.ofNat 32 (0x10200000 + g.toNat * 262144 + k.toNat * 4096 + a.toNat * 64 + b.toNat))
  | .icmpLtS g k a b => some (BitVec.ofNat 32 (0x10400000 + g.toNat * 262144 + k.toNat * 4096 + a.toNat * 64 + b.toNat))
  | .icmpLeS g k a b => some (BitVec.ofNat 32 (0x10600000 + g.toNat * 262144 + k.toNat * 4096 + a.toNat * 64 + b.toNat))
  | .icmpGtS g k a b => some (BitVec.ofNat 32 (0x10800000 + g.toNat * 262144 + k.toNat * 4096 + a.toNat * 64 + b.toNat))
  | .icmpGeS g k a b => some (BitVec.ofNat 32 (0x10A00000 + g.toNat * 262144 + k.toNat * 4096 + a.toNat * 64 + b.toNat))
  | .icmpLtZ g k a b => some (BitVec.ofNat 32 (0x10C00000 + g.toNat * 262144 + k.toNat * 4096 + a.toNat * 64 + b.toNat))
  | .icmpLeZ g k a b => some (BitVec.ofNat 32 (0x10E00000 + g.toNat * 262144 + k.toNat * 4096 + a.toNat * 64 + b.toNat))
  | .icmpGtZ g k a b => some (BitVec.ofNat 32 (0x11000000 + g.toNat * 262144 + k.toNat * 4096 + a.toNat * 64 + b.toNat))
  | .icmpGeZ g k a b => some (BitVec.ofNat 32 (0x11200000 + g.toNat * 262144 + k.toNat * 4096 + a.toNat * 64 + b.toNat))
  | .fcmpEq g k a b => some (BitVec.ofNat 32 (0x12000000 + g.toNat * 262144 + k.toNat * 4096 + a.toNat * 64 + b.toNat))
  | .fcmpNe g k a b => some (BitVec.ofNat 32 (0x12200000 + g.toNat * 262144 + k.toNat * 4096 + a.toNat * 64 + b.toNat))
  | .fcmpLt g k a b => some (BitVec.ofNat 32 (0x12400000 + g.toNat * 262144 + k.toNat * 4096 + a.toNat * 64 + b.toNat))
  | .fcmpLe g k a b => some (BitVec.ofNat 32 (0x12600000 + g.toNat * 262144 + k.toNat * 4096 + a.toNat * 64 + b.toNat))
  | .fcmpGt g k a b => some (BitVec.ofNat 32 (0x12800000 + g.toNat * 262144 + k.toNat * 4096 + a.toNat * 64 + b.toNat))
  | .fcmpGe g k a b => some (BitVec.ofNat 32 (0x12A00000 + g.toNat * 262144 + k.toNat * 4096 + a.toNat * 64 + b.toNat))
  | .fcmpNan g k a b => some (BitVec.ofNat 32 (0x12C00000 + g.toNat * 262144 + k.toNat * 4096 + a.toNat * 64 + b.toNat))
  | .dcmpEq g k a b => some (BitVec.ofNat 32 (0x13000000 + g.toNat * 262144 + k.toNat * 4096 + a.toNat * 64 + b.toNat))
  | .dcmpNe g k a b => some (BitVec.ofNat 32 (0x13200000 + g.toNat * 262144 + k.toNat * 4096 + a.toNat * 64 + b.toNat))
  | .dcmpLt g k a b => some (BitVec.ofNat 32 (0x13400000 + g.toNat * 262144 + k.toNat * 4096 + a.toNat * 64 + b.toNat))
  | .dcmpLe g k a b => some (BitVec.ofNat 32 (0x13600000 + g.toNat * 262144 + k.toNat * 4096 + a.toNat * 64 + b.toNat))
  | .dcmpGt g k a b => some (BitVec.ofNat 32 (0x13800000 + g.toNat * 262144 + k.toNat * 4096 + a.toNat * 64 + b.toNat))
  | .dcmpGe g k a b => some (BitVec.ofNat 32 (0x13A00000 + g.toNat * 262144 + k.toNat * 4096 + a.toNat * 64 + b.toNat))
  | .dcmpNan g k a b => some (BitVec.ofNat 32 (0x13C00000 + g.toNat * 262144 + k.toNat * 4096 + a.toNat * 64 + b.toNat))
  | .v2m g k a => some (BitVec.ofNat 32 (0x14000000 + g.toNat * 262144 + k.toNat * 4096 + a.toNat * 64))
  | .m2v g d k => some (BitVec.ofNat 32 (0x14200000 + g.toNat * 262144 + d.toNat * 4096 + k.toNat * 64))
  | .fadd g d a b => some (BitVec.ofNat 32 (0x18000000 + g.toNat * 262144 + d.toNat * 4096 + a.toNat * 64 + b.toNat))
  | .fsub g d a b => some (BitVec.ofNat 32 (0x18200000 + g.toNat * 262144 + d.toNat * 4096 + a.toNat * 64 + b.toNat))
  | .fmul g d a b => some (BitVec.ofNat 32 (0x18400000 + g.toNat * 262144 + d.toNat * 4096 + a.toNat * 64 + b.toNat))
  | .fmin g d a b => some (BitVec.ofNat 32 (0x18600000 + g.toNat * 262144 + d.toNat * 4096 + a.toNat * 64 + b.toNat))
  | .fmax g d a b => some (BitVec.ofNat 32 (0x18800000 + g.toNat * 262144 + d.toNat * 4096 + a.toNat * 64 + b.toNat))
  | .fabs g d a => some (BitVec.ofNat 32 (0x18A00000 + g.toNat * 262144 + d.toNat * 4096 + a.toNat * 64))
  | .fneg g d a => some (BitVec.ofNat 32 (0x18C00000 + g.toNat * 262144 + d.toNat * 4096 + a.toNat * 64))
  | .faddH2 g d a b => some (BitVec.ofNat 32 (0x19000000 + g.toNat * 262144 + d.toNat * 4096 + a.toNat * 64 + b.toNat))
  | .fsubH2 g d a b => some (BitVec.ofNat 32 (0x19200000 + g.toNat * 262144 + d.toNat * 4096 + a.toNat * 64 + b.toNat))
  | .fmulH2 g d a b => some (BitVec.ofNat 32 (0x19400000 + g.toNat * 262144 + d.toNat * 4096 + a.toNat * 64 + b.toNat))
  | .fminH2 g d a b => some (BitVec.ofNat 32 (0x19600000 + g.toNat * 262144 + d.toNat * 4096 + a.toNat * 64 + b.toNat))
  | .fmaxH2 g d a b => some (BitVec.ofNat 32 (0x19800000 + g.toNat * 262144 + d.toNat * 4096 + a.toNat * 64 + b.toNat))
  | .faddB2 g d a b => some (BitVec.ofNat 32 (0x1A000000 + g.toNat * 262144 + d.toNat * 4096 + a.toNat * 64 + b.toNat))
  | .fsubB2 g d a b => some (BitVec.ofNat 32 (0x1A200000 + g.toNat * 262144 + d.toNat * 4096 + a.toNat * 64 + b.toNat))
  | .fmulB2 g d a b => some (BitVec.ofNat 32 (0x1A400000 + g.toNat * 262144 + d.toNat * 4096 + a.toNat * 64 + b.toNat))
  | .fminB2 g d a b => some (BitVec.ofNat 32 (0x1A600000 + g.toNat * 262144 + d.toNat * 4096 + a.toNat * 64 + b.toNat))
  | .fmaxB2 g d a b => some (BitVec.ofNat 32 (0x1A800000 + g.toNat * 262144 + d.toNat * 4096 + a.toNat * 64 + b.toNat))
  | .dadd g d a b => some (BitVec.ofNat 32 (0x20000000 + g.toNat * 262144 + d.toNat * 4096 + a.toNat * 64 + b.toNat))
  | .dsub g d a b => some (BitVec.ofNat 32 (0x20200000 + g.toNat * 262144 + d.toNat * 4096 + a.toNat * 64 + b.toNat))
  | .dmul g d a b => some (BitVec.ofNat 32 (0x20400000 + g.toNat * 262144 + d.toNat * 4096 + a.toNat * 64 + b.toNat))
  | .dmin g d a b => some (BitVec.ofNat 32 (0x20600000 + g.toNat * 262144 + d.toNat * 4096 + a.toNat * 64 + b.toNat))
  | .dmax g d a b => some (BitVec.ofNat 32 (0x20800000 + g.toNat * 262144 + d.toNat * 4096 + a.toNat * 64 + b.toNat))
  | .dabs g d a => some (BitVec.ofNat 32 (0x20A00000 + g.toNat * 262144 + d.toNat * 4096 + a.toNat * 64))
  | .dneg g d a => some (BitVec.ofNat 32 (0x20C00000 + g.toNat * 262144 + d.toNat * 4096 + a.toNat * 64))
  | .frcp g d a => some (BitVec.ofNat 32 (0x22000000 + g.toNat * 262144 + d.toNat * 4096 + a.toNat * 64))
  | .frsq g d a => some (BitVec.ofNat 32 (0x22200000 + g.toNat * 262144 + d.toNat * 4096 + a.toNat * 64))
  | .fexp2 g d a => some (BitVec.ofNat 32 (0x22400000 + g.toNat * 262144 + d.toNat * 4096 + a.toNat * 64))
  | .flog2 g d a => some (BitVec.ofNat 32 (0x22600000 + g.toNat * 262144 + d.toNat * 4096 + a.toNat * 64))
  | .fsin g d a => some (BitVec.ofNat 32 (0x22800000 + g.toNat * 262144 + d.toNat * 4096 + a.toNat * 64))
  | .fcos g d a => some (BitVec.ofNat 32 (0x22A00000 + g.toNat * 262144 + d.toNat * 4096 + a.toNat * 64))
  | .frcpH2 g d a => some (BitVec.ofNat 32 (0x23000000 + g.toNat * 262144 + d.toNat * 4096 + a.toNat * 64))
  | .frsqH2 g d a => some (BitVec.ofNat 32 (0x23200000 + g.toNat * 262144 + d.toNat * 4096 + a.toNat * 64))
  | .fexp2H2 g d a => some (BitVec.ofNat 32 (0x23400000 + g.toNat * 262144 + d.toNat * 4096 + a.toNat * 64))
  | .flog2H2 g d a => some (BitVec.ofNat 32 (0x23600000 + g.toNat * 262144 + d.toNat * 4096 + a.toNat * 64))
  | .i2fS g d a => some (BitVec.ofNat 32 (0x28000000 + g.toNat * 262144 + d.toNat * 4096 + a.toNat * 64))
  | .i2fZ g d a => some (BitVec.ofNat 32 (0x28200000 + g.toNat * 262144 + d.toNat * 4096 + a.toNat * 64))
  | .f2iS g d a => some (BitVec.ofNat 32 (0x28400000 + g.toNat * 262144 + d.toNat * 4096 + a.toNat * 64))
  | .f2iSTz g d a => some (BitVec.ofNat 32 (0x28600000 + g.toNat * 262144 + d.toNat * 4096 + a.toNat * 64))
  | .f2iZ g d a => some (BitVec.ofNat 32 (0x28800000 + g.toNat * 262144 + d.toNat * 4096 + a.toNat * 64))
  | .f2iZTz g d a => some (BitVec.ofNat 32 (0x28A00000 + g.toNat * 262144 + d.toNat * 4096 + a.toNat * 64))
  | .i2dS g d a => some (BitVec.ofNat 32 (0x28C00000 + g.toNat * 262144 + d.toNat * 4096 + a.toNat * 64))
  | .i2dZ g d a => some (BitVec.ofNat 32 (0x28E00000 + g.toNat * 262144 + d.toNat * 4096 + a.toNat * 64))
  | .d2iS g d a => some (BitVec.ofNat 32 (0x29000000 + g.toNat * 262144 + d.toNat * 4096 + a.toNat * 64))
  | .d2iSTz g d a => some (BitVec.ofNat 32 (0x29200000 + g.toNat * 262144 + d.toNat * 4096 + a.toNat * 64))
  | .d2iZ g d a => some (BitVec.ofNat 32 (0x29400000 + g.toNat * 262144 + d.toNat * 4096 + a.toNat * 64))
  | .d2iZTz g d a => some (BitVec.ofNat 32 (0x29600000 + g.toNat * 262144 + d.toNat * 4096 + a.toNat * 64))
  | .f2d g d a => some (BitVec.ofNat 32 (0x29800000 + g.toNat * 262144 + d.toNat * 4096 + a.toNat * 64))
  | .d2f g d a => some (BitVec.ofNat 32 (0x29A00000 + g.toNat * 262144 + d.toNat * 4096 + a.toNat * 64))
  | .f2h2 g d a b => some (BitVec.ofNat 32 (0x29C00000 + g.toNat * 262144 + d.toNat * 4096 + a.toNat * 64 + b.toNat))
  | .h2fLo g d a => some (BitVec.ofNat 32 (0x29E00000 + g.toNat * 262144 + d.toNat * 4096 + a.toNat * 64))
  | .h2fHi g d a => some (BitVec.ofNat 32 (0x2A000000 + g.toNat * 262144 + d.toNat * 4096 + a.toNat * 64))
  | .f2b2 g d a b => some (BitVec.ofNat 32 (0x2A200000 + g.toNat * 262144 + d.toNat * 4096 + a.toNat * 64 + b.toNat))
  | .b2fLo g d a => some (BitVec.ofNat 32 (0x2A400000 + g.toNat * 262144 + d.toNat * 4096 + a.toNat * 64))
  | .b2fHi g d a => some (BitVec.ofNat 32 (0x2A600000 + g.toNat * 262144 + d.toNat * 4096 + a.toNat * 64))
  | .nscale g d a f => some (BitVec.ofNat 32 (0x2C000000 + g.toNat * 262144 + d.toNat * 4096 + a.toNat * 64 + f.toNat))
  | .npack g d a f => some (BitVec.ofNat 32 (0x2C200000 + g.toNat * 262144 + d.toNat * 4096 + a.toNat * 64 + f.toNat))
  | .nunpk g d a f => some (BitVec.ofNat 32 (0x2C400000 + g.toNat * 262144 + d.toNat * 4096 + a.toNat * 64 + f.toNat))
  | .ffma d a b c => some (BitVec.ofNat 32 (0x30000000 + d.toNat * 262144 + a.toNat * 4096 + b.toNat * 64 + c.toNat))
  | .ffms d a b c => some (BitVec.ofNat 32 (0x31000000 + d.toNat * 262144 + a.toNat * 4096 + b.toNat * 64 + c.toNat))
  | .fnma d a b c => some (BitVec.ofNat 32 (0x32000000 + d.toNat * 262144 + a.toNat * 4096 + b.toNat * 64 + c.toNat))
  | .ffmaH2 d a b c => some (BitVec.ofNat 32 (0x33000000 + d.toNat * 262144 + a.toNat * 4096 + b.toNat * 64 + c.toNat))
  | .ffmaB2 d a b c => some (BitVec.ofNat 32 (0x34000000 + d.toNat * 262144 + a.toNat * 4096 + b.toNat * 64 + c.toNat))
  | .dfma d a b c => some (BitVec.ofNat 32 (0x35000000 + d.toNat * 262144 + a.toNat * 4096 + b.toNat * 64 + c.toNat))
  | .dfms d a b c => some (BitVec.ofNat 32 (0x36000000 + d.toNat * 262144 + a.toNat * 4096 + b.toNat * 64 + c.toNat))
  | .dfnma d a b c => some (BitVec.ofNat 32 (0x37000000 + d.toNat * 262144 + a.toNat * 4096 + b.toNat * 64 + c.toNat))
  | .imad d a b c => some (BitVec.ofNat 32 (0x38000000 + d.toNat * 262144 + a.toNat * 4096 + b.toNat * 64 + c.toNat))
  | .imadwS d a b c => some (BitVec.ofNat 32 (0x39000000 + d.toNat * 262144 + a.toNat * 4096 + b.toNat * 64 + c.toNat))
  | .imadwZ d a b c => some (BitVec.ofNat 32 (0x3A000000 + d.toNat * 262144 + a.toNat * 4096 + b.toNat * 64 + c.toNat))
  | .sel d a b k => some (BitVec.ofNat 32 (0x3B000000 + d.toNat * 262144 + a.toNat * 4096 + b.toNat * 64 + k.toNat))
  | .sel64 d a b k => some (BitVec.ofNat 32 (0x3C000000 + d.toNat * 262144 + a.toNat * 4096 + b.toNat * 64 + k.toNat))
  | .iaddImm g d a i => some (BitVec.ofNat 32 (0x40000000 + g.toNat * 1048576 + d.toNat * 16384 + a.toNat * 256 + i.toNat))
  | .imulImm g d a i => some (BitVec.ofNat 32 (0x40800000 + g.toNat * 1048576 + d.toNat * 16384 + a.toNat * 256 + i.toNat))
  | .andImm g d a i => some (BitVec.ofNat 32 (0x41000000 + g.toNat * 1048576 + d.toNat * 16384 + a.toNat * 256 + i.toNat))
  | .orImm g d a i => some (BitVec.ofNat 32 (0x41800000 + g.toNat * 1048576 + d.toNat * 16384 + a.toNat * 256 + i.toNat))
  | .xorImm g d a i => some (BitVec.ofNat 32 (0x42000000 + g.toNat * 1048576 + d.toNat * 16384 + a.toNat * 256 + i.toNat))
  | .shlImm g d a i => some (BitVec.ofNat 32 (0x42800000 + g.toNat * 1048576 + d.toNat * 16384 + a.toNat * 256 + i.toNat))
  | .shrImm g d a i => some (BitVec.ofNat 32 (0x43000000 + g.toNat * 1048576 + d.toNat * 16384 + a.toNat * 256 + i.toNat))
  | .sarImm g d a i => some (BitVec.ofNat 32 (0x43800000 + g.toNat * 1048576 + d.toNat * 16384 + a.toNat * 256 + i.toNat))
  | .icmpEqImm g k a i => some (BitVec.ofNat 32 (0x44000000 + g.toNat * 1048576 + k.toNat * 16384 + a.toNat * 256 + i.toNat))
  | .icmpNeImm g k a i => some (BitVec.ofNat 32 (0x44800000 + g.toNat * 1048576 + k.toNat * 16384 + a.toNat * 256 + i.toNat))
  | .icmpLtSImm g k a i => some (BitVec.ofNat 32 (0x45000000 + g.toNat * 1048576 + k.toNat * 16384 + a.toNat * 256 + i.toNat))
  | .icmpGtSImm g k a i => some (BitVec.ofNat 32 (0x45800000 + g.toNat * 1048576 + k.toNat * 16384 + a.toNat * 256 + i.toNat))
  | .icmpLtZImm g k a i => some (BitVec.ofNat 32 (0x46000000 + g.toNat * 1048576 + k.toNat * 16384 + a.toNat * 256 + i.toNat))
  | .icmpGtZImm g k a i => some (BitVec.ofNat 32 (0x46800000 + g.toNat * 1048576 + k.toNat * 16384 + a.toNat * 256 + i.toNat))
  | .bfxZ g d a n p => some (BitVec.ofNat 32 (0x48000000 + g.toNat * 1048576 + d.toNat * 16384 + a.toNat * 256 + n.toNat * 32 + p.toNat))
  | .bfxS g d a n p => some (BitVec.ofNat 32 (0x48800000 + g.toNat * 1048576 + d.toNat * 16384 + a.toNat * 256 + n.toNat * 32 + p.toNat))
  | .bfi g d a n p => some (BitVec.ofNat 32 (0x49000000 + g.toNat * 1048576 + d.toNat * 16384 + a.toNat * 256 + n.toNat * 32 + p.toNat))
  | .lseq g d a i => some (BitVec.ofNat 32 (0x49800000 + g.toNat * 1048576 + d.toNat * 16384 + a.toNat * 256 + i.toNat))
  | .ldi g d i => some (BitVec.ofNat 32 (0x50000000 + g.toNat * 4194304 + d.toNat * 65536 + i.toNat))
  | .ldih g d i => some (BitVec.ofNat 32 (0x52000000 + g.toNat * 4194304 + d.toNat * 65536 + i.toNat))
  | .addih g d i => some (BitVec.ofNat 32 (0x54000000 + g.toNat * 4194304 + d.toNat * 65536 + i.toNat))
  | .ldZb l d a b => some (BitVec.ofNat 32 (0x58000000 + l.toNat * 262144 + d.toNat * 4096 + a.toNat * 64 + b.toNat))
  | .ldSb l d a b => some (BitVec.ofNat 32 (0x58400000 + l.toNat * 262144 + d.toNat * 4096 + a.toNat * 64 + b.toNat))
  | .ldZh l d a b => some (BitVec.ofNat 32 (0x58800000 + l.toNat * 262144 + d.toNat * 4096 + a.toNat * 64 + b.toNat))
  | .ldSh l d a b => some (BitVec.ofNat 32 (0x58C00000 + l.toNat * 262144 + d.toNat * 4096 + a.toNat * 64 + b.toNat))
  | .ldW l d a b => some (BitVec.ofNat 32 (0x59000000 + l.toNat * 262144 + d.toNat * 4096 + a.toNat * 64 + b.toNat))
  | .ldD l d a b => some (BitVec.ofNat 32 (0x59400000 + l.toNat * 262144 + d.toNat * 4096 + a.toNat * 64 + b.toNat))
  | .ldQ l d a b => some (BitVec.ofNat 32 (0x59800000 + l.toNat * 262144 + d.toNat * 4096 + a.toNat * 64 + b.toNat))
  | .ldWAcqDev l d a b => some (BitVec.ofNat 32 (0x5A000000 + l.toNat * 262144 + d.toNat * 4096 + a.toNat * 64 + b.toNat))
  | .ldDAcqDev l d a b => some (BitVec.ofNat 32 (0x5A400000 + l.toNat * 262144 + d.toNat * 4096 + a.toNat * 64 + b.toNat))
  | .ldWAcqSys l d a b => some (BitVec.ofNat 32 (0x5A800000 + l.toNat * 262144 + d.toNat * 4096 + a.toNat * 64 + b.toNat))
  | .ldDAcqSys l d a b => some (BitVec.ofNat 32 (0x5AC00000 + l.toNat * 262144 + d.toNat * 4096 + a.toNat * 64 + b.toNat))
  | .stB s a b => some (BitVec.ofNat 32 (0x60000000 + s.toNat * 4096 + a.toNat * 64 + b.toNat))
  | .stH s a b => some (BitVec.ofNat 32 (0x60400000 + s.toNat * 4096 + a.toNat * 64 + b.toNat))
  | .stW s a b => some (BitVec.ofNat 32 (0x60800000 + s.toNat * 4096 + a.toNat * 64 + b.toNat))
  | .stD s a b => some (BitVec.ofNat 32 (0x60C00000 + s.toNat * 4096 + a.toNat * 64 + b.toNat))
  | .stQ s a b => some (BitVec.ofNat 32 (0x61000000 + s.toNat * 4096 + a.toNat * 64 + b.toNat))
  | .stWRelDev s a b => some (BitVec.ofNat 32 (0x62000000 + s.toNat * 4096 + a.toNat * 64 + b.toNat))
  | .stDRelDev s a b => some (BitVec.ofNat 32 (0x62400000 + s.toNat * 4096 + a.toNat * 64 + b.toNat))
  | .stWRelSys s a b => some (BitVec.ofNat 32 (0x62800000 + s.toNat * 4096 + a.toNat * 64 + b.toNat))
  | .stDRelSys s a b => some (BitVec.ofNat 32 (0x62C00000 + s.toNat * 4096 + a.toNat * 64 + b.toNat))
  | .ldsZb d a x b => some (BitVec.ofNat 32 (0x64000000 + d.toNat * 4096 + a.toNat * 64 + x.toNat * 8 + b.toNat))
  | .ldsSb d a x b => some (BitVec.ofNat 32 (0x64400000 + d.toNat * 4096 + a.toNat * 64 + x.toNat * 8 + b.toNat))
  | .ldsZh d a x b => some (BitVec.ofNat 32 (0x64800000 + d.toNat * 4096 + a.toNat * 64 + x.toNat * 8 + b.toNat))
  | .ldsSh d a x b => some (BitVec.ofNat 32 (0x64C00000 + d.toNat * 4096 + a.toNat * 64 + x.toNat * 8 + b.toNat))
  | .ldsW d a x b => some (BitVec.ofNat 32 (0x65000000 + d.toNat * 4096 + a.toNat * 64 + x.toNat * 8 + b.toNat))
  | .ldsD d a x b => some (BitVec.ofNat 32 (0x65400000 + d.toNat * 4096 + a.toNat * 64 + x.toNat * 8 + b.toNat))
  | .ldsQ d a x b => some (BitVec.ofNat 32 (0x65800000 + d.toNat * 4096 + a.toNat * 64 + x.toNat * 8 + b.toNat))
  | .stsB s a x b => some (BitVec.ofNat 32 (0x66000000 + s.toNat * 4096 + a.toNat * 64 + x.toNat * 8 + b.toNat))
  | .stsH s a x b => some (BitVec.ofNat 32 (0x66400000 + s.toNat * 4096 + a.toNat * 64 + x.toNat * 8 + b.toNat))
  | .stsW s a x b => some (BitVec.ofNat 32 (0x66800000 + s.toNat * 4096 + a.toNat * 64 + x.toNat * 8 + b.toNat))
  | .stsD s a x b => some (BitVec.ofNat 32 (0x66C00000 + s.toNat * 4096 + a.toNat * 64 + x.toNat * 8 + b.toNat))
  | .stsQ s a x b => some (BitVec.ofNat 32 (0x67000000 + s.toNat * 4096 + a.toNat * 64 + x.toNat * 8 + b.toNat))
  | .atsAdd d a x b => some (BitVec.ofNat 32 (0x67400000 + d.toNat * 4096 + a.toNat * 64 + x.toNat * 8 + b.toNat))
  | .atsXchg d a x b => some (BitVec.ofNat 32 (0x67800000 + d.toNat * 4096 + a.toNat * 64 + x.toNat * 8 + b.toNat))
  | .atsCas d a x b => some (BitVec.ofNat 32 (0x67C00000 + d.toNat * 4096 + a.toNat * 64 + x.toNat * 8 + b.toNat))
  | .atomAdd r l d a s b => some (BitVec.ofNat 32 (0x68000000 + r.toNat * 67108864 + l.toNat * 262144 + d.toNat * 4096 + a.toNat * 128 + s.toNat * 64 + b.toNat))
  | .atomAnd r l d a s b => some (BitVec.ofNat 32 (0x68400000 + r.toNat * 67108864 + l.toNat * 262144 + d.toNat * 4096 + a.toNat * 128 + s.toNat * 64 + b.toNat))
  | .atomOr r l d a s b => some (BitVec.ofNat 32 (0x68800000 + r.toNat * 67108864 + l.toNat * 262144 + d.toNat * 4096 + a.toNat * 128 + s.toNat * 64 + b.toNat))
  | .atomXor r l d a s b => some (BitVec.ofNat 32 (0x68C00000 + r.toNat * 67108864 + l.toNat * 262144 + d.toNat * 4096 + a.toNat * 128 + s.toNat * 64 + b.toNat))
  | .atomXchg r l d a s b => some (BitVec.ofNat 32 (0x69000000 + r.toNat * 67108864 + l.toNat * 262144 + d.toNat * 4096 + a.toNat * 128 + s.toNat * 64 + b.toNat))
  | .atomCas r l d a s b => some (BitVec.ofNat 32 (0x69400000 + r.toNat * 67108864 + l.toNat * 262144 + d.toNat * 4096 + a.toNat * 128 + s.toNat * 64 + b.toNat))
  | .atomMinS r l d a s b => some (BitVec.ofNat 32 (0x69800000 + r.toNat * 67108864 + l.toNat * 262144 + d.toNat * 4096 + a.toNat * 128 + s.toNat * 64 + b.toNat))
  | .atomMaxS r l d a s b => some (BitVec.ofNat 32 (0x69C00000 + r.toNat * 67108864 + l.toNat * 262144 + d.toNat * 4096 + a.toNat * 128 + s.toNat * 64 + b.toNat))
  | .atomMinZ r l d a s b => some (BitVec.ofNat 32 (0x6A000000 + r.toNat * 67108864 + l.toNat * 262144 + d.toNat * 4096 + a.toNat * 128 + s.toNat * 64 + b.toNat))
  | .atomMaxZ r l d a s b => some (BitVec.ofNat 32 (0x6A400000 + r.toNat * 67108864 + l.toNat * 262144 + d.toNat * 4096 + a.toNat * 128 + s.toNat * 64 + b.toNat))
  | .atomFadd r l d a s b => some (BitVec.ofNat 32 (0x6A800000 + r.toNat * 67108864 + l.toNat * 262144 + d.toNat * 4096 + a.toNat * 128 + s.toNat * 64 + b.toNat))
  | .atomAddD r l d a s b => some (BitVec.ofNat 32 (0x6AC00000 + r.toNat * 67108864 + l.toNat * 262144 + d.toNat * 4096 + a.toNat * 128 + s.toNat * 64 + b.toNat))
  | .atomXchgD r l d a s b => some (BitVec.ofNat 32 (0x6B000000 + r.toNat * 67108864 + l.toNat * 262144 + d.toNat * 4096 + a.toNat * 128 + s.toNat * 64 + b.toNat))
  | .atomCasD r l d a s b => some (BitVec.ofNat 32 (0x6B400000 + r.toNat * 67108864 + l.toNat * 262144 + d.toNat * 4096 + a.toNat * 128 + s.toNat * 64 + b.toNat))
  | .atomMinZD r l d a s b => some (BitVec.ofNat 32 (0x6B800000 + r.toNat * 67108864 + l.toNat * 262144 + d.toNat * 4096 + a.toNat * 128 + s.toNat * 64 + b.toNat))
  | .atomMaxZD r l d a s b => some (BitVec.ofNat 32 (0x6BC00000 + r.toNat * 67108864 + l.toNat * 262144 + d.toNat * 4096 + a.toNat * 128 + s.toNat * 64 + b.toNat))
  | .xlnBack d a c => some (BitVec.ofNat 32 (0x70000000 + d.toNat * 2048 + a.toNat * 32 + c.toNat))
  | .xlnAhead d a c => some (BitVec.ofNat 32 (0x70200000 + d.toNat * 2048 + a.toNat * 32 + c.toNat))
  | .xlnRot d a c => some (BitVec.ofNat 32 (0x70400000 + d.toNat * 2048 + a.toNat * 32 + c.toNat))
  | .xlnFlip d a c => some (BitVec.ofNat 32 (0x70600000 + d.toNat * 2048 + a.toNat * 32 + c.toNat))
  | .xlnPick d a c => some (BitVec.ofNat 32 (0x70800000 + d.toNat * 2048 + a.toNat * 32 + c.toNat))
  | .xlnVar d a => some (BitVec.ofNat 32 (0x70A00000 + d.toNat * 2048 + a.toNat * 32))
  | .redsIadd d a => some (BitVec.ofNat 32 (0x71000000 + d.toNat * 2048 + a.toNat * 32))
  | .redsIminS d a => some (BitVec.ofNat 32 (0x71200000 + d.toNat * 2048 + a.toNat * 32))
  | .redsImaxS d a => some (BitVec.ofNat 32 (0x71400000 + d.toNat * 2048 + a.toNat * 32))
  | .redsIminZ d a => some (BitVec.ofNat 32 (0x71600000 + d.toNat * 2048 + a.toNat * 32))
  | .redsImaxZ d a => some (BitVec.ofNat 32 (0x71800000 + d.toNat * 2048 + a.toNat * 32))
  | .redsAnd d a => some (BitVec.ofNat 32 (0x71A00000 + d.toNat * 2048 + a.toNat * 32))
  | .redsOr d a => some (BitVec.ofNat 32 (0x71C00000 + d.toNat * 2048 + a.toNat * 32))
  | .redsXor d a => some (BitVec.ofNat 32 (0x71E00000 + d.toNat * 2048 + a.toNat * 32))
  | .redsFadd d a => some (BitVec.ofNat 32 (0x72000000 + d.toNat * 2048 + a.toNat * 32))
  | .redsFmin d a => some (BitVec.ofNat 32 (0x72200000 + d.toNat * 2048 + a.toNat * 32))
  | .redsFmax d a => some (BitVec.ofNat 32 (0x72400000 + d.toNat * 2048 + a.toNat * 32))
  | .redsDadd d a => some (BitVec.ofNat 32 (0x72600000 + d.toNat * 2048 + a.toNat * 32))
  | .scanIadd d a e => some (BitVec.ofNat 32 (0x74000000 + d.toNat * 2048 + a.toNat * 32 + e.toNat))
  | .scanIminS d a e => some (BitVec.ofNat 32 (0x74200000 + d.toNat * 2048 + a.toNat * 32 + e.toNat))
  | .scanImaxS d a e => some (BitVec.ofNat 32 (0x74400000 + d.toNat * 2048 + a.toNat * 32 + e.toNat))
  | .scanIminZ d a e => some (BitVec.ofNat 32 (0x74600000 + d.toNat * 2048 + a.toNat * 32 + e.toNat))
  | .scanImaxZ d a e => some (BitVec.ofNat 32 (0x74800000 + d.toNat * 2048 + a.toNat * 32 + e.toNat))
  | .scanAnd d a e => some (BitVec.ofNat 32 (0x74A00000 + d.toNat * 2048 + a.toNat * 32 + e.toNat))
  | .scanOr d a e => some (BitVec.ofNat 32 (0x74C00000 + d.toNat * 2048 + a.toNat * 32 + e.toNat))
  | .scanXor d a e => some (BitVec.ofNat 32 (0x74E00000 + d.toNat * 2048 + a.toNat * 32 + e.toNat))
  | .scanFadd d a e => some (BitVec.ofNat 32 (0x75000000 + d.toNat * 2048 + a.toNat * 32 + e.toNat))
  | .scanFmin d a e => some (BitVec.ofNat 32 (0x75200000 + d.toNat * 2048 + a.toNat * 32 + e.toNat))
  | .scanFmax d a e => some (BitVec.ofNat 32 (0x75400000 + d.toNat * 2048 + a.toNat * 32 + e.toNat))
  | .scanDadd d a e => some (BitVec.ofNat 32 (0x75600000 + d.toNat * 2048 + a.toNat * 32 + e.toNat))
  | .mbq a => some (BitVec.ofNat 32 (0x76000000 + a.toNat * 32))
  | .mdrain l d a s => some (BitVec.ofNat 32 (0x76200000 + l.toNat * 131072 + d.toNat * 2048 + a.toNat * 32 + s.toNat))
  | .mdrainRaw l d a s => some (BitVec.ofNat 32 (0x76200008 + l.toNat * 131072 + d.toNat * 2048 + a.toNat * 32 + s.toNat))
  | .mfill s a => some (BitVec.ofNat 32 (0x76400000 + s.toNat * 2048 + a.toNat * 32))
  | .gadd w d a b => some (BitVec.ofNat 32 (0x80000000 + w.toNat * 262144 + d.toNat * 4096 + a.toNat * 64 + b.toNat))
  | .gsub w d a b => some (BitVec.ofNat 32 (0x80200000 + w.toNat * 262144 + d.toNat * 4096 + a.toNat * 64 + b.toNat))
  | .gmul w d a b => some (BitVec.ofNat 32 (0x80400000 + w.toNat * 262144 + d.toNat * 4096 + a.toNat * 64 + b.toNat))
  | .gmulhS w d a b => some (BitVec.ofNat 32 (0x80600000 + w.toNat * 262144 + d.toNat * 4096 + a.toNat * 64 + b.toNat))
  | .gmulhZ w d a b => some (BitVec.ofNat 32 (0x80800000 + w.toNat * 262144 + d.toNat * 4096 + a.toNat * 64 + b.toNat))
  | .gminS w d a b => some (BitVec.ofNat 32 (0x80A00000 + w.toNat * 262144 + d.toNat * 4096 + a.toNat * 64 + b.toNat))
  | .gmaxS w d a b => some (BitVec.ofNat 32 (0x80C00000 + w.toNat * 262144 + d.toNat * 4096 + a.toNat * 64 + b.toNat))
  | .gminZ w d a b => some (BitVec.ofNat 32 (0x80E00000 + w.toNat * 262144 + d.toNat * 4096 + a.toNat * 64 + b.toNat))
  | .gmaxZ w d a b => some (BitVec.ofNat 32 (0x81000000 + w.toNat * 262144 + d.toNat * 4096 + a.toNat * 64 + b.toNat))
  | .gneg w d a => some (BitVec.ofNat 32 (0x81200000 + w.toNat * 262144 + d.toNat * 4096 + a.toNat * 64))
  | .gand w d a b => some (BitVec.ofNat 32 (0x88000000 + w.toNat * 262144 + d.toNat * 4096 + a.toNat * 64 + b.toNat))
  | .gor w d a b => some (BitVec.ofNat 32 (0x88200000 + w.toNat * 262144 + d.toNat * 4096 + a.toNat * 64 + b.toNat))
  | .gxor w d a b => some (BitVec.ofNat 32 (0x88400000 + w.toNat * 262144 + d.toNat * 4096 + a.toNat * 64 + b.toNat))
  | .gandn w d a b => some (BitVec.ofNat 32 (0x88600000 + w.toNat * 262144 + d.toNat * 4096 + a.toNat * 64 + b.toNat))
  | .gnot w d a => some (BitVec.ofNat 32 (0x88800000 + w.toNat * 262144 + d.toNat * 4096 + a.toNat * 64))
  | .gshl w d a b => some (BitVec.ofNat 32 (0x88A00000 + w.toNat * 262144 + d.toNat * 4096 + a.toNat * 64 + b.toNat))
  | .gshr w d a b => some (BitVec.ofNat 32 (0x88C00000 + w.toNat * 262144 + d.toNat * 4096 + a.toNat * 64 + b.toNat))
  | .gsar w d a b => some (BitVec.ofNat 32 (0x88E00000 + w.toNat * 262144 + d.toNat * 4096 + a.toNat * 64 + b.toNat))
  | .gpopc w d a => some (BitVec.ofNat 32 (0x89000000 + w.toNat * 262144 + d.toNat * 4096 + a.toNat * 64))
  | .gclz w d a => some (BitVec.ofNat 32 (0x89200000 + w.toNat * 262144 + d.toNat * 4096 + a.toNat * 64))
  | .gbrev w d a => some (BitVec.ofNat 32 (0x89400000 + w.toNat * 262144 + d.toNat * 4096 + a.toNat * 64))
  | .gcmpEq w k a b => some (BitVec.ofNat 32 (0x90000000 + w.toNat * 262144 + k.toNat * 4096 + a.toNat * 64 + b.toNat))
  | .gcmpNe w k a b => some (BitVec.ofNat 32 (0x90200000 + w.toNat * 262144 + k.toNat * 4096 + a.toNat * 64 + b.toNat))
  | .gcmpLtS w k a b => some (BitVec.ofNat 32 (0x90400000 + w.toNat * 262144 + k.toNat * 4096 + a.toNat * 64 + b.toNat))
  | .gcmpLeS w k a b => some (BitVec.ofNat 32 (0x90600000 + w.toNat * 262144 + k.toNat * 4096 + a.toNat * 64 + b.toNat))
  | .gcmpLtZ w k a b => some (BitVec.ofNat 32 (0x90800000 + w.toNat * 262144 + k.toNat * 4096 + a.toNat * 64 + b.toNat))
  | .gcmpLeZ w k a b => some (BitVec.ofNat 32 (0x90A00000 + w.toNat * 262144 + k.toNat * 4096 + a.toNat * 64 + b.toNat))
  | .gselNz d a b => some (BitVec.ofNat 32 (0x91000000 + d.toNat * 4096 + a.toNat * 64 + b.toNat))
  | .movG d a => some (BitVec.ofNat 32 (0x92000000 + d.toNat * 4096 + a.toNat * 64))
  | .v2g w d a b => some (BitVec.ofNat 32 (0x92200000 + w.toNat * 262144 + d.toNat * 4096 + a.toNat * 64 + b.toNat))
  | .g2v w d a => some (BitVec.ofNat 32 (0x92400000 + w.toNat * 262144 + d.toNat * 4096 + a.toNat * 64))
  | .s2g d n => some (BitVec.ofNat 32 (0x92600000 + d.toNat * 4096 + n.toNat))
  | .s2gc d n => some (BitVec.ofNat 32 (0x92800000 + d.toNat * 4096 + n.toNat))
  | .gaddImm d a i => some (BitVec.ofNat 32 (0x98000000 + d.toNat * 131072 + a.toNat * 2048 + i.toNat))
  | .gmulImm d a i => some (BitVec.ofNat 32 (0x98800000 + d.toNat * 131072 + a.toNat * 2048 + i.toNat))
  | .gandImm d a i => some (BitVec.ofNat 32 (0x99000000 + d.toNat * 131072 + a.toNat * 2048 + i.toNat))
  | .gorImm d a i => some (BitVec.ofNat 32 (0x99800000 + d.toNat * 131072 + a.toNat * 2048 + i.toNat))
  | .gxorImm d a i => some (BitVec.ofNat 32 (0x9A000000 + d.toNat * 131072 + a.toNat * 2048 + i.toNat))
  | .gshlImm d a i => some (BitVec.ofNat 32 (0x9A800000 + d.toNat * 131072 + a.toNat * 2048 + i.toNat))
  | .gshrImm d a i => some (BitVec.ofNat 32 (0x9B000000 + d.toNat * 131072 + a.toNat * 2048 + i.toNat))
  | .gsarImm d a i => some (BitVec.ofNat 32 (0x9B800000 + d.toNat * 131072 + a.toNat * 2048 + i.toNat))
  | .gcmpEqImm k a i => some (BitVec.ofNat 32 (0x9C000000 + k.toNat * 131072 + a.toNat * 2048 + i.toNat))
  | .gcmpLtSImm k a i => some (BitVec.ofNat 32 (0x9C800000 + k.toNat * 131072 + a.toNat * 2048 + i.toNat))
  | .gcmpLtZImm k a i => some (BitVec.ofNat 32 (0x9D000000 + k.toNat * 131072 + a.toNat * 2048 + i.toNat))
  | .gldq q d i => some (BitVec.ofNat 32 (0xA0000000 + q.toNat * 8388608 + d.toNat * 65536 + i.toNat))
  | .ginsq q d i => some (BitVec.ofNat 32 (0xA2000000 + q.toNat * 8388608 + d.toNat * 65536 + i.toNat))
  | .gaddq q d i => some (BitVec.ofNat 32 (0xA4000000 + q.toNat * 8388608 + d.toNat * 65536 + i.toNat))
  | .bra o => some (BitVec.ofNat 32 (0xA8000000 + o.toNat))
  | .braAny k o => some (BitVec.ofNat 32 (0xA9000000 + k.toNat * 2097152 + o.toNat))
  | .braNone k o => some (BitVec.ofNat 32 (0xAA000000 + k.toNat * 2097152 + o.toNat))
  | .braD k j o => some (BitVec.ofNat 32 (0xAB000000 + k.toNat * 2097152 + j.toNat * 262144 + o.toNat))
  | .call o => some (BitVec.ofNat 32 (0xAC000000 + o.toNat))
  | .join j => some (BitVec.ofNat 32 (0xAD000000 + j.toNat * 262144))
  | .mand k a b => some (BitVec.ofNat 32 (0xB0000000 + k.toNat * 4096 + a.toNat * 64 + b.toNat))
  | .mor k a b => some (BitVec.ofNat 32 (0xB0200000 + k.toNat * 4096 + a.toNat * 64 + b.toNat))
  | .mxor k a b => some (BitVec.ofNat 32 (0xB0400000 + k.toNat * 4096 + a.toNat * 64 + b.toNat))
  | .mandn k a b => some (BitVec.ofNat 32 (0xB0600000 + k.toNat * 4096 + a.toNat * 64 + b.toNat))
  | .mnot k a => some (BitVec.ofNat 32 (0xB0800000 + k.toNat * 4096 + a.toNat * 64))
  | .m2g d k => some (BitVec.ofNat 32 (0xB0A00000 + d.toNat * 4096 + k.toNat * 64))
  | .g2m k a => some (BitVec.ofNat 32 (0xB0C00000 + k.toNat * 4096 + a.toNat * 64))
  | .mpopc d k => some (BitVec.ofNat 32 (0xB0E00000 + d.toNat * 4096 + k.toNat * 64))
  | .j2m k j => some (BitVec.ofNat 32 (0xB1000000 + k.toNat * 4096 + j.toNat * 64))
  | .m2j j k => some (BitVec.ofNat 32 (0xB1200000 + j.toNat * 4096 + k.toNat * 64))
  | .matchWord d a => some (BitVec.ofNat 32 (0xB2000000 + d.toNat * 4096 + a.toNat * 64))
  | .matchPair d a => some (BitVec.ofNat 32 (0xB2200000 + d.toNat * 4096 + a.toNat * 64))
  | .vote k a => some (BitVec.ofNat 32 (0xB2400000 + k.toNat * 4096 + a.toNat * 64))
  | .elect k => some (BitVec.ofNat 32 (0xB2600000 + k.toNat * 4096))
  | .ret a => some (BitVec.ofNat 32 (0xB3000000 + a.toNat * 64))
  | .brx a => some (BitVec.ofNat 32 (0xB3200000 + a.toNat * 64))
  | .exit => some (BitVec.ofNat 32 (0xB3400000))
  | .barInit a b s => some (BitVec.ofNat 32 (0xB8000002 + a.toNat * 1024 + b.toNat * 16 + s.toNat))
  | .barArv a => some (BitVec.ofNat 32 (0xB8100000 + a.toNat * 1024))
  | .barArvb a b => some (BitVec.ofNat 32 (0xB8200000 + a.toNat * 1024 + b.toNat * 16))
  | .barExp a b => some (BitVec.ofNat 32 (0xB8300000 + a.toNat * 1024 + b.toNat * 16))
  | .barWait a b => some (BitVec.ofNat 32 (0xB8400000 + a.toNat * 1024 + b.toNat * 16))
  | .barTest a b => some (BitVec.ofNat 32 (0xB8500000 + a.toNat * 1024 + b.toNat * 16))
  | .barInval a => some (BitVec.ofNat 32 (0xB8600000 + a.toNat * 1024))
  | .waita a b z c => some (BitVec.ofNat 32 (0xB8800000 + a.toNat * 1024 + b.toNat * 16 + z.toNat * 8 + c.toNat))
  | .wakea a => some (BitVec.ofNat 32 (0xB8900000 + a.toNat * 1024))
  | .cpyLd a b o => some (BitVec.ofNat 32 (0xC0000000 + a.toNat * 1024 + b.toNat * 16 + o.toNat))
  | .cpySt a b o => some (BitVec.ofNat 32 (0xC0100000 + a.toNat * 1024 + b.toNat * 16 + o.toNat))
  | .cpySc a b o => some (BitVec.ofNat 32 (0xC0200000 + a.toNat * 1024 + b.toNat * 16 + o.toNat))
  | .cpyPf a b o => some (BitVec.ofNat 32 (0xC0300000 + a.toNat * 1024 + b.toNat * 16 + o.toNat))
  | .cpySeal => some (BitVec.ofNat 32 (0xC0800000))
  | .cpyWaitn n => some (BitVec.ofNat 32 (0xC0900000 + n.toNat))
  | .mres k => some (BitVec.ofNat 32 (0xC8000000 + k.toNat))
  | .mrel => some (BitVec.ofNat 32 (0xC8100000))
  | .mzero a => some (BitVec.ofNat 32 (0xC8200000 + a.toNat * 1024))
  | .mfence => some (BitVec.ofNat 32 (0xC8300000))
  | .mwait n => some (BitVec.ofNat 32 (0xC8400000 + n.toNat))
  | .mma x y a b o => some (BitVec.ofNat 32 (0xCC000000 + x.toNat * 8388608 + y.toNat * 1048576 + a.toNat * 1024 + b.toNat * 16 + o.toNat))
  | .gldZb l a b o => some (BitVec.ofNat 32 (0xD0000000 + l.toNat * 65536 + a.toNat * 1024 + b.toNat * 16 + o.toNat))
  | .gldSb l a b o => some (BitVec.ofNat 32 (0xD0100000 + l.toNat * 65536 + a.toNat * 1024 + b.toNat * 16 + o.toNat))
  | .gldZh l a b o => some (BitVec.ofNat 32 (0xD0200000 + l.toNat * 65536 + a.toNat * 1024 + b.toNat * 16 + o.toNat))
  | .gldSh l a b o => some (BitVec.ofNat 32 (0xD0300000 + l.toNat * 65536 + a.toNat * 1024 + b.toNat * 16 + o.toNat))
  | .gldW l a b o => some (BitVec.ofNat 32 (0xD0400000 + l.toNat * 65536 + a.toNat * 1024 + b.toNat * 16 + o.toNat))
  | .gldD l a b o => some (BitVec.ofNat 32 (0xD0500000 + l.toNat * 65536 + a.toNat * 1024 + b.toNat * 16 + o.toNat))
  | .gstB a b o => some (BitVec.ofNat 32 (0xD0800000 + a.toNat * 1024 + b.toNat * 16 + o.toNat))
  | .gstH a b o => some (BitVec.ofNat 32 (0xD0900000 + a.toNat * 1024 + b.toNat * 16 + o.toNat))
  | .gstW a b o => some (BitVec.ofNat 32 (0xD0A00000 + a.toNat * 1024 + b.toNat * 16 + o.toNat))
  | .gstD a b o => some (BitVec.ofNat 32 (0xD0B00000 + a.toNat * 1024 + b.toNat * 16 + o.toNat))
  | .gatomAdd l a b o => some (BitVec.ofNat 32 (0xD1000000 + l.toNat * 65536 + a.toNat * 1024 + b.toNat * 16 + o.toNat))
  | .gatomAnd l a b o => some (BitVec.ofNat 32 (0xD1100000 + l.toNat * 65536 + a.toNat * 1024 + b.toNat * 16 + o.toNat))
  | .gatomOr l a b o => some (BitVec.ofNat 32 (0xD1200000 + l.toNat * 65536 + a.toNat * 1024 + b.toNat * 16 + o.toNat))
  | .gatomXor l a b o => some (BitVec.ofNat 32 (0xD1300000 + l.toNat * 65536 + a.toNat * 1024 + b.toNat * 16 + o.toNat))
  | .gatomXchg l a b o => some (BitVec.ofNat 32 (0xD1400000 + l.toNat * 65536 + a.toNat * 1024 + b.toNat * 16 + o.toNat))
  | .gatomCas l a b o => some (BitVec.ofNat 32 (0xD1500000 + l.toNat * 65536 + a.toNat * 1024 + b.toNat * 16 + o.toNat))
  | .gatomMinS l a b o => some (BitVec.ofNat 32 (0xD1600000 + l.toNat * 65536 + a.toNat * 1024 + b.toNat * 16 + o.toNat))
  | .gatomMaxS l a b o => some (BitVec.ofNat 32 (0xD1700000 + l.toNat * 65536 + a.toNat * 1024 + b.toNat * 16 + o.toNat))
  | .gatomMinZ l a b o => some (BitVec.ofNat 32 (0xD1800000 + l.toNat * 65536 + a.toNat * 1024 + b.toNat * 16 + o.toNat))
  | .gatomMaxZ l a b o => some (BitVec.ofNat 32 (0xD1900000 + l.toNat * 65536 + a.toNat * 1024 + b.toNat * 16 + o.toNat))
  | .gatomFadd l a b o => some (BitVec.ofNat 32 (0xD1A00000 + l.toNat * 65536 + a.toNat * 1024 + b.toNat * 16 + o.toNat))
  | .gatomAddD l a b o => some (BitVec.ofNat 32 (0xD1B00000 + l.toNat * 65536 + a.toNat * 1024 + b.toNat * 16 + o.toNat))
  | .gatomXchgD l a b o => some (BitVec.ofNat 32 (0xD1C00000 + l.toNat * 65536 + a.toNat * 1024 + b.toNat * 16 + o.toNat))
  | .gatomCasD l a b o => some (BitVec.ofNat 32 (0xD1D00000 + l.toNat * 65536 + a.toNat * 1024 + b.toNat * 16 + o.toNat))
  | .gatomMinZD l a b o => some (BitVec.ofNat 32 (0xD1E00000 + l.toNat * 65536 + a.toNat * 1024 + b.toNat * 16 + o.toNat))
  | .gatomMaxZD l a b o => some (BitVec.ofNat 32 (0xD1F00000 + l.toNat * 65536 + a.toNat * 1024 + b.toNat * 16 + o.toNat))
  | .qpost a b => some (BitVec.ofNat 32 (0xD8000000 + a.toNat * 1024 + b.toNat * 16))
  | .qsig a b => some (BitVec.ofNat 32 (0xD8100000 + a.toNat * 1024 + b.toNat * 16))
  | .qstat a b => some (BitVec.ofNat 32 (0xD8200000 + a.toNat * 1024 + b.toNat * 16))
  | .kabort a => some (BitVec.ofNat 32 (0xD8300000 + a.toNat * 1024))
  | .region a n => some (BitVec.ofNat 32 (0xD9000000 + a.toNat * 1024 + n.toNat))
  | .regx => some (BitVec.ofNat 32 (0xD9100000))
  | .rdenter => some (BitVec.ofNat 32 (0xD9800000))
  | .rdexit => some (BitVec.ofNat 32 (0xD9900000))
  | .qpoint => some (BitVec.ofNat 32 (0xD9A00000))
  | .gpstart b => some (BitVec.ofNat 32 (0xD9B00000 + b.toNat * 16))
  | .gpwait a => some (BitVec.ofNat 32 (0xD9C00000 + a.toNat * 1024))
  | .gppoll a b => some (BitVec.ofNat 32 (0xD9D00000 + a.toNat * 1024 + b.toNat * 16))
  | .gpfree a b => some (BitVec.ofNat 32 (0xD9E00000 + a.toNat * 1024 + b.toNat * 16))
  | .publ a => some (BitVec.ofNat 32 (0xE0000000 + a.toNat * 1024))
  | .pdef a => some (BitVec.ofNat 32 (0xE0100000 + a.toNat * 1024))
  | .presize a b => some (BitVec.ofNat 32 (0xE0200000 + a.toNat * 1024 + b.toNat * 16))
  | .tlbiPage a => some (BitVec.ofNat 32 (0xE0300000 + a.toNat * 1024))
  | .tlbiAsid a => some (BitVec.ofNat 32 (0xE0300001 + a.toNat * 1024))
  | .tlbiAll => some (BitVec.ofNat 32 (0xE0300002))
  | .tlbi2m a => some (BitVec.ofNat 32 (0xE0300003 + a.toNat * 1024))
  | .tlbi1g a => some (BitVec.ofNat 32 (0xE0300004 + a.toNat * 1024))
  | .pmig a b => some (BitVec.ofNat 32 (0xE0400000 + a.toNat * 1024 + b.toNat * 16))
  | .pclass a b => some (BitVec.ofNat 32 (0xE0500000 + a.toNat * 1024 + b.toNat * 16))
  | .pstat a b => some (BitVec.ofNat 32 (0xE0600000 + a.toNat * 1024 + b.toNat * 16))
  | .coll a b => some (BitVec.ofNat 32 (0xE1000000 + a.toNat * 1024 + b.toNat * 16))
  | .pubv a => some (BitVec.ofNat 32 (0xE1100000 + a.toNat * 1024))
  | .psub a b => some (BitVec.ofNat 32 (0xE1200000 + a.toNat * 1024 + b.toNat * 16))
  | .lstat a b => some (BitVec.ofNat 32 (0xE1300000 + a.toNat * 1024 + b.toNat * 16))
  | .nop => some (BitVec.ofNat 32 (0xE8000000))
  | .trap c => some (BitVec.ofNat 32 (0xE8100000 + c.toNat))
  | .eret => some (BitVec.ofNat 32 (0xE8200000))
  | .trapret => some (BitVec.ofNat 32 (0xE8300000))
  | .sysr n b u => some (BitVec.ofNat 32 (0xE8400000 + n.toNat * 1024 + b.toNat * 16 + u.toNat))
  | .sysw n b u => some (BitVec.ofNat 32 (0xE8500000 + n.toNat * 1024 + b.toNat * 16 + u.toNat))
  | .fence s => some (BitVec.ofNat 32 (0xE8600000 + s.toNat))
  | .time b => some (BitVec.ofNat 32 (0xE8700000 + b.toNat * 16))
  | .clock b => some (BitVec.ofNat 32 (0xE8800000 + b.toNat * 16))
  | .yield => some (BitVec.ofNat 32 (0xE8900000))
  | .noreuse => some (BitVec.ofNat 32 (0xE8A00000))
  | .illegalWordIssue => none
  | .instructionFetchFault => none
  | .trapDelivery _ _ => none
  | .splitMerge _ _ _ => none
  | .waitSwap _ _ => none
  | .sluiceReply _ _ _ => none
  | .storeQueueRetire _ => none
  | .storeAck _ _ => none
  | .watchdogExpiry _ _ => none
  | .masterCycle _ => none
  | .copyLanding _ _ _ _ => none
  | .matrixOpComplete _ => none
  | .waitaReread _ _ => none
  | .gpStart => none
  | .quiescentRecord _ => none
  | .spillMove _ => none
  | .watchedLineWrite _ _ => none
  | .dispatchArbitration => none
  | .placerOffer => none
  | .passOverTimeout _ => none
  | .teamRetire _ => none
  | .kernelDone _ => none
  | .teamSave _ => none
  | .teamSaveComplete _ => none
  | .teamRestore _ _ => none
  | .teamDiscard _ => none
  | .softErrorDetected _ _ => none
  | .pagerResolved _ _ => none
  | .pagerFailed _ _ => none
  | .pagerInstall _ _ _ _ => none
  | .migrationStart _ _ _ => none
  | .migrateLine _ _ _ => none
  | .migrationFinish _ _ => none
  | .migrationAbort _ _ => none
  | .homeAccess _ _ _ _ => none
  | .reclassifyComplete _ => none
  | .pageClassIdle _ => none
  | .dirFill _ _ _ _ => none
  | .dirWrite _ _ _ _ => none
  | .evictionNotice _ _ => none
  | .invalAck _ _ => none
  | .dirMerge _ => none
  | .generationTick _ => none
  | .stampSweep _ => none
  | .bankSleep _ => none
  | .bankWake _ => none
  | .polderDrainComplete _ => none
  | .shareFailure _ => none
  | .hostAccess _ _ _ _ => none
  | .hostSnoopResponse _ _ => none
  | .inboundPeerAccess _ _ _ _ _ => none
  | .peerReply _ _ _ => none
  | .peerTimeout _ => none
  | .publishForward _ _ => none
  | .psubAnswer _ _ => none
  | .collectiveStepComplete _ _ => none
  | .linkData _ _ _ _ => none
  | .linkAck _ _ => none
  | .linkNak _ _ => none
  | .mapSwap _ => none
  | .mapAck _ => none
  | .mapAckTimeout _ => none
  | .linkFailure _ => none
  | .combSourceFailure _ _ => none
  | .ringLock _ _ _ => none
  | .ageingInterrupt _ _ => none
  | .portUp _ => none
  | .portDown _ => none
  | .currentLimitExceeded _ => none
  | .powerLimitExceeded => none
  | .thermalTrip _ => none
  | .thermalClear _ => none
  | .canaryWarning _ _ => none
  | .canaryTimeout _ => none
  | .railVoltageChange _ _ => none
  | .clampRelax _ => none
  | .droopAlarm _ => none
  | .droopWindowEnd _ => none
  | .boot _ _ _ _ => none
  | .linkctlSwap _ => none
  | .linkctlSwfailClear _ => none
  | .routeWrite _ _ => none
  | .mgmtRegWrite _ _ => none
  | .ctxBind _ => none
  | .ctxSuspend _ => none
  | .ctxSuspendComplete _ => none
  | .ctxClear _ => none
  | .ctxDestroy _ => none
  | .qCreate _ => none
  | .qArm _ => none
  | .qDrain _ => none
  | .qSuspend _ => none
  | .qSuspendComplete _ => none
  | .qResume _ => none
  | .qSkip _ => none
  | .qDestroy _ => none
  | .qPostHost _ => none
  | .kAbortHost _ => none
  | .exportDevice _ => none
  | .pubDef _ => none
  | .collReform _ => none
  | .collAbort _ => none
  | .regRead _ => none
  | .imgLoad _ => none
  | .imgLoadComplete => none
  | .attest _ => none
  | .ideKey _ => none
  | .ckpt _ => none
  | .ckptComplete _ => none
  | .ckRestore _ => none
  | .ckRestoreComplete _ => none
  | .powerLoss => none
  | .ringRetune _ _ _ => none
  | .unsupportedOpcode _ => none

/-- An instruction word as the part reads it for a kernel with `vregs` vector registers (R99): the decoded instruction, or none where
a decode check fails, which is an ILLEGAL trap. -/
noncomputable def decode (vregs : Nat) (w : Word) : Option Instr :=
  match decodeWord w with
  | some i => if wellFormed vregs i then some i else none
  | none => none

/-- The instruction that the decoder reads from a word given as a number, for the largest register count (64). An
instruction is one 32-bit word (R86), so other lengths hold none. -/
noncomputable def decodeTableWord (nbits w : Nat) : Option Instr :=
  if nbits = 32 then decode 64 (BitVec.ofNat 32 w) else none

end Sys2Proof
end

