-- ==== Sys2Proof/Machine/Fetch.lean ====
section
/-! DEFINITION. Fetching an instruction word, the arbiter of each quadrant, and which split issues next (R99, R206, R207, R213, R221,
R223 to R225). -/

namespace Sys2Proof.Machine

/-- What a fetch ends with (R225). -/
inductive FetchEnd where
  | word (w : Word) (pa : Nat)
  | page
  | cause (c : Cause)
  /-- The word carries an uncorrectable soft error. -/
  | poisoned
  /-- The page is under reclassification: the fetch is still in progress (R206, R397). -/
  | wait
  deriving DecidableEq, Repr

/-- The fetch of a split's next instruction: one word at its pc, checked for execute access (R3, R225). -/
def State.fetchAt (s : State) (core asid : Nat) (firmware : Bool) (pc : DWord) : FetchEnd :=
  match s.checkGlobal core asid firmware pc.toNat 4 4 .fetch with
  | .cause .page => .page
  | .cause c => .cause c
  | .ok pa _ _ =>
    if !s.homeReady (.core core) pa false then .wait
    else if s.physPoisoned pa 4 then .poisoned
    else .word (BitVec.ofNat 32 (s.physRead pa 4)) pa

/-- The fetch of the issuing split. -/
def State.fetch (s : State) (cx : Cx) : FetchEnd := s.fetchAt cx.core cx.asid cx.sp.firmware cx.sp.pc

/-- The traces that a fetch leaves: the translation and the home class of its page. -/
def State.fetched (s : State) (cx : Cx) (pa : Nat) : State :=
  (s.learn cx.core cx.asid cx.sp.pc.toNat).homeTouch (.core cx.core) pa false

/-- The issue bookkeeping of R213 and R224: the split's group issued last in this slot, to a vector pipe (`lane`) or to the uniform one,
the split waits no longer, and it has issued for the splits that yielded to it (R169). -/
def State.noteIssue (s : State) (cx : Cx) (lane : Bool) : State :=
  { s with
    cur := some (cx.gid, cx.k)
    groups := s.groups.upd cx.gid fun g =>
      { g with
        lastIndex := if lane then cx.k else g.lastIndex
        lastGroup := if lane then g.lastGroup else cx.k
        lastSlot := s.slotNow cx.core
        res := g.res.map fun p =>
          (p.1, { p.2 with
            readySlots := if p.1 = cx.k then 0 else p.2.readySlots
            yieldTo := p.2.yieldTo.filter fun t => t != cx.sp.tag }) } }

/-- The decoded instruction of a word for the issuing split's kernel (R99). -/
noncomputable def Cx.decode (cx : Cx) (w : Word) : Option Instr := Sys2Proof.decode cx.kern.launch.vregs w

/-- Two resident splits merge (R207): READY, equal PC and MODE, no open window. -/
def mergeable (x y : Split) : Bool :=
  x.state == .ready && y.state == .ready && x.pc == y.pc && x.firmware == y.firmware && x.windows.isEmpty && y.windows.isEmpty

/-- The pair of split-table indices of a group whose splits merge, if any. -/
def Group.mergePair (g : Group) : Option (Nat × Nat) :=
  [(0, 1), (0, 2), (0, 3), (1, 2), (1, 3), (2, 3)].find? fun p =>
    match g.res.look p.1, g.res.look p.2 with
    | some x, some y => mergeable x y
    | _, _ => false

/-- The first resident group with a pair to merge. -/
def State.mergeNow (s : State) : Option (Nat × Nat × Nat) :=
  s.groups.findSome? fun p =>
    match p.2.mergePair, s.teams.look p.2.team with
    | some (x, y), some t => if t.state == .resident then some (p.1, x, y) else none
    | _, _ => none

/-- The word belongs to the lane set (R86). -/
def laneWord (w : Word) : Bool := !w.getLsbD 31

/-- What an issue leaves: the traces of the fetch, where the word was read, and the bookkeeping. -/
def State.noteFetch (s : State) (cx : Cx) (pa : Option Nat) (lane : Bool) : State :=
  match pa with
  | some pa => (s.fetched cx pa).noteIssue cx lane
  | none => s.noteIssue cx lane

/-- A split fetched and decoded (R99, R225): the state in which its instruction runs, and the instruction; a failed decode or fetch is
its own event, and a split that cannot issue any more is passed over. `note` is what the issue leaves, for the address of the word and
its set. -/
noncomputable def State.fetchNext (s : State) (gid k : Nat) (note : State → Cx → Option Nat → Bool → State) : State × Option Instr :=
  match s.cxOf gid k with
  | none => (s, none)
  | some cx =>
    if !cx.canIssue then (s, none)
    else
      match s.fetch cx with
      | .word w pa =>
        match cx.decode w with
        | some i => (note s cx (some pa) (laneWord w), some i)
        | none => (note s cx (some pa) (laneWord w), some .illegalWordIssue)
      | _ => (note s cx none false, some .instructionFetchFault)

/-- The next split of the issue list with its instruction; one that has come to stall since it was picked does not issue (R206). -/
noncomputable def State.nextIssue (s : State) (gid k : Nat) : State × Option Instr :=
  match s.cxOf gid k with
  | none => (s, none)
  | some cx => if cx.sp.ready then s.fetchNext gid k State.noteFetch else (s, none)

/-- A split with its next instruction, which is only examined (R206): its fetch takes no turn at a home. -/
noncomputable def State.nextProbe (s : State) (gid k : Nat) : State × Option Instr :=
  ({ s with probing := true } : State).fetchNext gid k fun s cx _ _ => { s with cur := some (cx.gid, cx.k) }

/-- Reference time, in ns, that the next master cycle adds: 555.6 ps, so that 9 cycles take 5 ns (R4; DESIGN CHOICE, log entry 1). -/
def State.cycleNs (s : State) : Nat := (s.cycles + 1) * 5 / 9 - s.cycles * 5 / 9

/-! ### The arbiter (R206, R213, R223, R224) -/

/-- The core's quadrants can issue in this cycle: it is a pulse, and an even-numbered one while issue is halved (R223, R478). -/
def CoreSt.issues (x : CoreSt) : Bool := x.pulsed && x.halving % 2 == 0

/-- A group's candidate for a pipe class. -/
structure Candidate where
  gid : Nat
  k : Nat
  quad : Nat
  /-- The next instruction belongs to the lane set (R86). -/
  lane : Bool
  ready : Nat
  prio : Nat
  charge : Nat
  /-- The issue slot in which its group issued last. -/
  last : Nat
  deriving DecidableEq, Repr

/-- The guard register of a lane-set word, 0 for none (R87, R89). -/
def guardOf (w : Word) : Nat :=
  let major := (w.extractLsb' 27 4).toNat
  let gd := if major ≤ 5 then (w.extractLsb' 18 3).toNat
    else if major = 8 ∨ major = 9 then (w.extractLsb' 20 3).toNat
    else if major = 10 then (w.extractLsb' 22 3).toNat
    else 0
  if gd = 7 then 0 else gd

/-- The charge by which the arbiter compares a candidate (R224, R473). -/
def State.candidateCharge (s : State) (cx : Cx) (w : Word) : Nat :=
  let code := (w.extractLsb' 27 5).toNat
  let active := cx.sp.mask &&& (if guardOf w = 0 then BitVec.allOnes 32 else cx.grp.mreg cx.sp (guardOf w))
  chargeOf (s.weight cx.core code) code (Bits.popcount active) false

/-- The candidate that a resident split would be, when it is ready (R206); a fetch that fails counts for the uniform pipe. -/
def State.candidateOf (s : State) (gid k : Nat) : Option Candidate :=
  match s.cxOf gid k with
  | none => none
  | some cx =>
    let blocked := cx.sp.yieldTo.any fun t => cx.grp.res.any fun p => p.2.tag == t && p.2.state == .ready
    if !cx.canIssue || !cx.sp.ready || blocked then none
    else
      let word := match s.fetch cx with
        | .word w _ => some w
        | _ => none
      let prio := match s.queues.look cx.kern.queue with
        | some q => q.prio
        | none => 0
      some {
        gid := gid, k := k, quad := cx.quad, ready := cx.sp.readySlots, prio := prio, last := cx.grp.lastSlot
        lane := match word with
          | some w => laneWord w
          | none => false
        charge := match word with
          | some w => s.candidateCharge cx w
          | none => 0 }

/-- The candidates of a group: of each class, the first ready split above the index that issued last to a pipe of that class: a round
robin over both classes together would let one starve the other's splits past the bound of R213 (R213, R224; DEDUCED, log entry 52). -/
def State.groupCandidates (s : State) (gid : Nat) (g : Group) : List Candidate :=
  let from_ := fun (last : Nat) => (List.range 4).filterMap fun d => s.candidateOf gid ((last + 1 + d) % 4)
  ((from_ g.lastIndex).find? Candidate.lane).toList ++ ((from_ g.lastGroup).find? fun c => !c.lane).toList

/-- The arbiter prefers candidate a to b; `charged` says that rule 3 is in force (R224). -/
def Candidate.before (charged : Bool) (a b : Candidate) : Bool :=
  let la := decide (2048 ≤ a.ready)
  let lb := decide (2048 ≤ b.ready)
  if la != lb then la
  else if la && a.ready != b.ready then b.ready < a.ready
  else if a.prio != b.prio then b.prio < a.prio
  else if charged && a.charge != b.charge then a.charge < b.charge
  else if a.last != b.last then a.last < b.last
  else a.gid < b.gid

/-- The candidate that the arbiter takes. -/
def bestOf (charged : Bool) (cs : List Candidate) : Option Candidate :=
  cs.foldl (fun b c =>
    match b with
    | none => some c
    | some d => if c.before charged d then some c else some d) none

/-- What a quadrant issues: one group-set instruction, then up to two lane-set instructions of different groups (R223, R368). -/
def picksOf (charged : Bool) (cs : List Candidate) : List (Nat × Nat) :=
  let lanes := cs.filter Candidate.lane
  let first := bestOf charged lanes
  let second := match first with
    | some a => bestOf charged (lanes.filter fun c => c.gid != a.gid)
    | none => none
  let group := bestOf charged (cs.filter fun c => !c.lane)
  (group.toList ++ first.toList ++ second.toList).map fun c => (c.gid, c.k)

/-- A list of quadrants with one more, ascending. -/
def insertQuad (l : List Nat) (q : Nat) : List Nat :=
  match l with
  | [] => [q]
  | x :: rest => if q < x then q :: x :: rest else if q = x then x :: rest else x :: insertQuad rest q

/-- The splits that issue in this cycle, quadrant by quadrant in ascending order (R368). -/
def State.arbitrate (s : State) : List (Nat × Nat) :=
  let cs := s.groups.flatMap fun p =>
    match s.teams.look p.2.team with
    | some t => if (s.core t.core).issues then s.groupCandidates p.1 p.2 else []
    | none => []
  ((cs.map Candidate.quad).foldl insertQuad []).flatMap fun q =>
    let x := s.core (q / 4)
    picksOf (decide (x.ctgt < x.account)) (cs.filter fun c => c.quad == q)

/-- A slot in which a ready split was not picked counts for it (R213, R224); one that issues starts again. -/
def State.countReady (s : State) : Map Group :=
  s.groups.map fun p => (p.1, { p.2 with
    res := p.2.res.map fun q => (q.1, if q.2.ready && q.2.state == .ready then { q.2 with readySlots := q.2.readySlots + 1 } else q.2) })

/-- The cycle's arbiters have chosen. -/
def State.arbitrated (s : State) : State :=
  { s with picking := false, probed := false, issueQ := s.arbitrate, groups := s.countReady }

/-- The splits that could issue in this cycle, by group and split-table index: resident, READY, in a core whose quadrants can issue. -/
def State.offers (s : State) : List (Nat × Nat) :=
  s.groups.flatMap fun p =>
    match s.teams.look p.2.team with
    | some t =>
      if t.state == .resident && p.2.state == .running && (s.core t.core).issues then
        (p.2.res.filter fun q => q.2.state == .ready).map fun q => (p.1, q.1)
      else []
    | none => []

/-- What happens next (DESIGN CHOICE, log entry 1): a merge of splits that R207 makes at once, the next event of the agenda, the
examination of the next split that could issue in this cycle, the arbiters' choice, the next issue of the cycle, which is examined once
more before it runs, or the next master cycle. A part held in reset takes only events of the agenda. -/
noncomputable def State.nextEvent (s : State) : State × Option Instr :=
  let s := { s with probing := false }
  match s.agenda with
  | i :: rest =>
    match s.mergeNow with
    | some (gid, x, y) => (s, some (.splitMerge gid x y))
    | none => ({ s with agenda := rest, cur := none }, some i)
  | [] =>
    if s.inReset then (s, none)
    else
      match s.mergeNow, s.probeQ with
      | some (gid, x, y), _ => (s, some (.splitMerge gid x y))
      | none, (gid, k) :: rest => ({ s with probeQ := rest } : State).nextProbe gid k
      | none, [] =>
        if s.picking then (s.arbitrated, none)
        else
          match s.issueQ with
          | (gid, k) :: rest =>
            if s.probed then ({ s with issueQ := rest, probed := false } : State).nextIssue gid k
            else ({ s with probed := true } : State).nextProbe gid k
          | [] => ({ s with cur := none }, some (.masterCycle s.cycleNs))

/-- Page tables for `withFetchWord`: three entries that map the first GiB of the program half, and of the system window, to
the first GiB of device memory, at physical 0x1_0000. -/
def fetchTables (m : List Host.Cell) : List Host.Cell :=
  let leaf := 0x1F
  let m := Memory.write m 0x10000 8 0x11001
  let m := Memory.write m (0x10000 + 8 * 256) 8 0x11001
  let m := Memory.write m 0x11000 8 0x12001
  Memory.write m 0x12000 8 leaf

/-- A context for `withFetchWord`, with its areas in the system window. -/
def fetchCtx : Ctx :=
  { slot := some 0, tqbase := 0xFF00000000100000, tqsize := 16, savebase := 0xFF00000001000000, regbase := 0xFF00000000200000
    stkbase := 0xFF00000000300000, ptbase := 0x10000, spillbase := 0, maxteams := 1 }

/-- A kernel for `withFetchWord`: one team of one group, every register, the whole scratchpad. -/
def fetchKernel : Kernel :=
  { launch :=
      { grid := (1, 1, 1), groups := 1, bandR := 1, bandC := 1, vregs := 64, ltcount := 0, code := 0x20000, param := 0, ltab := 0
        dmax := 8, dmin := 0, pclass := 0, noreuse := false, restart := false, acc := 0, barriers := 96, scratch := 2 ^ 19
        slots := [], caddr := 0, cval := 0 }
    queue := 0, asid := 1, completion := 0, nextTeam := 1, state := .running }

/-- The instruction's word stored where the next step fetches, in a machine made ready to fetch it: a bound context with its
page tables, one kernel with one team of one group on core 0, whose one split issues next (DESIGN CHOICE, log entry 20). -/
def State.placeWord (s : State) (w : Nat) : State :=
  let sp : Split := { pc := 0x20000, mask := BitVec.allOnes 32, tag := 0, ready := true }
  { s with
    agenda := []
    probeQ := []
    picking := false
    probed := true
    issueQ := [(groupKey s.uid 0, 0)]
    cur := none
    uid := s.uid + 1
    inReset := false
    mem := Memory.write (fetchTables s.mem) 0x20000 4 w
    memPoison := []
    migrations := []
    classes := []
    polders := s.polders.put 0 { state := .active, grant := 0, current := BitVec.allOnes 4096 }
    fenceMap := 0
    ctxs := s.ctxs.put 1 fetchCtx
    kernels := s.kernels.put 1 fetchKernel
    teams := s.teams.put s.uid { kernel := 1, linear := 0, slot := 0, core := 0 }
    groups := [(groupKey s.uid 0, { team := s.uid, index := 0, res := [(0, sp)] })]
    cores := s.cores.put 0 {}
    chips := s.chips.put 0 {} }

end Sys2Proof.Machine
end

