-- ==== Sys2Proof/Machine/Control.lean ====
section
/-! DEFINITION. Branches, JOIN, EXIT, YIELD, traps, system registers, fences and the special registers (R101, R165 to R169,
R201, R202, R207, R214, R225 to R230, R314, R482, R483), and the events of splits. -/

namespace Sys2Proof.Machine

/-! ### Branches (R226, R229) -/

/-- The target of a branch word (R97). -/
def branchTarget (pc : DWord) (o : BitVec 18) : DWord := pc + 4 * o.signExtend 64

/-- The issuing split after a taken branch: a backward one counts (R226). -/
def Split.jump (sp : Split) (tgt : DWord) : Split :=
  { sp.tick with pc := tgt, nr := false, bbc := if tgt ≤ sp.pc then sp.bbc + 1 else sp.bbc }

/-- A backward branch swaps its split out once 256 were taken, no window is open and the stack is not empty (R214). -/
def State.branchSwap (s : State) (cx : Cx) (tgt : DWord) : State :=
  match s.groups.look cx.gid with
  | none => s
  | some g =>
    match g.res.look cx.k with
    | none => s
    | some sp =>
      if tgt ≤ cx.sp.pc ∧ 256 ≤ sp.bbc ∧ sp.windows = [] ∧ g.stack ≠ [] then s.swapOut cx.asid cx.gid cx.k else s

/-- Move the whole split to a target, with the branch's charge. -/
def State.branchTo (s : State) (cx : Cx) (code : Nat) (tgt : DWord) : State :=
  ((s.modTag cx.gid cx.sp.tag fun sp => sp.jump tgt).charge cx.core (s.weight cx.core code)).branchSwap cx tgt

/-- A branch of the whole split, taken on a condition. -/
def branchIf (mr : List Nat) (o : BitVec 18) (taken : Cx → Bool) : State → Result :=
  gate { mr := mr } fun cx s =>
    if taken cx then .next (s.branchTo cx 21 (branchTarget cx.sp.pc o))
    else .next (s.retireG cx 21)

/-- Always taken (R226). -/
def execBra (o : BitVec 18) : State → Result := branchIf [] o fun _ => true

/-- Taken when a lane of the split is in the mask (R226). -/
def execBraAny (k : BitVec 3) (o : BitVec 18) : State → Result :=
  branchIf [k.toNat] o fun cx => cx.sp.mask &&& cx.grp.mreg cx.sp k.toNat != 0

/-- Taken when no lane of the split is in the mask (R226). -/
def execBraNone (k : BitVec 3) (o : BitVec 18) : State → Result :=
  branchIf [k.toNat] o fun cx => cx.sp.mask &&& cx.grp.mreg cx.sp k.toNat == 0

/-- Taken, with the return address in g60 (R226). -/
def execCall (o : BitVec 18) : State → Result :=
  gate { gw := [60] } fun cx s =>
    .next ((s.modGroup cx.gid fun g => g.setG 60 (cx.sp.pc + 4)).branchTo cx 21 (branchTarget cx.sp.pc o))

/-- An indirect branch of the whole split (R229). -/
def branchReg (a : BitVec 6) : State → Result :=
  gate { gr := [a.toNat] } fun cx s =>
    let tgt := cx.grp.greg a.toNat
    if tgt.toNat % 4 ≠ 0 then .next (s.trapAll cx .misalign tgt)
    else .next (s.branchTo cx 22 tgt)

/-- Return to the address in a g register (R229). -/
def execRet (a : BitVec 6) : State → Result := branchReg a

/-- Branch to the address in a g register (R229). -/
def execBrx (a : BitVec 6) : State → Result := branchReg a

/-- The oldest resident split other than the one at index k: smallest AGE, then lowest index (R208). -/
def Group.oldestOther (g : Group) (k : Nat) : Option (Nat × Split) :=
  (g.res.filter fun p => p.1 != k).foldl (fun b p =>
    match b with
    | none => some p
    | some q => if p.2.age < q.2.age then some p else some q) none

/-- Push the oldest other resident split, freeing its entry (R208, R209): false when a spill write fails. -/
def State.pushOldest (s : State) (cx : Cx) : State × Bool :=
  match cx.grp.oldestOther cx.k with
  | none => (s, false)
  | some (k, x) =>
    match s.pushSplit cx x with
    | (s, false) => (s, false)
    | (s, true) => (s.modGroup cx.gid fun g => { g with res := g.res.del k }, true)

/-- The division of R227: this split keeps the lanes outside the mask and the new one takes the rest. -/
def Group.divide (g : Group) (cx : Cx) (taken : Word) (tgt : DWord) (age : Nat) : Group :=
  let fresh : Split :=
    { cx.sp with
      pc := tgt, mask := taken, tag := g.freeTag, nr := false, age := age, bbc := 0, windows := [], idle := 0, readySlots := 0
      ready := false, placeWait := none, drainTo := none, peerRead := [], drainArmed := cx.sp.drainArmed, yieldTo := [] }
  let g := g.modTag cx.sp.tag fun sp => { sp.retire with mask := sp.mask &&& ~~~ taken }
  match Map.freeKey g.res 0 4 with
  | some k => { g with res := g.res.put k fresh }
  | none => g

/-- Divide the split by a mask (R227). -/
def execBraD (k j : BitVec 3) (o : BitVec 18) : State → Result :=
  gate { mr := [k.toNat], ends := true } fun cx s =>
    let t := cx.sp.mask &&& cx.grp.mreg cx.sp k.toNat
    let f := cx.sp.mask &&& ~~~ (cx.grp.mreg cx.sp k.toNat)
    let tgt := branchTarget cx.sp.pc o
    let divides := t != 0 && f != 0
    match if divides && cx.grp.res.length = 4 then s.pushOldest cx else (s, true) with
    | (s', false) => .next (s'.trapAll cx .stackSpill)
    | (s', true) =>
      let s' := s'.modGroup cx.gid fun g => g.setJ j.toNat cx.sp.mask
      let s' :=
        if divides then (s'.modGroup cx.gid fun g => g.divide cx t tgt (s.slotNow cx.core)).charge cx.core (s.weight cx.core 21)
        else if t = 0 then s'.retireG cx 21
        else s'.branchTo cx 21 tgt
      .next (s'.rejoin cx.asid cx.gid)

/-- Wait until the lanes of the rejoin register have arrived (R228). -/
def execJoin (j : BitVec 3) : State → Result :=
  gate { jr := [j.toNat], ends := true } fun cx s =>
    .next (((s.waitOn cx (.join j.toNat)).charge cx.core (s.weight cx.core 21)).rejoin cx.asid cx.gid)

/-- The group after a split's lanes exit (R171, R203, R230). -/
def Group.exitLanes (g : Group) (sp : Split) : Group :=
  let exited := g.exited ||| sp.mask
  { g with
    exited := exited
    region := false
    res := g.res.filter fun p => p.2.tag != sp.tag
    state := if exited = BitVec.allOnes 32 then .exited else g.state }

/-- The lanes of the split exit (R230). -/
def execExit : State → Result :=
  gate { ends := true } fun cx s =>
    let s := (s.modGroup cx.gid fun g => g.exitLanes cx.sp).charge cx.core (s.weight cx.core 22)
    let s := s.fillEntries cx.asid cx.gid
    let s := if cx.grp.exited ||| cx.sp.mask = BitVec.allOnes 32 then s.quiesce cx.gid else s
    .next ((s.rejoin cx.asid cx.gid).haltCheck cx.gid)

/-- End the split's claim to issue (R169). -/
def execYield : State → Result :=
  gate { ends := true } fun cx s =>
    let s := s.retireG cx 29
    if cx.grp.stack ≠ [] then .next (s.swapOut cx.asid cx.gid cx.k)
    else
      let others := (cx.grp.res.filter fun p => p.1 != cx.k && p.2.state == .ready).map fun p => p.2.tag
      .next (s.modTag cx.gid cx.sp.tag fun sp => { sp with yieldTo := others })

/-! ### System instructions -/

/-- No effect (R165). -/
def execNop : State → Result := groupOp 29 {} fun _ s => s

/-- Raise SOFTWARE with a code (R166). -/
def execTrap (c : BitVec 4) : State → Result :=
  gate {} fun cx s =>
    .next (s.raiseTrap cx { cause := .software, lanes := cx.sp.mask, code := c, aux := c.zeroExtend 64, atNext := true })

/-- Return from a trap (R151, R167). -/
def execEret : State → Result :=
  gate { gr := [61], gw := [61, 62, 63], firmware := true } fun cx s =>
    if (cx.grp.greg 61).toNat % 4 ≠ 0 then .next (s.trapAll cx .misalign (cx.grp.greg 61))
    else .next ((s.returnTrap cx).charge cx.core (s.weight cx.core 29))

/-- Decline a trap (R152, R167). -/
def execTrapret : State → Result :=
  gate { firmware := true, ends := true } fun cx s => .next ((s.charge cx.core (s.weight cx.core 29)).declineTrap cx)

/-- Set the no-reuse mark, which the next instruction consumes (R101). -/
def execNoreuse : State → Result :=
  gate {} fun cx s => .next ((s.retireG cx 29).modTag cx.gid cx.sp.tag fun sp => { sp with nr := true })

/-- The value of CTXSTATE (R145). -/
def CtxState.code (c : CtxState) : Nat :=
  match c with
  | .active => 0
  | .faulted => 1
  | .suspending => 2
  | .suspended => 2

/-- A system register as a split reads it (R145). -/
def Cx.sysReg (cx : Cx) (n : Nat) : DWord :=
  match n with
  | 0x000 => BitVec.ofNat 64 (cx.ctx.slot.getD 0 * 2 ^ 16 + cx.asid)
  | 0x001 => BitVec.ofNat 64 cx.ctx.state.code
  | 0x002 => BitVec.ofNat 64 cx.sp.firmware.toNat
  | 0x003 => cx.ctx.traph
  | 0x004 => cx.ctx.tqbase
  | 0x005 => cx.ctx.tqsize
  | 0x006 => cx.ctx.tqhead
  | 0x007 => cx.ctx.tqtail
  | 0x008 => cx.ctx.tqlost
  | 0x009 => cx.ctx.savebase
  | 0x00A => cx.ctx.regbase
  | 0x00B => cx.ctx.stkbase
  | 0x00C => cx.sp.tshad61
  | 0x00D => cx.sp.tshad62
  | 0x00E => cx.sp.tshad63
  | 0x010 => cx.ctx.ptbase
  | 0x011 => cx.ctx.spillbase
  | _ => BitVec.ofNat 64 cx.ctx.maxteams

/-- SYSR may read the register in program mode (R145). -/
def sysProgram (n : Nat) : Bool := [0, 1, 2, 7, 8, 18].contains n

/-- Read a system register (R168). -/
def execSysr (n b : BitVec 6) (u : BitVec 4) : State → Result :=
  let num := n.toNat * 16 + u.toNat
  gate { gw := [b.toNat], firmware := !sysProgram num } fun cx s =>
    .next ((s.modGroup cx.gid fun g => g.setG b.toNat (cx.sysReg num)).retireG cx 29)

/-- A base address that lies in the system window with an alignment (R142). -/
def windowBase (x : DWord) (align : Nat) : Bool := x.toNat % align = 0 && inWindow x.toNat

/-- A trap queue capacity (R142, R145): a power of two from 16 to 65,536. -/
def queueSizeOk (x : DWord) : Bool := [16, 32, 64, 128, 256, 512, 1024, 2048, 4096, 8192, 16384, 32768, 65536].contains x.toNat

/-- A SPILLBASE value (R142). -/
def spillBaseOk (x : DWord) : Bool := x = 0 || windowBase x 64

/-- The effect of SYSW (R142, R145, R168): read-only registers keep their value, and so does one given a value that breaks its
rule. -/
def State.sysWrite (s : State) (cx : Cx) (n : Nat) (x : DWord) : State :=
  let ctx := fun (f : Ctx → Ctx) => s.modCtx cx.asid f
  let split := fun (f : Split → Split) => s.modTag cx.gid cx.sp.tag f
  match n with
  | 0x003 => ctx fun c => { c with traph := x }
  | 0x004 => if windowBase x 64 then ctx fun c => { c with tqbase := x, tqhead := 0, tqtail := 0 } else s
  | 0x005 => if queueSizeOk x then ctx fun c => { c with tqsize := x, tqhead := 0, tqtail := 0 } else s
  | 0x006 => if x.toNat < cx.ctx.tqsize.toNat then ctx fun c => { c with tqhead := x } else s
  | 0x008 => ctx fun c => { c with tqlost := 0 }
  | 0x009 => if windowBase x 65536 then ctx fun c => { c with savebase := x } else s
  | 0x00A => if windowBase x 4096 then ctx fun c => { c with regbase := x } else s
  | 0x00B => if windowBase x 2048 then ctx fun c => { c with stkbase := x } else s
  | 0x00C => split fun sp => { sp with tshad61 := x }
  | 0x00D => split fun sp => { sp with tshad62 := x }
  | 0x00E => split fun sp => { sp with tshad63 := x }
  | 0x011 => if spillBaseOk x then s.setSpillbase cx.asid x else s
  | _ => s

/-- Write a system register (R168). -/
def execSysw (n b : BitVec 6) (u : BitVec 4) : State → Result :=
  gate { gr := [b.toNat], firmware := true } fun cx s =>
    .next ((s.sysWrite cx (n.toNat * 16 + u.toNat) (cx.grp.greg b.toNat)).retireG cx 29)

/-- A fence at a scope: a release, then an acquire, and the drain of the split's next engine request (R73 to R76, R314). -/
def execFence (sc : BitVec 3) : State → Result :=
  gate { ends := true, memory := true } fun cx s =>
    if s.releaseWaits cx sc.toNat then .next (s.parkRelease cx sc.toNat)
    else
      match cx.postedTrap sc.toNat with
      | some t => .next ((s.modGroup cx.gid fun g => { g with postedFault := none }).raiseTrap cx t)
      | none =>
        .next (((s.acquire cx.core cx.quad sc.toNat).retireG cx 29).modTag cx.gid cx.sp.tag fun sp => { sp with drainArmed := true })

/-- The reference counter (R483). -/
def execTime (b : BitVec 6) : State → Result :=
  gate { gw := [b.toNat] } fun cx s => .next ((s.modGroup cx.gid fun g => g.setG b.toNat s.time).retireG cx 29)

/-- The pulses delivered to the core (R483). -/
def execClock (b : BitVec 6) : State → Result :=
  gate { gw := [b.toNat] } fun cx s =>
    .next ((s.modGroup cx.gid fun g => g.setG b.toNat (s.core cx.core).pulses).retireG cx 29)

/-! ### Special registers (R201, R202) -/

/-- The value of a special register. -/
def Cx.special (cx : Cx) (s : State) (n : Nat) : Nat :=
  let l := cx.kern.launch
  match n with
  | 0x000 => Bits.lowest cx.sp.mask
  | 0x001 => cx.grp.index
  | 0x002 => cx.team.linear
  | 0x003 => cx.team.linear % l.grid.1
  | 0x004 => cx.team.linear / l.grid.1 % l.grid.2.1
  | 0x005 => cx.team.linear / (l.grid.1 * l.grid.2.1)
  | 0x006 => cx.team.linear / l.bandSize
  | 0x007 => cx.team.linear % l.bandSize
  | 0x008 => l.groups
  | 0x009 => l.grid.1
  | 0x00A => l.grid.2.1
  | 0x00B => l.grid.2.2
  | 0x00C => (l.bandR - 1) * 4 + (l.bandC - 1)
  | 0x010 => l.param.toNat
  | 0x011 => if l.ltcount = 0 then 0 else l.ltab.toNat
  | 0x012 => cx.team.kernel
  | 0x013 => cx.kern.queue
  | 0x018 => cx.core
  | 0x019 => cx.grp.index % 4
  | 0x020 => cx.team.cdepth
  | 0x021 => s.tide.toNat
  | 0x022 => cx.grp.fflags.toNat
  | _ => cx.grp.depth.toNat

/-- Read a special register (R202). -/
def execS2g (d : BitVec 6) (n : BitVec 12) : State → Result :=
  gate { gw := [d.toNat] } fun cx s =>
    .next ((s.modGroup cx.gid fun g => g.setG d.toNat (BitVec.ofNat 64 (cx.special s n.toNat))).retireG cx 18)

/-- Read and clear a special register: $fflags is the only clearable one (R202). -/
def execS2gc (d : BitVec 6) (n : BitVec 12) : State → Result :=
  gate { gw := [d.toNat] } fun cx s =>
    .next ((s.modGroup cx.gid fun g =>
      { g.setG d.toNat (BitVec.ofNat 64 (cx.special s n.toNat)) with fflags := 0 }).retireG cx 18)

/-! ### Events of splits -/

/-- The fetched word fails a decode check: ILLEGAL (R99, R149). -/
def execIllegalWordIssue : State → Result := gate {} fun cx s => .next (s.trapAll cx .illegal)

/-- The fetch of the issuing split fails (R225): PAGE parks it FAULTED with a page request (R221, R414), any other cause
traps, a poisoned word raises SOFT_ERROR. -/
def execInstructionFetchFault : State → Result :=
  gate {} fun cx s =>
    let end_ := s.fetch cx
    let s := s.learnIf cx.core cx.asid cx.sp.firmware cx.sp.pc.toNat 4 4
    match end_ with
    | .page => .next (s.parkFault cx cx.sp.pc .fetch)
    | .cause c => .next (s.trapAll cx c cx.sp.pc)
    | .poisoned => .next (s.trapAll cx .softError cx.sp.pc)
    | .wait => .next (s.homeTouch (.core cx.core)
        (match s.checkGlobal cx.core cx.asid cx.sp.firmware cx.sp.pc.toNat 4 4 .fetch with
          | .ok pa _ _ => pa
          | .cause _ => 0) false)
    | .word _ _ => .next s

/-- The replies that a split's pending trap awaits have arrived: those owed to the split, or to its whole group when the group stops
(R150, R222). -/
def State.trapDue (s : State) (core gid : Nat) (g : Group) (sp : Split) : Bool :=
  match sp.pendingTrap with
  | none => false
  | some t =>
    if t.stop && t.cause == .softError then g.splits.all fun x => (s.owed core gid x.tag).isEmpty else (s.owed core gid sp.tag).isEmpty

/-- A trap whose split is owed no reply any more is delivered (R147, R222). -/
def execTrapDelivery (gid tag : Nat) (s : State) : Result :=
  match s.cxByTag gid tag with
  | none => .next s
  | some cx =>
    match cx.sp.pendingTrap with
    | none => .next s
    | some t =>
      if (cx.team.state = .resident ∨ cx.team.state = .saving) ∧ s.trapDue cx.core gid cx.grp cx.sp then .next (s.deliver cx t)
      else .next s

/-- The split that two merging splits become (R204, R207). It keeps the TAG of the split at the lower index: R207 names none (DESIGN
CHOICE, log entry 56). -/
def mergedSplit (x y : Split) : Split :=
  { x with
    mask := x.mask ||| y.mask
    nr := x.nr || y.nr
    bbc := 0
    age := min x.age y.age
    drainArmed := x.drainArmed || y.drainArmed
    ready := x.ready && y.ready
    readySlots := max x.readySlots y.readySlots }

/-- Two resident splits merge into the lower index, and the freed entry is filled from the stack (R207, R208). -/
def execSplitMerge (gid x y : Nat) (s : State) : Result :=
  match s.groups.look gid with
  | none => .next s
  | some g =>
    match g.res.look x, g.res.look y, s.cxOf gid x with
    | some a, some b, some cx =>
      if x < y ∧ mergeable a b ∧ cx.team.state = .resident then
        .next ((s.modGroup gid fun g => { g with res := (g.res.del y).put x (mergedSplit a b) }).fillEntries cx.asid gid)
      else .next s
    | _, _, _ => .next s

/-- A split that has been WAITING, PARKED or FAULTED for 256 consecutive issue slots goes to the bottom of a stack that is not
empty (R214). -/
def execWaitSwap (gid x : Nat) (s : State) : Result :=
  match s.cxOf gid x with
  | none => .next s
  | some cx =>
    if 256 ≤ cx.sp.idle ∧ cx.grp.stack ≠ [] ∧ (cx.sp.state = .waiting ∨ cx.sp.state = .parked ∨ cx.sp.state = .faulted) then
      .next (s.swapOut cx.asid gid x)
    else .next s

/-- A split whose wait to post is abandoned leaves the queue's line (R185). -/
def State.leavePost (s : State) (cx : Cx) : State :=
  match cx.sp.wait with
  | some (.post id) => s.modQueue id fun q => { q with posts := q.posts.filter fun w => !(w.1 == cx.gid && w.2.1 == cx.sp.tag) }
  | _ => s

/-- A wait has lasted WDLIM pulses: WATCHDOG at the wait (R149, R205, R482). -/
def execWatchdogExpiry (gid tag : Nat) (s : State) : Result :=
  match s.cxByTag gid tag with
  | none => .next s
  | some cx =>
    if cx.team.state = .resident ∧ cx.sp.state = .waiting ∧ s.wdlim ≠ 0 ∧ s.wdlim ≤ cx.sp.waitPulses then
      let quiet := fun (sp : Split) => { sp with state := .ready, wait := none, waitPulses := 0, idle := 0 }
      .next (((s.leavePost cx).modTag gid tag quiet).trapAll { cx with sp := quiet cx.sp } .watchdog)
    else .next s

end Sys2Proof.Machine
end

