-- ==== Sys2Proof/Machine/Tide.lean ====
section
/-! DEFINITION. Reader sections, grace periods and the spillway (R430 to R446). -/

namespace Sys2Proof.Machine

/-! ### Reader sections (R430, R431, R435, R443) -/

/-- Enter a reader section (R443). -/
def execRdenter : State → Result :=
  gate {} fun cx s =>
    if cx.grp.depth = 15 then .next (s.trapAll cx .perm)
    else
      let s := if cx.grp.depth = 0 then s.tideArrives cx.core cx.quad else s
      .next ((s.modGroup cx.gid fun g => { g with depth := g.depth + 1 }).retireG cx 27)

/-- Leave a reader section (R443). -/
def execRdexit : State → Result :=
  gate {} fun cx s =>
    if cx.grp.depth = 0 then .next (s.trapAll cx .perm)
    else
      let s := (s.modGroup cx.gid fun g => { g with depth := g.depth - 1 }).retireG cx 27
      .next (if cx.grp.depth = 1 then s.quiesce cx.gid else s)

/-- Pass a quiescent point (R443). -/
def execQpoint : State → Result := gate {} fun cx s => .next ((s.retireG cx 27).quiesce cx.gid)

/-! ### Grace periods (R432 to R434, R444, R445) -/

/-- Request a target (R433). -/
def State.requestTarget (s : State) : DWord × State :=
  match s.grace with
  | none => (s.tide + 1, { s with grace := some {} })
  | some _ => (s.tide + 2, { s with graceQueued := true })

/-- Request a grace period (R444). -/
def execGpstart (b : BitVec 6) : State → Result :=
  gate { gw := [b.toNat], memory := true } fun cx s =>
    if s.releaseWaits cx 4 then .next (s.parkRelease cx 4)
    else
      let r := s.requestTarget
      .next ((r.2.modGroup cx.gid fun g => g.setG b.toNat r.1).retireG cx 27)

/-- Wait for the tide to reach a target (R445). -/
def execGpwait (a : BitVec 6) : State → Result :=
  gate { gr := [a.toNat], ends := true } fun cx s =>
    let t := cx.grp.greg a.toNat
    if cx.grp.depth ≠ 0 then .next (s.trapAll cx .perm)
    else if t ≤ s.tide then .next ((s.retireG cx 27).acquire cx.core cx.quad 4)
    else .next ((s.waitOn cx (.grace t)).charge cx.core (s.weight cx.core 27))

/-- Test whether the tide has reached a target (R445). -/
def execGppoll (a b : BitVec 6) : State → Result :=
  gate { gr := [a.toNat], gw := [b.toNat] } fun cx s =>
    if cx.grp.greg a.toNat ≤ s.tide then
      .next (((s.modGroup cx.gid fun g => g.setG b.toNat 1).retireG cx 27).acquire cx.core cx.quad 4)
    else .next ((s.modGroup cx.gid fun g => g.setG b.toNat 0).retireG cx 27)

/-- The groups that a starting grace period holds (R434): resident and saved groups at a depth above 0. -/
def State.holdingSet (s : State) : List GroupName :=
  (s.groups.filter fun p => p.2.depth != 0 && p.2.state != .exited).filterMap fun p => s.groupName p.1

/-- The next grace period starts (R434, R435); the releases of its requests were complete when they were made (R444, R446). -/
def execGpStart (s : State) : Result :=
  match s.grace with
  | none => .next s
  | some g =>
    if g.started then .next s
    else
      .next ({ s with grace := some { started := true, holding := s.holdingSet }, graceStarts := s.graceStarts + 1 } : State).settleGrace

/-- A quiescent point is recorded once the accesses that its group issued are done (R434). -/
def execQuiescentRecord (x : Nat) (s : State) : Result :=
  match s.quiescent[x]? with
  | none => .next s
  | some q => .next (if s.quietDone q then s.leaveGrace q.name else s)

/-! ### The spillway (R439 to R441, R446) -/

/-- A spillway descriptor (R439). -/
structure SpillDesc where
  spbase : Nat
  splog : Nat
  rrbase : Nat
  rrlog : Nat
  rrhead : Nat
  rrtail : Nat
  deriving DecidableEq, Repr

/-- The descriptor in 64 bytes; none when a reserved bit, an alignment or a range is broken (R439, R446). -/
def spillDescOf (bs : List Byte) : Option SpillDesc :=
  let d : SpillDesc :=
    { spbase := field bs 0 8, splog := field bs 8 8, rrbase := field bs 0x10 8, rrlog := field bs 0x18 8, rrhead := field bs 0x20 8
      rrtail := field bs 0x28 8 }
  let ok := d.spbase % 4096 == 0 && inWindow d.spbase && 8 ≤ d.splog && d.splog ≤ 20 && d.rrbase % 4096 == 0
    && d.rrbase < 2 ^ 56 && 4 ≤ d.rrlog && d.rrlog ≤ 20 && d.rrhead % 8 == 0 && d.rrhead < 2 ^ 56 && d.rrtail % 8 == 0
    && d.rrtail < 2 ^ 56 && field bs 0x30 8 == 0 && field bs 0x38 8 == 0
  if ok then some d else none

/-- Address of spill entry i (R439). -/
def SpillDesc.entryAddr (d : SpillDesc) (i : Nat) : Nat := d.spbase + 32 * (i % 2 ^ d.splog)

/-- Address of release-ring entry i (R439). -/
def SpillDesc.ringAddr (d : SpillDesc) (i : Nat) : Nat := d.rrbase + 16 * (i % 2 ^ d.rrlog)

/-- Some page of the release ring translates outside device memory (R439). -/
def State.ringElsewhere (s : State) (asid : Nat) (d : SpillDesc) : Bool :=
  (List.range (16 * 2 ^ d.rrlog / 65536 + 2)).any fun k =>
    let va := max d.rrbase ((d.rrbase / 65536 + k) * 65536)
    decide (va < d.rrbase + 16 * 2 ^ d.rrlog) && match s.checkSystem asid va 1 1 .write with
      | .ok pa _ _ => s.paKind pa != .device
      | .cause _ => false

/-- Defer the release of a pointer (R446). It is no wait of R205, and ends no window, also where it is WAITING for room. -/
def execGpfree (a b : BitVec 6) : State → Result :=
  gate { gr := [a.toNat, b.toNat], memory := true } fun cx s =>
    let base := cx.ctx.spillbase
    match s.spillways.look cx.asid with
    | none => .next (s.trapAll cx .perm base)
    | some _ =>
      match s.readRecord cx true base 64 64 base with
      | .stop s => .next s
      | .bytes s bs =>
        match spillDescOf bs, s.spillways.look cx.asid with
        | some d, some w =>
          if s.ringElsewhere cx.asid d then .next (s.trapAll cx .perm base)
          else if s.releaseWaits cx 4 then .next (s.parkRelease cx 4)
          else if 2 ^ d.splog ≤ w.tail - w.head then
            .next (((s.waitOn cx .spill).charge cx.core (s.weight cx.core 27)).modTag cx.gid cx.sp.tag fun sp =>
              { sp with windows := cx.sp.windows })
          else
            let at_ := d.entryAddr w.tail
            match s.checkSystem cx.asid at_ 32 32 .write with
            | .cause .page => .next ((s.walkIf cx.asid at_ 32 32).parkFault cx (BitVec.ofNat 64 at_) .write)
            | .cause c => .next ((s.walkIf cx.asid at_ 32 32).trapAll cx c (BitVec.ofNat 64 at_))
            | .ok _ _ _ =>
              let r := s.requestTarget
              let entry := Memory.ofNat 8 (cx.grp.greg a.toNat).toNat ++ Memory.ofNat 8 (cx.grp.greg b.toNat).toNat
                ++ Memory.ofNat 8 r.1.toNat ++ Memory.ofNat 8 0
              let s := (r.2.writeAs .system cx.asid at_ 32 entry).1
              .next (({ s with spillways := s.spillways.upd cx.asid fun w => { w with tail := w.tail + 1 } } : State).retireG cx 27)
        | _, _ => .next (s.trapAll cx .perm base)

/-- An access of the tide machine that fails a check: PAGE waits on the pager, anything else stops the spillway (R441). -/
def State.spillFault (s : State) (asid va : Nat) (k : AccessKind) (c : Cause) : State :=
  if c = .page then s.pageRequest asid va k .spillway else s.spillStop asid c (BitVec.ofNat 64 va)

/-- Read n bytes of the spillway as the tide machine: none where a check fails. -/
def State.spillRead (s : State) (asid va align n : Nat) : State × Option (List Byte) :=
  match s.readAs .system asid va align n with
  | (s, .inl bs) => (s, some bs)
  | (s, .inr c) => (s.spillFault asid va .read c, none)

/-- Write bytes of the spillway as the tide machine: false where a check fails. -/
def State.spillWrite (s : State) (asid va align : Nat) (bs : List Byte) : State × Bool :=
  match s.writeAs .system asid va align bs with
  | (s, none) => (s, true)
  | (s, some c) => (s.spillFault asid va .write c, false)

/-- Move the oldest spill entry to the release ring: the entry, then the tail word, a release at system scope (R440, R441). -/
def State.spillMove (s : State) (asid : Nat) (w : Spillway) (d : SpillDesc) : State :=
  match s.spillRead asid (d.entryAddr w.head) 32 32 with
  | (s, none) => s
  | (s, some bs) =>
    if s.tide.toNat < field bs 16 8 then s
    else
      match s.spillRead asid d.rrhead 8 8 with
      | (s, none) => s
      | (s, some word) =>
        let head := Memory.toNat word
        if w.ringTail < head ∨ head < w.ringHead then s.spillStop asid .perm (BitVec.ofNat 64 d.rrhead)
        else
          let s := { s with spillways := s.spillways.upd asid fun w => { w with ringHead := head } }
          if 2 ^ d.rrlog ≤ w.ringTail - head then s
          else
            match s.spillWrite asid (d.ringAddr w.ringTail) 16 (bs.take 16) with
            | (s, false) => s
            | (s, true) =>
              match s.spillWrite asid d.rrtail 8 (Memory.ofNat 8 (w.ringTail + 1)) with
              | (s, false) => s
              | (s, true) =>
                ({ s with
                  spillways := s.spillways.upd asid fun w => { w with head := w.head + 1, ringTail := w.ringTail + 1 } } : State).wakeSpill asid

/-- The tide machine serves a context's spillway (R439 to R441): its first reads of the tail and head words, or one move. -/
def execSpillMove (asid : Nat) (s : State) : Result :=
  match s.spillways.look asid with
  | none => .next s
  | some w =>
    if w.stopped || s.checkpointing then .next s
    else
      match s.spillRead asid w.base.toNat 64 64 with
      | (s, none) => .next s
      | (s, some bs) =>
        match spillDescOf bs with
        | none => .next s
        | some d =>
          if w.starting then
            match s.spillRead asid d.rrtail 8 8 with
            | (s, none) => .next s
            | (s, some t) =>
              match s.spillRead asid d.rrhead 8 8 with
              | (s, none) => .next s
              | (s, some h) =>
                let tail := Memory.toNat t
                let head := Memory.toNat h
                let s := { s with
                  spillways := s.spillways.upd asid fun w => { w with starting := false, ringTail := tail, ringHead := head } }
                .next (if tail < head then s.spillStop asid .perm (BitVec.ofNat 64 d.rrhead) else s)
          else if w.head < w.tail then .next (s.spillMove asid w d)
          else .next s

end Sys2Proof.Machine
end

