-- ==== Sys2Proof/Machine/Page.lean ====
section
/-! DEFINITION. The pager's events, migration, and PUBL, TLBI, PMIG and PCLASS (R414 to R429). -/

namespace Sys2Proof.Machine

/-! ### Answers of the pager (R414, R415) -/

/-- The page request of an ASID and page that the part holds: the first 4,096 (R414). -/
def State.openRequest (s : State) (asid page : Nat) : Option PageReq :=
  (s.pageReqs.take 4096).find? fun q => q.asid == asid && q.page == page

/-- The request is answered. -/
def State.closeRequest (s : State) (asid page : Nat) : State :=
  { s with pageReqs := s.pageReqs.filter fun q => !(q.asid == asid && q.page == page) }

/-- A collective engine tries a step again that waits (R414). -/
def State.collRetry (s : State) (key : Nat) : State :=
  match s.colls.look key with
  | some c =>
    match c.held, c.failed with
    | some data, none => s.later (.collectiveStepComplete key data)
    | _, _ => s
  | none => s

/-- A requester replays (R414): a split's lanes as R221, a saved one when it is restored; the dispatcher and the engines try again, those
that the master cycle offers their work anyway there: a queue's head entry and completion writes, copies, publish engines, spillways. -/
def State.requesterReplays (s : State) (asid page : Nat) (r : Requester) : State :=
  match r with
  | .split g t =>
    match s.cxByTag g t with
    | some cx => if cx.team.state = .saved then s else s.replaySplit g t page
    | none => s
  | .dispatcher q => s.rereadTail q
  | .post q => s.wakePosts q
  | .marker _ => s
  | .completion _ => s
  | .resize => (s.writesAt asid page).foldl State.resizeWrite (s.takeWrites asid page)
  | .inbound x =>
    match s.inbound.look x with
    | some a => ({ s with inbound := s.inbound.del x } : State).later (.inboundPeerAccess a.device a.addr a.size a.code a.data)
    | none => s
  | .copy _ _ => s
  | .publish _ => s
  | .collective key => s.collRetry key
  | .spillway => s

/-- Requesting splits whose replay cannot issue yet (R206, R221, R301, R309): the sluice entries, by core and tag. Entries of one group
count against its store queue together. -/
def State.heldReplays (s : State) (q : PageReq) : List (Nat × Nat) :=
  let entries := q.requesters.flatMap fun r =>
    match r with
    | .split g t =>
      match s.cxByTag g t with
      | some cx =>
        if cx.sp.state == .faulted && cx.team.state != .saved then (s.faultTags cx.core g t).map fun x => (cx.core, x, g) else []
      | none => []
    | _ => []
  let stores := entries.filter fun e => ((s.core e.1).sluice.look e.2.1).any fun x => x.access.op.isStore
  let crowded := fun (g : Nat) =>
    match s.groups.look g with
    | some x => decide (32 < x.storeQ.length + (stores.filter fun e => e.2.2 == g).length) && decide (x.storeQ.length ≠ 0)
    | none => false
  (entries.filter fun e => s.replayHeld e.1 e.2.1 q.page || (stores.contains e && crowded e.2.2)).map fun e => (e.1, e.2.1)

/-- The homes that held replays wait for are asked (R397). -/
def State.askHomes (s : State) (page : Nat) (held : List (Nat × Nat)) : State :=
  held.foldl (fun s h =>
    match (s.core h.1).sluice.look h.2 with
    | some e =>
      match s.cxByTag e.group e.split with
      | some cx =>
        s.lanesHold h.1 e.access (okReqs ((e.waiting page).map fun r =>
          (r, s.checkGlobal h.1 cx.asid e.firmware r.va.toNat e.access.op.size e.access.op.size e.access.op.kind)))
      | none => s
    | none => s) s

/-- Every requester of a page replays; none of the requests stays open (R414). -/
def State.resolvePage (s : State) (asid page : Nat) : State :=
  match s.openRequest asid page with
  | none => s
  | some q => q.requesters.foldl (fun s r => s.requesterReplays asid page r) (s.closeRequest asid page)

/-- The pager reports RESOLVED (R414). While a replay cannot issue, the answer is kept and the replays are tried again later. -/
def execPagerResolved (asid page : Nat) (s : State) : Result :=
  match s.openRequest asid page with
  | none => .next s
  | some q =>
    match s.heldReplays q with
    | [] => .next (s.resolvePage asid page)
    | held =>
      let s := s.askHomes page held
      .next { s with pageReqs := s.pageReqs.map fun r => if r.asid == asid && r.page == page then { r with answered := true } else r }

/-- The first byte of a copy's box, of those still to land, that lies in a virtual page. -/
def CopyReq.byteIn (r : CopyReq) (page : Nat) : Option Nat :=
  (r.left.flatMap fun u => (List.range 16).map (16 * u + ·)).find? fun x =>
    r.layout.inb r.coord x && r.layout.gaddr r.coord x / 65536 == page

/-- An inbound peer access ends with a fault response to its initiator (R415, R417, R458). -/
def State.inboundFails (s : State) (x : Nat) : State := 
  match s.inbound.look x with
  | some a => { s with inbound := s.inbound.del x, sent := s.sent ++ [.reply a.device (.inr .page)] }
  | none => s

/-- What a FAILED page means for a requester (R415). -/
def State.requesterFails (s : State) (asid page : Nat) (r : Requester) : State :=
  match r with
  | .split g t => s.failSplit g t
  | .copy core slot =>
    match (s.core core).copies.look slot with
    | none => s
    | some c =>
      match c.byteIn page with
      | some x =>
        let s := s.copyFail core slot x .page (c.layout.gaddr c.coord x) 0
        match (s.core core).copies.look slot with
        | some c => if c.left.isEmpty then s.copyDone core slot else s
        | none => s
      | none => s
  | .dispatcher q => s.queueFault q .fetch
  | .post q => (s.queueFault q .fetch).wakePosts q
  | .marker q => (s.queueFault q .cwrite).advanceHead q
  | .completion k =>
    match s.kernels.look k with
    | some kn => (s.queueFault kn.queue .cwrite).kernelGone k
    | none => s
  | .resize => (s.writesAt asid page).foldl (fun s w => s.resizeFails w .page) (s.takeWrites asid page)
  | .inbound x => s.inboundFails x
  | .publish region => { s with pubs := s.pubs.upd region fun p => { p with subs := p.subs.filter fun x => x.device != Config.deviceNumber.toNat || x.asid != asid } }
  | .collective key =>
    match s.colls.look key with
    | some c => s.collFail key c.rank
    | none => s
  | .spillway => s.spillStop asid .page (BitVec.ofNat 64 (page * 65536))

/-- The pager reports FAILED (R415). -/
def execPagerFailed (asid page : Nat) (s : State) : Result :=
  match s.openRequest asid page with
  | none => .next s
  | some q => .next (q.requesters.foldl (fun s r => s.requesterFails asid page r) (s.closeRequest asid page))

/-- No core's L1 holds a line that a test names. -/
def State.dropLinesL1 (s : State) (p : Nat → Bool) : State :=
  { s with cores := s.cores.map fun (c : Nat × CoreSt) => (c.1, { c.2 with l1 := c.2.l1.filter fun l => !p l.1 }) }

/-- A frame starts over: UNOWNED, with no reuse entry, no line in an L1 or a bank and no directory entry (R82, R396, R416, R420). -/
def State.freshFrame (s : State) (frame : Nat) : State :=
  let s := (s.killPageEverywhere frame).dropLinesL1 fun l => l / 512 == frame
  match s.rangeKind (frame * 65536) with
  | .device =>
    let s := (s.flushPage frame).freeEntries frame
    { s with classes := s.classes.del frame }
  | _ => s

/-- Write bytes into a frame, which a peer may hold (R408, R416). -/
def State.frameWrite (s : State) (pa : Nat) (bs : List Byte) (bad : Bool := false) : State :=
  (lineRuns pa bs.length).foldl (fun s r =>
    let part := (bs.drop (r.1 - pa)).take r.2
    match s.paKind r.1 with
    | .peer d => s.peerWrite d r.1 part bad
    | _ => s.homeWrite r.1 part) s

/-- A word of a page table is written, an access of the system agent (R396). -/
def State.tableWrite (s : State) (at_ : Nat) (pte : DWord) : State := s.agentStore .system at_ (Memory.ofNat 8 pte.toNat)

/-- The pager installs a page with a leaf and the bytes that it fills the frame with (R416): bounced bytes go over them. -/
def execPagerInstall (asid page leaf : Nat) (fill : List Byte) (s : State) : Result :=
  match s.ctxs.look asid with
  | none => .next s
  | some c =>
    let pte : DWord := BitVec.ofNat 64 leaf
    match s.walk c (page * 65536) with
    | .absent 4 entry at_ =>
      if !(pte.getLsbD 0 && pte.getLsbD 1 && s.leafOk pte 4 && !pte.getLsbD 6) then .next s
      else
        let frame := leafFrame pte
        let slot := (entry.extractLsb' 16 12).toNat
        let bounced := if entry.getLsbD 5 then (c.bounce.lookD slot (page, [])).2 else []
        let here := fun (w : Nat) => w / 8192 == page
        let bad := fun (k : Nat) => c.bouncePoison.contains ((page * 65536 + k) / 8)
        let s := (s.freshFrame (frame / 65536)).frameWrite frame (fill.take 65536)
        -- the bounced writes are forwarded to subscribers of the page (R462), which it has in its table from here on
        let s := s.tableWrite at_ pte
        let s := bounced.foldl (fun s b => s.frameWrite (frame + b.1) [b.2] (bad b.1)) s
        let s := match s.paKind frame with
          | .peer _ => s
          | _ => (c.bouncePoison.filter here).foldl (fun s w => s.physPoison (frame + 8 * w % 65536) 8) s
        let s := s.modCtx asid fun c =>
          { c with
            bounce := if entry.getLsbD 5 then c.bounce.del slot else c.bounce
            bouncePoison := c.bouncePoison.filter fun w => !here w }
        execPagerResolved asid page s
    | _ => .next s

/-! ### Migration (R420 to R422) -/

/-- The migration of a page. -/
def State.migration (s : State) (asid page : Nat) : Option Migration :=
  s.migrations.find? fun m => m.asid == asid && m.page == page

/-- Change the migration of a page. -/
def State.modMigration (s : State) (asid page : Nat) (f : Migration → Migration) : State :=
  { s with migrations := s.migrations.map fun m => if m.asid == asid && m.page == page then f m else m }

/-- The migration of a page is gone. -/
def State.dropMigration (s : State) (asid page : Nat) : State :=
  { s with migrations := s.migrations.filter fun m => !(m.asid == asid && m.page == page) }

/-- The present level-4 leaf of a page, with its address. -/
def State.leafAt (s : State) (asid page : Nat) : Option (DWord × Nat) :=
  match s.ctxs.look asid with
  | none => none
  | some c =>
    match s.walk c (page * 65536) with
    | .leaf pte 16 at_ => some (pte, at_)
    | _ => none

/-- The PUBL of a split is still under way: it is at its instruction, in a team whose groups issue (R426). -/
def State.stillPubls (s : State) (w : Nat × Nat × DWord) : Bool :=
  match s.groups.look w.1 with
  | some g =>
    (g.splits.any fun sp => sp.tag == w.2.1 && sp.pc == w.2.2 && (sp.state == .ready || sp.state == .parked))
    && match s.teams.look g.team with
      | some t => t.state == .resident
      | none => false
  | none => false

/-- The PUBLs under way, in the order of their arrival (R426). -/
def State.publLine (s : State) : List (Nat × Nat × DWord) := s.publs.filter s.stillPubls

/-- The first PUBL under way looks again at its pages (R426). -/
def State.wakePubl (s : State) : State :=
  match s.publLine with
  | [] => s
  | w :: _ => s.modTag w.1 w.2.1 fun sp => sp.tagDone publTag

/-- PUBLs that are not under way any more leave the line, and the first one that stays looks again. -/
def State.prunePubls (s : State) : State :=
  if s.publs.all s.stillPubls then s
  else
    let gone := s.publs.filter fun w => !s.stillPubls w
    (gone.foldl (fun (s : State) w => s.modTag w.1 w.2.1 fun sp => sp.tagDone publTag) { s with publs := s.publLine }).wakePubl

/-- The pager marks a page migrating to a frame, which starts over (R420, R422). -/
def execMigrationStart (asid page frame : Nat) (s : State) : Result :=
  match s.leafAt asid page with
  | none => .next s
  | some (pte, at_) =>
    if pte.getLsbD 7 || pte.getLsbD 6 || 8 ≤ s.migrations.length || s.checkpointing
        || s.rangeKind (frame * 65536) == .nothing || 2 ^ 36 ≤ frame then .next s
    else
      let s := (s.freshFrame frame).tableWrite at_ (pte ||| BitVec.twoPow 64 6)
      .next { s with
        migrations := s.migrations ++ [{ asid := asid, page := page, frame := leafFrame pte / 65536, target := frame }]
        pmigs := s.pmigs.filter fun m => !(m.1 == asid && m.2.1 == page) }

/-- The bytes of a line that the migration engines read, with the places of its poisoned words: those in a peer are free (DESIGN CHOICE,
log entry 64). -/
def State.takeLine (s : State) (from_ : Nat) : State × List Byte × List Nat :=
  match s.rangeKind from_ with
  | .peer _ => ((s.peerBytes 128).1, (s.peerBytes 128).2, [])
  | _ => (s, Memory.bytes s.mem from_ 128, (List.range 16).filter fun k => s.memPoison.contains (from_ / 8 + k))

/-- The migration engines write a line with its poison, into a peer by posted writes of its words (R408, R420). -/
def State.putLine (s : State) (to_ : Nat) (bs : List Byte) (bad : List Nat) : State :=
  match s.rangeKind to_ with
  | .peer d =>
    { s with
      sent := s.sent ++ (List.range 16).map fun k => .write d ((to_ + 8 * k) % 2 ^ 40) ((bs.drop (8 * k)).take 8) (bad.contains k) }
  | _ =>
    let words := (List.range 16).map fun k => to_ / 8 + k
    { s with
      mem := Memory.setBytes s.mem to_ bs
      memPoison := (s.memPoison.filter fun w => !words.contains w) ++ bad.map fun k => to_ / 8 + k }

/-- Move a line of 128 bytes between frames, with its poison. -/
def State.moveLine (s : State) (from_ to_ : Nat) : State :=
  let x := s.takeLine from_
  x.1.putLine to_ x.2.1 x.2.2

/-- A line of a migrating page has a new home: no L1 has a copy of it, and no reuse entry a value read from the page (R82, R421). -/
def State.lineMoved (s : State) (m : Migration) (b : Nat) : State :=
  (s.dropLinesL1 fun l => l == m.frame * 512 + b || l == m.target * 512 + b).killPageEverywhere m.frame

/-- The leaf of a migrating page with M := 0 and, when given, another frame. -/
def State.clearMigrating (s : State) (m : Migration) (frame : Option Nat) : State :=
  match s.leafAt m.asid m.page with
  | some (pte, at_) =>
    if leafFrame pte / 65536 = m.frame ∧ pte.getLsbD 6 then
      let pte := pte &&& ~~~ (BitVec.twoPow 64 6)
      s.tableWrite at_ (match frame with
        | some f => (pte &&& ~~~ (BitVec.ofNat 64 (2 ^ 52 - 2 ^ 16))) ||| BitVec.ofNat 64 (f * 65536)
        | none => pte)
    else s
  | none => s

/-- An aborted migration whose lines are all back ends, and firmware records the failure (R422). -/
def State.abortDone (s : State) (m : Migration) : State :=
  (((s.clearMigrating m none).dropMigration m.asid m.page).report (.migrationFailed m.page)).wakePubl

/-- The migration engines move one line (R420, R422); `readable` says whether a line can be read back from the target, else it is
poisoned. Migrations wait while a checkpoint runs (R491). -/
def execMigrateLine (asid page : Nat) (readable : Bool) (s : State) : Result :=
  match s.migration asid page with
  | none => .next s
  | some m =>
    let line := fun (f b : Nat) => f * 65536 + 128 * b
    if s.checkpointing then .next s
    else if m.aborting then
      if m.bound = 0 then .next (s.abortDone m)
      else
        let b := m.bound - 1
        let s := s.modMigration asid page fun m => { m with bound := b }
        let s := (s.lineMoved m b).killPageEverywhere m.target
        let s := if readable then s.moveLine (line m.target b) (line m.frame b) else s.physPoison (line m.frame b) 128
        .next (if b = 0 then s.abortDone { m with bound := 0 } else s)
    else if 512 ≤ m.bound then .next s
    else
      let at_ := line m.frame m.bound
      let s := s.banks.keys.foldl (fun s b => s.drainLines b fun l => s.covers l (at_ / 128)) s
      let s := (s.lineMoved m m.bound).moveLine at_ (line m.target m.bound)
      .next (s.modMigration asid page fun m => { m with bound := m.bound + 1 })

/-- The ASID of a group. -/
def State.asidOf (s : State) (gid : Nat) : Option Nat :=
  match s.groups.look gid with
  | none => none
  | some g =>
    match s.teams.look g.team with
    | none => none
    | some t => (s.kernels.look t.kernel).map Kernel.asid

/-- Some access of a core that has translated is still to be performed or acknowledged: of those whose ASID, virtual address and
physical address a test names. -/
def State.accessesOut (s : State) (p : Option Nat → Nat → Nat → Bool) : Bool :=
  let entry := fun (gid : Nat) (e : StoreEntry) =>
    e.pieces.any fun x => x.kind == .global && p (s.asidOf gid) x.va.toNat x.addr
  s.groups.any (fun g => g.2.storeQ.any fun e => entry g.1 e)
  || s.cores.any (fun c =>
      c.2.inflight.any (fun f => entry f.group f.entry)
      || c.2.sluice.any fun e => e.2.reqs.any fun r =>
          (e.2.pend &&& BitVec.twoPow 32 r.lane) != 0 && p (s.asidOf e.2.group) r.va.toNat r.pa)
  || s.peerReqs.any fun r =>
      match r.2.entry with
      | some f => entry f.group f.entry
      | none => false

/-- The pager ends a migration (R420): the leaf names the new frame, the page's translations are gone, and, once every access
translated by them is performed, the old frame is free. It waits while a checkpoint runs (R491). -/
def execMigrationFinish (asid page : Nat) (s : State) : Result :=
  match s.migration asid page with
  | none => .next s
  | some m =>
    if m.bound < 512 ∨ m.aborting ∨ s.checkpointing ∨ s.accessesOut (fun _ _ pa => pa / 65536 == m.frame) then .next s
    else
      let s := s.clearMigrating m (some m.target)
      let s := s.dropTlb (coversRange asid (page * 65536) (page * 65536 + 65536))
      let s := (s.dropMigration asid page).killPageEverywhere m.frame
      .next ((s.freshFrame m.frame).freshFrame m.target).wakePubl

/-- A target that cannot be reached: the engines move the lines back (R422). -/
def execMigrationAbort (asid page : Nat) (s : State) : Result :=
  match s.migration asid page with
  | none => .next s
  | some m =>
    if m.bound = 0 then .next (s.abortDone m) else .next (s.modMigration asid page fun m => { m with aborting := true })

/-! ### PUBL (R426) -/

/-- Reuse entries of an ASID that touch virtual pages which a test names die everywhere (R251). -/
def State.killVirtual (s : State) (asid : Nat) (p : Nat → Bool) : State :=
  s.quads.keys.foldl (fun s q => s.killReuse q fun e => e.key.asid == asid && e.vpages.any p) s

/-- The leaf, its address and the twin of a page that can be published: a present level-4 leaf with S = 1 and a well-formed
twin (R426). -/
def State.publishable (s : State) (asid page : Nat) : Option (DWord × Nat × DWord) :=
  match s.leafAt asid page with
  | none => none
  | some (pte, at_) =>
    let twin := BitVec.ofNat 64 (s.physRead (at_ + 256) 8)
    if pte.getLsbD 7 && s.twinOk twin then some (pte, at_, twin) else none

/-- Exchange a page's leaf and twin (R426). -/
def State.swapTwin (s : State) (asid page : Nat) : State :=
  match s.publishable asid page with
  | none => s
  | some (pte, at_, twin) =>
    (s.tableWrite at_ (twin ||| BitVec.twoPow 64 7)).tableWrite (at_ + 256) (pte &&& ~~~ (BitVec.twoPow 64 7))

/-- A PUBL ends: the next one that has arrived has its turn (R426). -/
def State.publDone (s : State) (line : List (Nat × Nat × DWord)) : State :=
  ({ s with publs := line.drop 1 } : State).wakePubl

/-- Publish a buffer (R426). PUBLs take their turns in the order in which their checks have passed. The accesses that old entries translated
are performed before the exchange (DESIGN CHOICE, log entry 26). -/
def execPubl (a : BitVec 6) : State → Result :=
  gate { gr := [a.toNat], ends := true, memory := true } fun cx s =>
    let at_ := cx.grp.greg a.toNat
    match s.readRecord cx cx.sp.firmware at_ 16 16 at_ with
    | .stop s => .next s
    | .bytes s bs =>
      let base := field bs 0 8
      let count := field bs 8 8
      if base % 65536 ≠ 0 ∨ 2 ^ 56 ≤ base ∨ count = 0 ∨ 512 < count then .next (s.trapAll cx .perm at_)
      else
        let pages := (List.range count).map fun k => base / 65536 + k
        let s := pages.foldl (fun s p => s.walkTouch cx.asid (p * 65536)) s
        match pages.find? fun p => (s.publishable cx.asid p).isNone with
        | some p => .next (s.trapAll cx .perm (BitVec.ofNat 64 (p * 65536)))
        | none =>
          let frames := pages.flatMap fun p =>
            match s.publishable cx.asid p with
            | some (pte, _, twin) => [leafFrame pte / 65536, leafFrame twin / 65536]
            | none => []
          let moving := pages.any fun p => (s.migration cx.asid p).isSome
          let line := if s.publLine.contains cx.waiter then s.publLine else s.publLine ++ [cx.waiter]
          let s := { s with publs := line }
          if moving || line.head? != some cx.waiter then .next (s.park cx.gid cx.sp.tag [publTag])
          else if s.releaseWaits cx 5 then .next (s.parkRelease cx 5)
          else
            match cx.postedTrap 5 with
            | some t => .next (((s.modGroup cx.gid fun g => { g with postedFault := none }).raiseTrap cx t).publDone line)
            | none =>
              if s.accessesOut (fun _ _ pa => frames.contains (pa / 65536)) then .next s
              else
                let s := pages.foldl (fun s p => s.swapTwin cx.asid p) s
                let s := s.dropTlb (coversRange cx.asid base (base + 65536 * count))
                let s := (s.killVirtual cx.asid fun p => pages.contains p).dropLinesL1 fun l => frames.contains (l / 512)
                .next ((s.retireG cx 28).publDone line)

/-! ### TLBI (R427) -/

/-- Drop the translations of virtual addresses in [lo, hi) of one ASID, or of all, and go on once every access translated by them is
performed (R427). -/
def tlbiOp (use : Uses) (bad : Cx → Option DWord) (who : Cx → Option Nat) (range : Cx → Nat × Nat) : State → Result :=
  gate { use with firmware := true } fun cx s =>
    match bad cx with
    | some x => .next (s.trapAll cx .perm x)
    | none =>
      let r := range cx
      let asidOk := fun (x : Nat) => match who cx with
        | some y => x == y
        | none => true
      let s := s.dropTlb fun e => asidOk e.asid && decide (e.vpage * 2 ^ e.bits < r.2) && decide (r.1 < (e.vpage + 1) * 2 ^ e.bits)
      let inside := fun (page : Nat) => decide (page * 65536 < r.2) && decide (r.1 < (page + 1) * 65536)
      let s := s.quads.keys.foldl (fun s q => s.killReuse q fun e => asidOk e.key.asid && e.vpages.any inside) s
      if s.accessesOut (fun x va _ => x.any asidOk && inside (va / 65536)) then .next s else .next (s.retireG cx 28)

/-- The aligned range of a size that holds G[a]. -/
def tlbiRange (a : BitVec 6) (size : Nat) (cx : Cx) : Nat × Nat :=
  let base := (cx.grp.greg a.toNat).toNat / size * size
  (base, base + size)

/-- Every address. -/
def everyAddress (_ : Cx) : Nat × Nat := (0, 2 ^ 64)

/-- Drop the translations of one page. -/
def execTlbiPage (a : BitVec 6) : State → Result :=
  tlbiOp { gr := [a.toNat] } (fun _ => none) (fun cx => some cx.asid) (tlbiRange a 65536)

/-- Drop the translations of an ASID. -/
def execTlbiAsid (a : BitVec 6) : State → Result :=
  tlbiOp { gr := [a.toNat] } (fun cx => if 65536 ≤ (cx.grp.greg a.toNat).toNat then some (cx.grp.greg a.toNat) else none) (fun cx => some (cx.grp.greg a.toNat).toNat) everyAddress

/-- Drop every translation. -/
def execTlbiAll : State → Result := tlbiOp {} (fun _ => none) (fun _ => none) everyAddress

/-- Drop the translations of a 2 MiB range. -/
def execTlbi2m (a : BitVec 6) : State → Result :=
  tlbiOp { gr := [a.toNat] } (fun _ => none) (fun cx => some cx.asid) (tlbiRange a (2 ^ 21))

/-- Drop the translations of a 1 GiB range. -/
def execTlbi1g (a : BitVec 6) : State → Result :=
  tlbiOp { gr := [a.toNat] } (fun _ => none) (fun cx => some cx.asid) (tlbiRange a (2 ^ 30))

/-! ### PMIG and PCLASS (R428, R429) -/

/-- A page can migrate: a present level-4 leaf, not SHADOWED, not MIGRATING (R428). -/
def State.canMigrate (s : State) (asid page : Nat) : Bool :=
  match s.leafAt asid page with
  | some (pte, _) => !pte.getLsbD 7 && !pte.getLsbD 6
  | none => false

/-- Ask the pager to migrate a page (R428). -/
def execPmig (a b : BitVec 6) : State → Result :=
  gate { gr := [a.toNat, b.toNat] } fun cx s =>
    let va := cx.grp.greg a.toNat
    let target := cx.grp.greg b.toNat
    if !canonical va.toNat || (inWindow va.toNat && !cx.sp.firmware) then .next (s.trapAll cx .perm va)
    else if !(target.toNat ≤ 1 || (0x40 ≤ target.toNat && target.toNat < 0x80)) then .next (s.trapAll cx .perm target)
    else
      let m := (cx.asid, va.toNat / 65536, target.toNat)
      let s := s.walkTouch cx.asid va.toNat
      let s := if s.canMigrate cx.asid (va.toNat / 65536) && !s.pmigs.contains m then { s with pmigs := s.pmigs ++ [m] } else s
      .next (s.retireG cx 28)

/-- OKIND and ONUM of an accessor (R429). -/
def Accessor.code (a : Accessor) : Nat × Nat :=
  match a with
  | .core c => (0, c)
  | .host => (1, 0)
  | .peer d => (2, d)
  | .system => (3, 0)

/-- OKIND, ONUM and CLASS of a class record (R429). -/
def classCode (r : Option ClassRec) : Nat × Nat × Nat :=
  match r with
  | none => (0, 0, 0)
  | some r =>
    match r.cls with
    | .priv o _ => (o.code.1, o.code.2, 1)
    | .readOnly => (0, 0, 2)
    | .shared => (0, 0, 3)

/-- The B bit of the level-4 entry that a walk has read, if it is not present (R429). -/
def State.bounceBit (s : State) (c : Ctx) (v : Nat) : Bool :=
  match s.walkTrail v (c.ptbase.toNat / 4096 * 4096) 0 5 with
  | [_, _, _, _, at_] => (s.physRead at_ 8) % 2 == 0 && s.physRead at_ 8 / 2 ^ 5 % 2 == 1
  | _ => false

/-- The snapshot of R429 for the end of a walk, with the B bit found. -/
def State.classWord (s : State) (w : WalkEnd) (v : Nat) (b : Bool) : DWord :=
  match w with
  | .leaf pte bits _ =>
    let pa := leafFrame pte + v % 2 ^ bits
    let c := match s.rangeKind pa with
      | .device => classCode (s.classes.look (pa / 65536))
      | _ => (0, 0, 0)
    let size := if bits = 30 then 2 else if bits = 21 then 1 else 0
    BitVec.ofNat 64
      (c.1 * 2 ^ 18 + c.2.1 % 256 * 2 ^ 10 + c.2.2 * 2 ^ 8 + (pte.getLsbD 7).toNat * 2 ^ 7 + (pte.getLsbD 6).toNat * 2 ^ 6
        + size * 2 ^ 3 + 1)
  | _ => BitVec.ofNat 64 (b.toNat * 2 ^ 5)

/-- Snapshot of a page's class (R429). -/
def execPclass (a b : BitVec 6) : State → Result :=
  gate { gr := [a.toNat], gw := [b.toNat] } fun cx s =>
    let va := cx.grp.greg a.toNat
    if !canonical va.toNat then .next (s.trapAll cx .noncanon va)
    else if inWindow va.toNat && !cx.sp.firmware then .next (s.trapAll cx .perm va)
    else
      let w := s.classWord (s.walk cx.ctx va.toNat) va.toNat (s.bounceBit cx.ctx va.toNat)
      let s := s.walkTouch cx.asid va.toNat
      .next ((s.modGroup cx.gid fun g => g.setG b.toNat w).retireG cx 28)

end Sys2Proof.Machine
end

