-- ==== Sys2Proof/Machine/Collective.lean ====
section
/-! DEFINITION. Ring collectives (R464 to R468). A collective is named by the physical address of its descriptor. -/

namespace Sys2Proof.Machine

/-! ### Descriptors (R464) -/

/-- Bytes of an element of an operation (R464). -/
def collSize (op : Nat) : Nat :=
  match op with
  | 1 => 2
  | 2 => 8
  | _ => 4

/-- The collective is an all-gather. -/
def Collective.gather (c : Collective) : Bool := c.op == 4

/-- Ranks of the ring. -/
def Collective.ranks (c : Collective) : Nat := c.ring.length

/-- Steps of a collective over n ranks (R465). -/
def collSteps (op n : Nat) : Nat := if op = 4 then n - 1 else 2 * n - 2

/-- A collective descriptor with the first bytes of its ring (R464); none when it breaks a rule. -/
def collOf (asid : Nat) (bs ring : List Byte) : Option Collective :=
  let w := field bs 0x2C 4
  let n := w / 2 ^ 16 % 128
  let rank := w / 2 ^ 8 % 64
  let c : Collective :=
    { asid := asid
      src := BitVec.ofNat 64 (field bs 0 8)
      dst := BitVec.ofNat 64 (field bs 8 8)
      caddr := BitVec.ofNat 64 (field bs 0x18 8)
      stepAddr := BitVec.ofNat 64 (field bs 0x20 8)
      cval := BitVec.ofNat 32 (field bs 0x28 4)
      ring := (ring.take n).map BitVec.toNat
      rank := rank
      shadow := w / 2 ^ 4 % 2 == 1
      op := w % 16
      count := field bs 0x30 8
      origRing := (ring.take n).map BitVec.toNat }
  let es := collSize c.op
  let ok := w / 2 ^ 23 == 0 && w / 2 ^ 14 % 4 == 0 && w / 2 ^ 5 % 8 == 0 && field bs 0x38 8 == 0 && field bs 0x18 8 < 2 ^ 56
    && field bs 0x20 8 < 2 ^ 56 && c.caddr.toNat % 4 == 0 && c.stepAddr.toNat % 4 == 0 && field bs 0x28 4 ≤ 0xFFFFFEFF
    && 2 ≤ n && n ≤ 64 && rank < n && c.op ≤ 4 && 1 ≤ c.count && c.count < 2 ^ 32 && c.src.toNat % es == 0 && c.dst.toNat % es == 0
    && field bs 0x10 8 % 64 == 0 && c.ring.getD rank 64 == Config.deviceNumber.toNat
  if ok then some c else none

/-- Elements that DST holds (R464): the all-gather has a segment for each rank of the original ring. -/
def Collective.dstCount (c : Collective) : Nat := if c.gather then c.origRing.length * c.count else c.count

/-- The 64 KiB pages of DST. -/
def Collective.dstPages (c : Collective) : List Nat :=
  let lo := c.dst.toNat / 65536
  let hi := (c.dst.toNat + c.dstCount * collSize c.op - 1) / 65536
  (List.range (hi + 1 - lo)).map (lo + ·)

/-! ### One step (R465, R466) -/

/-- The position in the original ring of a position of the ring. -/
def Collective.origPos (c : Collective) (p : Nat) : Nat := (c.origRing.findIdx? fun d => d == c.ring.getD p 64).getD p

/-- The elements of a chunk, as first element and count (R465); a segment of an all-gather is that of the original position (R466). -/
def Collective.chunk (c : Collective) (k : Nat) : Nat × Nat :=
  if c.gather then (c.origPos k * c.count, c.count)
  else
    let lo := k * c.count / c.ranks
    (lo, (k + 1) * c.count / c.ranks - lo)

/-- The sum of two elements (R465): x is the left operand. -/
def collSum (op x y : Nat) : Nat :=
  match op with
  | 0 => (fp32.add x y).1
  | 1 => (bf16.add x y).1
  | 2 => (fp64.add x y).1
  | _ => (x + y) % 2 ^ 32

/-- Add element by element two runs of n elements of a size. -/
def collAdd (op size n : Nat) (x y : List Byte) : List Byte :=
  (List.range n).flatMap fun k =>
    let el := fun (bs : List Byte) => Memory.toNat ((bs.drop (size * k)).take size)
    Memory.ofNat size (collSum op (el x) (el y))

/-- The chunk that step s sends, the one it receives, and whether it adds (R465). -/
def Collective.plan (c : Collective) (s : Nat) : Nat × Nat × Bool :=
  let n := c.ranks
  let back := fun (k : Nat) => (c.rank + 2 * n - k) % n
  if c.gather then (back s, back (s + 1), false)
  else if s < n - 1 then (back s, back (s + 1), true)
  else
    let t := s - (n - 1)
    ((c.rank + 1 + 2 * n - t) % n, (c.rank + 2 * n - t) % n, false)

/-- Address of element e of a buffer. -/
def Collective.at_ (c : Collective) (base : DWord) (e : Nat) : Nat := base.toNat + e * collSize c.op

/-- Step 0 first places SRC in W, and, over a shorter ring, the old values of DST at the segments of the ranks that it omits (R465,
R466). -/
def State.collPlace (s : State) (c : Collective) : EngineDone Unit :=
  let es := collSize c.op
  let old : List Nat := if c.gather && c.ring != c.origRing then
      (List.range c.origRing.length).filter fun p => !c.ring.contains (c.origRing.getD p 64)
    else []
  let first := if c.gather then c.origPos c.rank * c.count else 0
  ((s.engineRead c.asid c.src.toNat (c.count * es) false).then fun s x =>
    s.engineWrite c.asid (c.at_ c.dst first) x.1 c.shadow x.2).then fun s _ =>
      old.foldl (fun acc p => acc.then fun s _ =>
        (s.engineRead c.asid (c.at_ c.dst (p * c.count)) (c.count * es) false).then fun s x =>
          s.engineWrite c.asid (c.at_ c.dst (p * c.count)) x.1 c.shadow x.2) (.ok s ())

/-- Send and receive of a step (R465), with the data received from the position before. -/
def State.collMove (s : State) (key : Nat) (c : Collective) (data : List Byte) : EngineDone Unit :=
  let es := collSize c.op
  let p := c.plan c.finished
  let out := c.chunk p.1
  let into := c.chunk p.2.1
  (s.engineRead c.asid (c.at_ c.dst out.1) (out.2 * es) c.shadow).then fun s x =>
    let s := { s with sent := s.sent ++ [PeerMessage.chunk (c.ring.getD ((c.rank + 1) % c.ranks) 64) key c.finished x.1] }
    if p.2.2 then
      (s.engineRead c.asid (c.at_ c.src into.1) (into.2 * es) false).then fun s y =>
        s.engineWrite c.asid (c.at_ c.dst into.1) (collAdd c.op es into.2 data y.1) c.shadow y.2
    else s.engineWrite c.asid (c.at_ c.dst into.1) data c.shadow false

/-- The request by which a collective's next step waits for its neighbour (R460, R466): one while a step is issued and not
complete. -/
def State.collArm (s : State) (key : Nat) : State :=
  match s.colls.look key with
  | none => s
  | some c =>
    let s := { s with peerReqs := s.peerReqs.filter fun r => r.2.coll != some key }
    if c.finished < c.issued ∧ c.failed.isNone ∧ !c.done then
      { s with
        peerReqs := s.peerReqs.put s.uid
          { device := c.ring.getD ((c.rank + 1) % c.ranks) 64, sent := s.time.toNat, core := 0, tag := none, lanes := 0
            asid := c.asid, coll := some key }
        uid := s.uid + 1 }
    else s

/-- After the last step: the shadow mode exchanges DST and its twins, then CVAL is written (R465, R466). -/
def State.collFinish (s : State) (c : Collective) : EngineDone Unit :=
  let s := if c.shadow then
      let s := c.dstPages.foldl (fun s p => s.swapTwin c.asid p) s
      let lo := c.dst.toNat / 65536 * 65536
      let s := s.dropTlb (coversRange c.asid lo (lo + 65536 * c.dstPages.length))
      s.killVirtual c.asid fun p => c.dstPages.contains p
    else s
  s.collWord c.asid c.caddr c.cval.toNat

/-- A collective has taken its last step: its entry goes, unless issued steps of the original ring may still come (R466). -/
def Collective.over (c : Collective) : Bool := c.issued = collSteps c.op c.origRing.length

/-- The collective engine completes a step, with the data received (R465): the step word follows, and after the last step the
completion word. -/
def execCollectiveStepComplete (key : Nat) (data : List Byte) (s : State) : Result :=
  match s.colls.look key with
  | none => .next s
  | some c =>
    if c.done then .next s
    else if c.failed.isSome then .next (s.collEnd key)
    else
      let es := collSize c.op
      let last := collSteps c.op c.ranks
      let into := c.chunk (c.plan c.finished).2.1
      let frames := c.dstPages.flatMap fun p =>
        match s.publishable c.asid p with
        | some (pte, _, twin) => [leafFrame pte / 65536, leafFrame twin / 65536]
        | none => []
      let ending := c.finished + 1 = last
      if c.issued ≤ c.finished ∨ last ≤ c.finished ∨ data.length ≠ into.2 * es then .next s
      else if ending ∧ c.shadow ∧ s.accessesOut (fun _ _ pa => frames.contains (pa / 65536)) then .next s
      else
        let run := ((if c.finished = 0 then s.collPlace c else .ok s ()).then fun s _ => s.collMove key c data).then fun s _ =>
          (s.collWord c.asid c.stepAddr (c.finished + 1)).then fun s _ => if ending then s.collFinish c else .ok s ()
        match run with
        | .wait va k => .next ((s.collHold key data).collWait key c.asid va k)
        | .stay => .next (s.collHold key data)
        | .fault cause va =>
          .next ((((s.walkTouch c.asid va).trapRecord c.asid { time := s.time, addr := BitVec.ofNat 64 va, cause := cause }).faultCtx c.asid).collFail key c.rank)
        | .ok s _ =>
          let c' := { c with finished := c.finished + 1, teams := c.teams.drop 1, done := decide ending, held := none }
          if ending ∧ c'.over then
            .next { s with colls := s.colls.del key, peerReqs := s.peerReqs.filter fun r => r.2.coll != some key }
          else .next (({ s with colls := s.colls.put key c' } : State).collArm key)

/-! ### COLL (R468) -/

/-- Collectives in flight. -/
def State.collsInFlight (s : State) : Nat := (s.colls.filter fun c => !c.2.done).length

/-- The first page of DST that breaks the rule of the shadow mode (R464). -/
def State.badShadowPage (s : State) (c : Collective) : Option Nat := c.dstPages.find? fun p => (s.publishable c.asid p).isNone

/-- Issue step G[b] of the collective whose descriptor lies at G[a] (R468). -/
def execColl (a b : BitVec 6) : State → Result :=
  gate { gr := [a.toNat, b.toNat], memory := true } fun cx s =>
    let at_ := cx.grp.greg a.toNat
    let step := (cx.grp.greg b.toNat).toNat
    match s.readRecord cx cx.sp.firmware at_ 64 64 at_ with
    | .stop s => .next s
    | .bytes s bs =>
      let ringAt : DWord := BitVec.ofNat 64 (field bs 0x10 8)
      if ringAt.toNat % 64 ≠ 0 then .next (s.trapAll cx .perm at_)
      else
        match s.readRecord cx cx.sp.firmware ringAt 64 64 ringAt with
        | .stop s => .next s
        | .bytes s ring =>
          match collOf cx.asid bs ring, s.checkGlobal cx.core cx.asid cx.sp.firmware at_.toNat 64 64 .read with
          | some c, .ok key _ _ =>
            let old := match s.colls.look key with
              | some o => if o.done && step == 0 then none else some o
              | none => none
            let next := match old with
              | some o => o.issued
              | none => 0
            if s.paKind key != .device || collSteps c.op c.ranks ≤ step then .next (s.trapAll cx .perm at_)
            else if step ≠ next then .next (s.trapAll cx .perm at_)
            else
              match (if step = 0 ∧ c.shadow then s.badShadowPage c else none) with
              | some p => .next (s.trapAll cx .perm (BitVec.ofNat 64 (p * 65536)))
              | none =>
                if old.isNone ∧ 64 ≤ s.collsInFlight then .next s
                else if cx.sp.drainArmed && !s.drained cx then .next (s.parkStores cx [storeTag])
                else
                  let base := old.getD c
                  let c' := { base with
                    issued := step + 1
                    teams := if base.done then base.teams else base.teams ++ [cx.uid] }
                  let s := if c'.done && c'.over then { s with colls := s.colls.del key }
                    else ({ s with colls := s.colls.put key c' } : State)
                  let s := if c'.issued = c'.finished + 1 then s.collArm key else s
                  .next ((s.retireG cx 28).modTag cx.gid cx.sp.tag fun sp => { sp with drainArmed := false })
          | _, _ => .next (s.trapAll cx .perm at_)

/-! ### CREFORM and CABORT (R466, R487) -/

/-- The failed collective in shadow mode that a command names by an ASID and a descriptor address, or the status (R485, R487). -/
def State.failedColl (s : State) (asid addr : Nat) : (Nat × Collective) ⊕ Status :=
  match s.checkSystem asid addr 64 64 .read with
  | .cause _ => .inr .badDesc
  | .ok key _ _ =>
    match s.colls.look key with
    | none => .inr .badState
    | some c =>
      if c.asid ≠ asid then .inr .perm
      else if c.failed.isNone ∨ !c.shadow then .inr .badState
      else .inl (key, c)

/-- The elements of xs all occur in ys, in the same order. -/
def inOrder (xs ys : List Nat) : Bool :=
  match xs, ys with
  | [], _ => true
  | _, [] => false
  | x :: xs', y :: ys' => if x = y then inOrder xs' ys' else inOrder (x :: xs') ys'

/-- CREFORM: the collective starts again over a ring without the failed ranks (R466). -/
def execCollReform (payload : List Byte) : State → Result :=
  mailboxOp payload [(0, 2), (8, 8), (0x10, 64), (0x50, 1), (0x51, 1)] fun s =>
    match s.failedColl (field payload 0 2) (field payload 8 8) with
    | .inr x => s.answer x
    | .inl (key, c) =>
      let n := field payload 0x50 1
      let rank := field payload 0x51 1
      let ring := (((payload.drop 0x10).take 64).take n).map BitVec.toNat
      let lost := c.ring.getD (c.failed.getD 0) 64
      if n < 2 ∨ 64 < n ∨ n ≤ rank ∨ ring.getD rank 64 ≠ Config.deviceNumber.toNat ∨ !inOrder ring c.ring ∨ ring.contains lost then
        s.answer .badDesc
      else
        let c' := { c with ring := ring, rank := rank, finished := 0, failed := none, held := none }
        (({ s with colls := s.colls.put key c' } : State).collArm key).answer .ok

/-- CABORT: the twins are left, and the completion word names the lowest failed position (R466). -/
def execCollAbort (payload : List Byte) : State → Result :=
  mailboxOp payload [(0, 2), (8, 8)] fun s =>
    match s.failedColl (field payload 0 2) (field payload 8 8) with
    | .inr x => s.answer x
    | .inl (key, c) =>
      let gone := { s with colls := s.colls.del key, peerReqs := s.peerReqs.filter fun r => r.2.coll != some key }
      if c.caddr = 0 then gone.answer .ok
      else
        match gone.engineWrite c.asid c.caddr.toNat (Memory.ofNat 4 (0xFFFFFF00 + c.failed.getD 0)) false false with
        | .ok s _ => s.answer .ok
        | _ => s.answer .badDesc

end Sys2Proof.Machine
end

