-- ==== Sys2Proof/Machine/Context.lean ====
section
/-! DEFINITION. Regions, the commands on contexts, and soft errors (R141 to R143, R150, R170, R171, R487). -/

namespace Sys2Proof.Machine

/-! ### Regions (R170, R171) -/

/-- The 256 bytes of a region slot (R170). -/
def regionBytes (next : DWord) (n depth first : Nat) (vals : List DWord) : List Byte :=
  let head := Memory.ofNat 8 next.toNat ++ [BitVec.ofNat 8 (n - 1 + 16 * depth), BitVec.ofNat 8 first] ++ List.replicate 6 0
    ++ vals.flatMap fun x => Memory.ofNat 8 x.toNat
  head ++ List.replicate (256 - head.length) 0

/-- Write the group's region slot and enter an idempotent region (R170). -/
def execRegion (a : BitVec 6) (n : BitVec 4) : State → Result :=
  gate { gr := regRun a.toNat (n.toNat + 1), ends := true, memory := true } fun cx s =>
    let va := regionAddr cx.ctx cx.team.slot cx.grp.index
    let end_ := s.checkGlobal cx.core cx.asid true va 256 256 .write
    let s := s.learnIf cx.core cx.asid true va 256 256
    match end_ with
    | .cause .page => .next (s.parkFault cx (BitVec.ofNat 64 va) .write)
    | .cause c => .next (s.trapAll cx c (BitVec.ofNat 64 va))
    | .ok pa _ _ =>
      if !s.homeReady (.core cx.core) pa true then .next (s.homeTouch (.core cx.core) pa true)
      else
        let vals := (regRun a.toNat (n.toNat + 1)).map cx.grp.greg
        let bs := regionBytes (cx.sp.pc + 4) (n.toNat + 1) cx.grp.depth.toNat a.toNat vals
        let s := (s.homeTouch (.core cx.core) pa true).coreWrite pa bs
        let s := (s.dropL1 cx.core pa).dropL1 cx.core (pa + 128)
        .next ((s.modGroup cx.gid fun g => { g with region := true }).retireG cx 27)

/-- Leave the idempotent region (R171). -/
def execRegx : State → Result := groupOp 27 {} fun cx s => s.modGroup cx.gid fun g => { g with region := false }

/-! ### Contexts (R141, R142, R487) -/

/-- Context slots in use. -/
def State.slotsUsed (s : State) : List Nat := s.ctxs.filterMap fun p => p.2.slot

/-- A free context slot, if there is one; which of them is open (DESIGN CHOICE, log entry 24). -/
def State.freeCtxSlot (s : State) : Option (Nat × State) :=
  match (List.range 32).filter fun k => !s.slotsUsed.contains k with
  | [] => none
  | free => some (free.getD ((Config.freeValue s.fresh).toNat % free.length) 0, { s with fresh := s.fresh + 1 })

/-- The context that a BIND payload describes (R142, R487); none when a value breaks its rule. -/
def State.ctxOf (s : State) (p : List Byte) (slot : Nat) : Option Ctx :=
  let c : Ctx :=
    { slot := some slot
      maxteams := field p 2 2 + 1
      tqsize := BitVec.ofNat 64 (2 ^ field p 4 1)
      ptbase := BitVec.ofNat 64 (field p 8 8)
      tqbase := BitVec.ofNat 64 (field p 0x10 8)
      savebase := BitVec.ofNat 64 (field p 0x18 8)
      regbase := BitVec.ofNat 64 (field p 0x20 8)
      stkbase := BitVec.ofNat 64 (field p 0x28 8)
      spillbase := BitVec.ofNat 64 (field p 0x30 8) }
  let ok := field p 2 2 ≤ 16383 && 4 ≤ field p 4 1 && field p 4 1 ≤ 16
    && c.ptbase.toNat % 4096 == 0 && c.ptbase.toNat < 2 ^ 52 && s.rangeKind c.ptbase.toNat == .device
    && windowBase c.tqbase 64 && windowBase c.savebase 65536 && windowBase c.regbase 4096 && windowBase c.stkbase 2048
    && spillBaseOk c.spillbase
  if ok then some c else none

/-- The payload fields of BIND (R487). -/
def bindFields : List (Nat × Nat) := [(0, 2), (2, 2), (4, 1), (8, 8), (0x10, 8), (0x18, 8), (0x20, 8), (0x28, 8), (0x30, 8)]

/-- BIND (R141, R142): a new context, or a SUSPENDED one again, which keeps its registers. -/
def execCtxBind (payload : List Byte) : State → Result :=
  mailboxOp payload bindFields fun s =>
    let asid := field payload 0 2
    let out := fun (k : Nat) => [BitVec.ofNat 8 k]
    if asid = 0 then s.answer .badDesc
    else
      match s.ctxs.look asid, s.freeCtxSlot with
      | some c, free =>
        if c.state ≠ .suspended then s.answer .badState
        else
          match free with
          | none => s.answer .noSlot
          | some (k, s) =>
            (s.modCtx asid fun c =>
              { c with slot := some k, state := if c.wasFaulted then .faulted else .active, wasFaulted := false }).answer .ok (out k)
      | none, free =>
        if (s.ctxOf payload 0).isNone then s.answer .badDesc
        else
          match free with
          | none => s.answer .noSlot
          | some (k, s) =>
            match s.ctxOf payload k with
            | none => s.answer .badDesc
            | some c => (({ s with ctxs := s.ctxs.put asid c } : State).setSpillbase asid c.spillbase).answer .ok (out k)

/-- A command on a context that is not UNBOUND (R141). -/
def ctxCommand (payload : List Byte) (f : Nat → Ctx → State → State) : State → Result :=
  mailboxOp payload [(0, 2)] fun s =>
    match s.ctxs.look (field payload 0 2) with
    | none => s.answer .badState
    | some c => f (field payload 0 2) c s

/-- SUSPEND, a background command (R141, R163): dispatch stops, and every resident team is saved or discarded. -/
def execCtxSuspend (payload : List Byte) : State → Result :=
  ctxCommand payload fun asid c s =>
    if c.state ≠ .active ∧ c.state ≠ .faulted then s.answer .badState
    else
      let s := s.modCtx asid fun c => { c with state := .suspending, wasFaulted := c.state == .faulted }
      let kernels := (s.kernels.filter fun k => k.2.asid == asid).map Prod.fst
      let teams := s.teams.filter fun t => kernels.contains t.2.kernel
      (teams.foldl (fun s t => s.preempt t.1) s).background (.suspend asid)

/-- The last team of a SUSPENDING context is saved or discarded: it is SUSPENDED, and its slot is free (R141). -/
def execCtxSuspendComplete (asid : Nat) (s : State) : Result :=
  if s.mailbox.background = some (.suspend asid) ∧ !s.teamsOn (fun k => k.asid == asid) then
    .next ((s.modCtx asid fun c => if c.state = .suspending then { c with state := .suspended, slot := none } else c).backgroundDone .ok)
  else .next s

/-- CLEAR (R141). -/
def execCtxClear (payload : List Byte) : State → Result :=
  ctxCommand payload fun asid c s =>
    if c.state = .faulted then (s.modCtx asid fun c => { c with state := .active }).answer .ok else s.answer .badState

/-- Let the stores and CPY.ST copies that a team has issued go on without it (R157 step 2): its queues empty, and what of its
CPY.ST can land does. -/
def State.flushTeam (s : State) (uid : Nat) : State :=
  match s.teams.look uid with
  | none => s
  | some t =>
    let s := (s.teamGroups uid).foldl (fun s p => p.2.storeQ.foldl (fun s _ => s.retireStore p.1) s) s
    let slots := ((s.core t.core).copies.filter fun r => r.2.team == uid && r.2.kind == .store).map Prod.fst
    let s := slots.foldl (fun s k => s.landCopy t.core k 0 (2 ^ 20)) s
    s.modCore t.core fun c => { c with copies := c.copies.filter fun r => r.2.team != uid }

/-- A context is UNBOUND (R141, R182, R198, R414, R417, R440): its queues are destroyed, its teams discarded with no restart, its
page requests, spillway, bounce buffer, pub regions and collectives gone, and its ASID released. The TLBs keep their
entries. -/
def State.destroyCtx (s : State) (asid : Nat) : State :=
  let kernels := (s.kernels.filter fun k => k.2.asid == asid).map Prod.fst
  let teams := (s.teams.filter fun t => kernels.contains t.2.kernel).map Prod.fst
  let queues := (s.queues.filter fun q => q.2.asid == asid).map Prod.fst
  let s := teams.foldl (fun s u => (s.flushTeam u).retireTeam u) s
  let s := queues.foldl (fun s q => s.destroyQueue q) s
  { s with
    ctxs := s.ctxs.del asid
    teams := s.teams.filter fun t => !kernels.contains t.2.kernel
    kernels := s.kernels.filter fun k => k.2.asid != asid
    pageReqs := s.pageReqs.filter fun q => q.asid != asid
    pmigs := s.pmigs.filter fun m => m.1 != asid
    spillways := s.spillways.del asid
    pubs := s.pubs.filter fun p => p.2.asid != asid
    colls := s.colls.filter fun c => c.2.asid != asid }

/-- DESTROY (R141). -/
def execCtxDestroy (payload : List Byte) : State → Result := ctxCommand payload fun asid _ s => (s.destroyCtx asid).answer .ok

/-! ### Soft errors (R150, R242, R316, R374) -/

/-- Poison a physical register (R242): its reuse entries die, and every register that it names reads as poisoned. -/
def State.poisonName (s : State) (q name : Nat) : State :=
  let s := s.killReuse q fun e => e.names.contains name
  let s := s.modQuad q fun x => { x with pool := x.pool.upd name fun p => { p with poison := true } }
  { s with
    groups := s.groups.map fun p =>
      match s.teams.look p.2.team with
      | some t =>
        if quadOf t p.2 = q then
          (p.1, { p.2 with
            vPoison := ((List.range 64).filter fun r => Bits.rd p.2.names r 2048 == name).foldl
              (fun m r => m ||| BitVec.twoPow 64 r) p.2.vPoison })
        else p
      | none => p }

/-- Every split of a group stops, with a record of cause SOFT_ERROR and ADDR 0 for the group, and the context goes FAULTED
(R147, R150). The record is written once every reply owed to the group has arrived (R222), and names its first split. -/
def State.stopGroup (s : State) (gid : Nat) : State :=
  match s.groups.look gid with
  | none => s
  | some g =>
    match g.splits, s.teams.look g.team with
    | sp :: _, some t =>
      let owed := g.splits.flatMap fun x => s.owed t.core gid x.tag
      let stop := fun (x : Split) =>
        if x.tag = sp.tag then
          { x.stop with
            state := .parked
            parkOn := owed
            pendingTrap := some { cause := .softError, lanes := sp.mask, time := s.time, stop := true } }
        else x.stop
      let s := g.splits.foldl (fun s x => s.dropFaults (quadOf t g) gid x.tag) s
      let s := s.modGroup gid fun g => { g with res := g.res.map fun p => (p.1, stop p.2), stack := g.stack.map stop }
      if owed.isEmpty then s.later (.trapDelivery gid sp.tag) else s
    | _, _ => s

/-- The data at a site is poisoned, or the entry there is lost (R150). -/
def State.softError (s : State) (x : ErrorSite) : State :=
  match x with
  | .memory a => s.physPoison a 1
  | .vector q n => s.poisonName q n
  | .group gid r => s.modGroup gid fun g => { g with gPoison := g.gPoison ||| BitVec.twoPow 64 r }
  | .mask gid k => s.modGroup gid fun g => { g with mPoison := g.mPoison ||| BitVec.twoPow 8 k }
  | .rejoin gid k => s.modGroup gid fun g => { g with jPoison := g.jPoison ||| BitVec.twoPow 8 k }
  | .scratch u off => s.modTeam u fun t => t.scratchPoisonAt off 1
  | .tile u e => s.modTeam u fun t => { t with accPoison := if t.accPoison.contains e then t.accPoison else e :: t.accPoison }
  | .scale c off => s.modCore c fun c =>
      { c with scalePoison := if c.scalePoison.contains (off / 2) then c.scalePoison else c.scalePoison ++ [off / 2] }
  | .l1 c line unit => s.modCore c fun c =>
      { c with l1 := c.l1.upd line fun l => { l with poison := l.poison ||| BitVec.twoPow 16 unit } }
  | .storeQueue gid e p => s.modGroup gid fun g =>
      { g with storeQ := g.storeQ.modify e fun y => { y with pieces := y.pieces.modify p fun z => { z with bad := true } } }
  | .tlb c k => s.modCore c fun c => { c with tlb := c.tlb.eraseIdx k }
  | .walkTlb c k => s.modCore c fun c => { c with walkTlb := c.walkTlb.eraseIdx k }
  | .sharedTlb c k => s.modChip c fun c => { c with tlb := c.tlb.eraseIdx k }
  | .reuse q k => s.modQuad q fun x => { x with reuse := x.reuse.eraseIdx k, kills := x.kills + 1 }
  | .l1Tag c line => s.modCore c fun c => { c with l1 := c.l1.del line }
  | .cleanTag b k => { s with banks := s.banks.upd b fun x => { x with lines := x.lines.eraseIdx k } }
  | .control gs => gs.foldl (fun s g => s.stopGroup g) s
  | .dirtyTag b k =>
    match (s.banks.lookD b {}).lines[k]? with
    | none => s
    | some l =>
      let bytes := 64 * 2 ^ (match s.polders.look l.polder with
        | some p => p.line
        | none => 1)
      ({ s with banks := s.banks.upd b fun x => { x with lines := x.lines.eraseIdx k } } : State).physPoison (l.number * bytes) bytes

/-- A SECDED check finds an error (R150): a correctable one is corrected, an uncorrectable one poisons or loses what it hit; each
is reported. -/
def execSoftErrorDetected (site : ErrorSite) (uncorrectable : Bool) (s : State) : Result :=
  let s := s.report (.softError site uncorrectable)
  .next (if uncorrectable then s.softError site else s)

end Sys2Proof.Machine
end

