-- ==== Sys2Proof/Machine/Peer.lean ====
section
/-! DEFINITION. Accesses between devices, and publish and subscribe (R458 to R463, R469, R470). -/

namespace Sys2Proof.Machine

/-! ### Inbound accesses (R458) -/

/-- Answer an inbound access. -/
def State.replyTo (s : State) (device : Nat) (r : List Byte ⊕ Cause) (poisoned : Bool := false) : State :=
  { s with sent := s.sent ++ [.reply device r poisoned] }

/-- A cause other than PAGE: a fault response, and a trap record with the initiator's number in the export context's queue (R458). -/
def State.inboundFault (s : State) (device asid addr : Nat) (c : Cause) : State :=
  (s.trapRecord asid { time := s.time, aux := BitVec.ofNat 64 device, addr := BitVec.ofNat 64 addr, cause := c }).replyTo device (.inr c)

/-- An inbound access waits at a page (R414, R417, R458). -/
def State.inboundWait (s : State) (a : Inbound) (asid : Nat) (k : AccessKind) : State :=
  let s' := { s with inbound := s.inbound.put s.uid a, uid := s.uid + 1 }
  s'.pageRequest asid a.addr k (.inbound s.uid)

/-- The kind of an inbound operation. -/
def Inbound.kind (a : Inbound) : AccessKind :=
  match a.code with
  | 0 => .read
  | 1 => .write
  | _ => .atomic

/-- Bytes of an inbound access. -/
def Inbound.bytes (a : Inbound) : Nat :=
  match a.code with
  | 0 => a.size
  | 1 => a.data.length
  | _ => atomicSize (a.code - 2)

/-- A translated inbound access is performed at its home, as an access of the peer (R14, R65, R396); where the page moves to another
peer's frame, by that peer (R421), whose answer is free (log entry 64). -/
def State.inboundPerform (s : State) (a : Inbound) (pa : Nat) : State :=
  let who : Accessor := .peer a.device
  let s := s.homeTouch who pa (a.code != 0)
  match a.code with
  | 0 =>
    let x := s.agentRead who pa a.size
    x.1.replyTo a.device (.inl x.2.1) x.2.2
  | 1 => (s.agentStore who pa a.data).replyTo a.device (.inl [])
  | n =>
    match s.paKind pa with
    | .peer d =>
      let x := { s with sent := s.sent ++ [PeerMessage.atomic d (s.redirect pa % 2 ^ 40) (n - 2) a.data] }.peerBytes (atomicSize (n - 2))
      x.1.replyTo a.device (.inl x.2)
    | _ =>
      let r := (s.agentWrote pa (atomicSize (n - 2))).atomicAt (n - 2) pa (field a.data 0 8) (field a.data 8 8)
      r.2.2.replyTo a.device (.inl (Memory.ofNat (atomicSize (n - 2)) r.1)) r.2.1

/-- Subscribers of a region that stay when a device's context subscribes again or ends its subscription (R470). -/
def PubRegion.without (r : PubRegion) (device asid : Nat) : List Subscriber := r.subs.filter fun x => !(x.device == device && x.asid == asid)

/-- The publish engine reads a pub region's pages that are present: their bytes with their offsets (R461). -/
def State.regionBytes (s : State) (r : PubRegion) : State × List (Nat × Byte) :=
  (List.range r.pages).foldl (fun (a : State × List (Nat × Byte)) k =>
    let v := r.base.toNat + 65536 * k
    let s := a.1.walkTouch r.asid v
    match (s.ctxs.look r.asid).map fun c => s.walk c v with
    | some (.leaf pte bits _) =>
      let x := s.agentRead .system (leafFrame pte + v % 2 ^ bits) 65536
      (x.1, a.2 ++ x.2.1.zipIdx.map fun b => (65536 * k + b.2, b.1))
    | _ => (s, a.2)) (s, [])

/-- The publish engine reads the version of a region (R461, R469): the doubleword at VADDR. -/
def State.regionVersion (s : State) (r : PubRegion) : State × DWord :=
  match s.readAs .system r.asid r.vaddr.toNat 8 8 with
  | (s, .inl bs) => (s, BitVec.ofNat 64 (Memory.toNat bs))
  | (s, .inr _) => (s, 2)

/-- A context's subscription with a local copy (R470), or its end for a copy of 0: the first snapshot is the region as it is, under
version 1 until the current version ends it. None when the publisher refuses. -/
def State.subscribe (s : State) (region device asid : Nat) (copy : DWord) (present : Bool) : Option State :=
  match s.pubs.look region with
  | none => none
  | some r =>
    let rest := r.without device asid
    if copy = 0 then some { s with pubs := s.pubs.put region { r with subs := rest } }
    else if 63 ≤ rest.length ∨ !present then none
    else
      let now := s.regionBytes r
      let v := now.1.regionVersion r
      let s := v.1
      let x : Subscriber := { device := device, copy := copy, asid := asid, queue := now.2, version := 0, ends := [(now.2.length, v.2)] }
      some { s with pubs := s.pubs.put region { r with subs := rest ++ [x] } }

/-- An access of a peer reaches the device (R458): operation 0 reads, 1 writes, 2 + k is the atomic of code k; 100 is a subscription
request of the peer to region `addr` with its local copy in `data` (R470). One that its home holds comes again in the next master cycle
(R397). A part in reset answers nothing (R24). -/
def execInboundPeerAccess (device addr size code : Nat) (data : List Byte) (s : State) : Result :=
  let a : Inbound := { device := device, addr := addr, size := size, code := code, data := data }
  if s.inReset then .next s
  else if code = 100 then
    match s.subscribe addr device 0 (BitVec.ofNat 64 (field data 0 8)) true with
    | some s => .next { s with sent := s.sent ++ [.subscribed device true] }
    | none => .next { s with sent := s.sent ++ [.subscribed device false] }
  else if 2 ^ 40 ≤ addr ∨ 17 < code ∨ 65536 < addr % 65536 + a.bytes then .next s
  else if s.checkpointing && code != 0 then .next (s.replyTo device (.inr .perm))
  else
    match s.exports_.look device with
    | none => .next (s.replyTo device (.inr .perm))
    | some asid =>
      match s.ctxs.look asid with
      | none => .next (s.replyTo device (.inr .perm))
      | some c =>
        let s := s.walkTouch asid addr
        match s.walk c addr with
        | .malformed => .next (s.inboundFault device asid addr .perm)
        | .absent level entry at_ =>
          if code ≠ 1 ∨ level ≠ 4 then .next (s.inboundWait a asid a.kind)
          else
            match s.bounceWrite asid addr entry at_ data with
            | some s => .next (s.replyTo device (.inl []))
            | none => .next (s.inboundWait a asid .write)
        | .leaf pte bits _ =>
          match s.useLeaf pte bits addr a.kind with
          | .cause c => .next (s.inboundFault device asid addr c)
          | .ok pa _ _ =>
            match s.rangeKind pa with
            | .peer _ => .next (s.inboundFault device asid addr .peerFault)
            | _ =>
              if s.homeReady (.peer device) pa (code != 0) then .next (s.inboundPerform a pa)
              else .next ((s.homeTouch (.peer device) pa (code != 0)).holdUntil (.inboundPeerAccess device addr size code data))

/-- EXPORT (R458, R487): bind an initiating device to an export context, or unbind it. -/
def execExportDevice (payload : List Byte) : State → Result :=
  mailboxOp payload [(0, 1), (2, 2)] fun s =>
    let d := field payload 0 1
    let asid := field payload 2 2
    if 63 < d then s.answer .badDesc
    else if asid = 0 then ({ s with exports_ := s.exports_.del d } : State).answer .ok
    else if (s.ctxs.look asid).isNone then s.answer .badState
    else ({ s with exports_ := s.exports_.put d asid } : State).answer .ok

/-! ### Replies and timeouts (R459, R460) -/

/-- A posted store failed (R459): a trap record, and the group's next system-scope release or fence traps (R76). -/
def State.postedFails (s : State) (r : PeerReq) (f : InFlight) (timedOut : Bool) : State :=
  let rec0 : Record :=
    { time := s.time, aux := BitVec.ofNat 64 r.device, addr := r.vaddr, pc := r.pc, lanes := r.lanes, core := r.core
      cause := if timedOut then .peerTimeout else .peerFault }
  let rec1 := match s.groups.look f.group with
    | some g =>
      match s.teams.look g.team with
      | some t => { rec0 with kernel := t.kernel, team := t.linear, group := g.index }
      | none => rec0
    | none => rec0
  (s.trapRecord r.asid rec1).modGroup f.group fun g =>
    { g with postedFault := match g.postedFault with
      | some x => some x
      | none => some (timedOut, r.device) }

/-- A split's own read has its answer (R459): the instruction executes again. -/
def State.waiterAnswered (s : State) (r : PeerReq) (w : Nat × Nat) (x : List Byte ⊕ Bool) : State :=
  s.modTag w.1 w.2 fun sp => ({ sp with peerRead := sp.peerRead ++ [(r.vaddr, x)] } : Split).tagDone peerTag

/-- The answer of a subscription request reaches the split that waits (R470). -/
def State.psubEnds (s : State) (r : PeerReq) (w : Nat × Nat) (accepted : Bool) : State :=
  match s.cxByTag w.1 w.2 with
  | none => s
  | some cx =>
    let woken := s.modTag w.1 w.2 fun sp => sp.tagDone peerTag
    if accepted then woken.modTag w.1 w.2 Split.retire
    else woken.trapAll { cx with sp := cx.sp.tagDone peerTag } .perm (BitVec.ofNat 64 (r.bytes + 256 * r.device))

/-- A request ends in a fault response or a timeout (R459, R460, R466, R467). -/
def State.peerFails (s : State) (r : PeerReq) (timedOut : Bool) : State :=
  let cause : Cause := if timedOut then .peerTimeout else .peerFault
  match r.tag, r.entry, r.waiter, r.copy with
  | some tag, _, _, _ =>
    (s.modCore r.core fun c =>
      { c with sluice := c.sluice.upd tag fun e =>
          { e with reqs := e.reqs.map fun q => if r.lanes.getLsbD q.lane then { q with err := some timedOut } else q } }).sluiceReply
      r.core tag r.lanes
  | none, some f, _, _ => (s.postedFails r f timedOut).wakeStores r.core
  | none, none, some w, _ => s.waiterAnswered r w (.inr timedOut)
  | none, none, none, some (slot, serial, x) =>
    match (s.core r.core).copies.look slot with
    | none => s
    | some c =>
      if c.serial ≠ serial then s
      else
        let s := s.copyFail r.core slot x cause r.vaddr.toNat r.device
        match (s.core r.core).copies.look slot with
        | some c => if c.left.isEmpty then s.copyDone r.core slot else s
        | none => s
  | none, none, none, none =>
    match r.coll, r.psub with
    | some key, _ =>
      match s.colls.look key with
      | some c => s.collFail key ((c.ring.findIdx? fun d => d == r.device).getD 0)
      | none => s
    | none, some w =>
      match s.cxByTag w.1 w.2 with
      | some cx =>
        (s.modTag w.1 w.2 fun sp => sp.tagDone peerTag).trapAll { cx with sp := cx.sp.tagDone peerTag } cause 0
          (BitVec.ofNat 64 r.device)
      | none => s
    | none, none => s

/-- The data that a peer's reply gives a lane, under the bytes that the load took from its group's store queue (R69, R219, R299). -/
def Access.peerValue (a : Access) (own : List (Nat × Byte)) (data : List Byte) : Nat :=
  match a.op with
  | .load n signed =>
    extendLoad n signed a.dest (Memory.toNat ((List.range n).map fun k =>
      match own.find? fun x => x.1 == k with
      | some x => x.2
      | none => data.getD k 0))
  | .atomic c => Memory.toNat (data.take (atomicSize c))
  | .store _ => 0

/-- The bytes that a plain load's reply from a peer brings into the core's L1 (R75, R299). -/
def State.peerFills (s : State) (r : PeerReq) (tag : Nat) (data : List Byte) : State :=
  match (s.core r.core).sluice.look tag with
  | none => s
  | some e =>
    match e.access.op, e.access.acquire with
    | .load n _, none => (e.reqs.filter fun q => r.lanes.getLsbD q.lane && q.fills).foldl (fun s q =>
        s.fillPeer r.core q.pa ((List.range n).map fun k => data.getD k 0)) s
    | _, _ => s

/-- A request is answered with data (R459). -/
def State.peerAnswers (s : State) (r : PeerReq) (data : List Byte) : State :=
  match r.tag, r.entry, r.waiter, r.copy with
  | some tag, _, _, _ =>
    ((s.peerFills r tag data).modCore r.core fun c =>
      { c with sluice := c.sluice.upd tag fun e =>
          { e with reqs := e.reqs.map fun q => if r.lanes.getLsbD q.lane then { q with val := e.access.peerValue q.own data } else q }
      }).sluiceReply r.core tag r.lanes
  | none, some _, _, _ => s.wakeStores r.core
  | none, none, some w, _ => s.waiterAnswered r w (.inl ((List.range r.bytes).map fun k => data.getD k 0))
  | none, none, none, some (slot, serial, x) =>
    s.modCore r.core fun c =>
      { c with copies := c.copies.upd slot fun q =>
          if q.serial = serial then { q with answered := q.answered.put x ((List.range r.bytes).map fun k => data.getD k 0) } else q }
  | none, none, none, none => s

/-- A peer's reply, or fault response, to request x arrives (R459); one to a request that has ended is dropped (R460). -/
def execPeerReply (x : Nat) (ok : Bool) (data : List Byte) (s : State) : Result :=
  match s.peerReqs.look x with
  | none => .next s
  | some r =>
    if r.coll.isSome || (r.psub.isSome && ok) || (s.portOf r.device (r.vaddr.toNat / 256)).isNone then .next s
    else
      let s := { s with peerReqs := s.peerReqs.del x }
      .next (if ok then s.peerAnswers r data else s.peerFails r false)

/-- Request x has waited 2 ms (R460). -/
def execPeerTimeout (x : Nat) (s : State) : Result :=
  match s.peerReqs.look x with
  | none => .next s
  | some r =>
    if s.time.toNat < r.sent + 2000000 then .next s
    else .next (({ s with peerReqs := s.peerReqs.del x } : State).peerFails r true)

/-! ### Publish and subscribe (R461 to R463, R469, R470) -/

/-- PUBDEF (R461, R487): define or remove a pub region. -/
def execPubDef (payload : List Byte) : State → Result :=
  mailboxOp payload [(0, 1), (1, 1), (2, 2), (8, 64)] fun s =>
    let id := field payload 0 1
    let asid := field payload 2 2
    let bs := (payload.drop 8).take 64
    let owner := (s.pubs.look id).map PubRegion.asid
    if 1 < field payload 1 1 then s.answer .badDesc
    else if owner.any fun o => o != asid then s.answer .perm
    else if field payload 1 1 = 0 then
      if owner.isNone then s.answer .badState else ({ s with pubs := s.pubs.del id } : State).answer .ok
    else if owner.isSome then s.answer .badState
    else if (s.ctxs.look asid).isNone then s.answer .perm
    else
      let base := field bs 0 8
      let pages := field bs 8 8
      let vaddr := field bs 0x10 8
      let ok := base % 65536 == 0 && 1 ≤ pages && pages < 4096 && base + 65536 * pages ≤ 2 ^ 56 && vaddr % 8 == 0
        && !(base ≤ vaddr && vaddr < base + 65536 * pages) && field bs 0x18 40 == 0
      match s.checkSystem asid vaddr 8 8 .write with
      | .ok pa _ _ =>
        if !ok || s.rangeKind pa != .device then s.answer .badDesc
        else
          let s := (s.writeAs .system asid vaddr 8 (Memory.ofNat 8 2)).1
          ({ s with
            pubs := s.pubs.put id { asid := asid, base := BitVec.ofNat 64 base, pages := pages, vaddr := BitVec.ofNat 64 vaddr } } : State).answer .ok
      | .cause _ => s.answer .badDesc

/-- Write into a subscriber's local copy: its own device's memory, or a message to another device. -/
def State.copyPut (s : State) (x : Subscriber) (at_ : DWord) (bs : List Byte) (m : PeerMessage) : EngineDone Unit :=
  if x.device = Config.deviceNumber.toNat then s.engineWrite x.asid at_.toNat bs false false
  else .ok { s with sent := s.sent ++ [m] } ()

/-- The next write of the publish engine into a local copy (R462): the odd version before the first byte of a batch, a byte, or the
even version at the batch's end. -/
def State.forwardOne (s : State) (x : Subscriber) : Option (EngineDone Subscriber) :=
  match x.ends, x.queue with
  | (0, v) :: rest, _ =>
    some ((s.copyPut x x.copy (Memory.ofNat 8 v.toNat) (.copyVersion x.device x.copy v)).then fun s _ =>
      .ok s { x with version := v, ends := rest })
  | _, [] => none
  | es, (o, b) :: rest =>
    if x.version.toNat % 2 = 0 then
      let v := x.version + 1
      some ((s.copyPut x x.copy (Memory.ofNat 8 v.toNat) (.copyVersion x.device x.copy v)).then fun s _ => .ok s { x with version := v })
    else
      let at_ := x.copy + BitVec.ofNat 64 (65536 + o)
      some ((s.copyPut x at_ [b] (.copyByte x.device at_ b)).then fun s _ =>
        .ok s { x with queue := rest, ends := es.map fun e => (e.1 - 1, e.2) })

/-- The publish engine serves subscriber x of a region (R462). A page that it waits for is requested; any other cause ends the
subscription with a record (DEDUCED, log entry 27). -/
def execPublishForward (region x : Nat) (s : State) : Result :=
  match s.pubs.look region with
  | none => .next s
  | some r =>
    match r.subs[x]? with
    | none => .next s
    | some sub =>
      match s.forwardOne sub with
      | none => .next s
      | some (.wait va k) => .next ((s.walkTouch sub.asid va).pageRequest sub.asid va k (.publish region))
      | some .stay => .next s
      | some (.fault c va) =>
        let s := (s.walkTouch sub.asid va).trapRecord sub.asid { time := s.time, addr := BitVec.ofNat 64 va, cause := c }
        .next ({ s with pubs := s.pubs.upd region fun (r : PubRegion) => { r with subs := r.subs.eraseIdx x } } : State)
      | some (.ok s sub') => .next ({ s with pubs := s.pubs.upd region fun (r : PubRegion) => { r with subs := r.subs.set x sub' } } : State)

/-- End a publish batch: the region's version advances by 2 (R469). -/
def execPubv (a : BitVec 6) : State → Result :=
  gate { gr := [a.toNat], ends := true, memory := true } fun cx s =>
    let x := cx.grp.greg a.toNat
    match (if x.toNat < 256 then s.pubs.look x.toNat else none) with
    | none => .next (s.trapAll cx .perm x)
    | some r =>
      if r.asid ≠ cx.asid then .next (s.trapAll cx .perm x)
      else if s.releaseWaits cx 5 then .next (s.parkRelease cx 5)
      else
        match cx.postedTrap 5 with
        | some t => .next ((s.modGroup cx.gid fun g => { g with postedFault := none }).raiseTrap cx t)
        | none =>
          let who : Accessor := .core cx.core
          let s := s.walkIf cx.asid r.vaddr.toNat 8 8
          match s.checkSystem cx.asid r.vaddr.toNat 8 8 .atomic with
          | .cause .page => .next (s.parkFault cx r.vaddr .atomic)
          | .cause c => .next (s.trapAll cx c r.vaddr)
          | .ok pa _ _ =>
            if !s.homeReady who pa true then .next (s.homeTouch who pa true)
            else
              let old := (s.homeTouch who pa true).agentRead who pa 8
              let v := BitVec.ofNat 64 (Memory.toNat old.2.1) + 2
              let s := old.1.coreWrite pa (Memory.ofNat 8 v.toNat)
              let s := { s with
                pubs := s.pubs.upd x.toNat fun (r : PubRegion) =>
                  { r with subs := r.subs.map fun (y : Subscriber) => { y with ends := y.ends ++ [(y.queue.length, v)] } } }
              .next (s.retireG cx 28)

/-- Subscribe to a region of a device, or end the subscription (R470). -/
def execPsub (a b : BitVec 6) : State → Result :=
  gate { gr := [a.toNat, b.toNat], ends := true, memory := true } fun cx s =>
    let x := cx.grp.greg a.toNat
    let copy := cx.grp.greg b.toNat
    if 2 ^ 14 ≤ x.toNat then .next (s.trapAll cx .perm x)
    else if copy ≠ 0 ∧ (copy.toNat % 65536 ≠ 0 ∨ 2 ^ 56 ≤ copy.toNat) then .next (s.trapAll cx .perm copy)
    else
      let s := { s with
        peerReqs := s.peerReqs.put s.uid
          { device := x.toNat / 256, sent := s.time.toNat, core := cx.core, tag := none, lanes := cx.sp.mask, pc := cx.sp.pc
            vaddr := copy, asid := cx.asid, psub := some (cx.gid, cx.sp.tag), bytes := x.toNat % 256 }
        uid := s.uid + 1 }
      .next ((s.charge cx.core (s.weight cx.core 28)).park cx.gid cx.sp.tag [peerTag])

/-- The pages of a local copy are present (R470): the version's page and the region's. -/
def State.copyPresent (s : State) (asid : Nat) (copy : DWord) (region : Nat) : Bool :=
  match s.pubs.look region, s.ctxs.look asid with
  | some r, some c =>
    (List.range (r.pages + 1)).all fun k =>
      match s.walk c (copy.toNat + 65536 * k) with
      | .leaf _ _ _ => true
      | _ => false
  | _, _ => false

/-- The publisher answers subscription request x (R470): this device decides for its own regions, another one by `accepted`. -/
def execPsubAnswer (x : Nat) (accepted : Bool) (s : State) : Result :=
  match s.peerReqs.look x with
  | none => .next s
  | some r =>
    match r.psub with
    | none => .next s
    | some w =>
      let s := { s with peerReqs := s.peerReqs.del x }
      if r.device = Config.deviceNumber.toNat then
        match s.subscribe r.bytes r.device r.asid r.vaddr (s.copyPresent r.asid r.vaddr r.bytes) with
        | some s => .next (s.psubEnds r w true)
        | none => .next (s.psubEnds r w false)
      else .next (s.psubEnds r w accepted)

end Sys2Proof.Machine
end

