-- ==== Sys2Proof/Machine/Cycle.lean ====
section
/-! DEFINITION. The master cycle: current accounts, pulses, droop, the counters of the splits, and the events of the part's own
engines that are due (R213, R214, R223, R224, R473 to R482). -/

namespace Sys2Proof.Machine

/-! ### Pulses (R473, R475, R476, R478, R481) -/

/-- A pattern with its n highest-numbered set bits cleared. -/
def clearHighest (p : BitVec 16) (n : Nat) : BitVec 16 :=
  match n with
  | 0 => p
  | n + 1 => clearHighest (p &&& ~~~ BitVec.twoPow 16 (15 - Bits.clz p)) n

/-- EFF for a pattern and a clamp count (R476). -/
def effective (pat : BitVec 16) (clr : Nat) : BitVec 16 := clearHighest pat (min clr (Bits.popcount pat - 1))

/-- The account decays (R473). -/
def CoreSt.decay (x : CoreSt) : CoreSt := { x with account := x.account - x.account / 2 ^ x.dk }

/-- A core enters master cycle n: the ended cycle's pulse is counted, the account decays, PAT and CLR take effect where n mod 16
is 0, and the cycle is a pulse when EFF's bit is set and no stretch swallows it. A pulse of the stretch window has its next
cycle swallowed, and one of the halving window is counted (R473, R475, R476, R478, R481). -/
def CoreSt.cycle (n : Nat) (x : CoreSt) : CoreSt :=
  let x := { x.decay with
    pulses := if x.pulsed then x.pulses + 1 else x.pulses
    eff := if n % 16 = 0 then effective x.ckpat x.clr else x.eff }
  if x.swallow || !x.eff.getLsbD (n % 16) then { x with pulsed := false, swallow := false }
  else { x with pulsed := true, swallow := x.stretch != 0, stretch := x.stretch - 1, halving := x.halving - 1 }

/-- A resident split enters an issue slot, one at each pulse whether or not the quadrant issues in it (R4): the slots that it is held in
(R214), the pulses that it waits (R482), the slots that it stalls on the overflow region (R237). -/
def Split.slot (pulsed : Bool) (sp : Split) : Split :=
  let held := sp.state == .waiting || sp.state == .parked || sp.state == .faulted
  { sp with
    waitPulses := if pulsed && sp.state == .waiting then sp.waitPulses + 1 else sp.waitPulses
    idle := if !held then 0 else if pulsed then sp.idle + 1 else sp.idle
    ready := false
    placeWait := if pulsed then sp.placeWait.map (· + 1) else sp.placeWait }

/-- A stacked split after a pulse (R482). -/
def Split.stackedSlot (pulsed : Bool) (sp : Split) : Split :=
  if pulsed && sp.state == .waiting then { sp with waitPulses := sp.waitPulses + 1 } else sp

/-- The groups after the counters of a cycle. -/
def State.countSlots (s : State) : Map Group :=
  s.groups.map fun p =>
    match s.teams.look p.2.team with
    | some t =>
      let x := s.core t.core
      if t.state == .resident && p.2.state == .running then
        (p.1, { p.2 with
          res := p.2.res.map fun q => (q.1, q.2.slot x.pulsed)
          stack := p.2.stack.map (Split.stackedSlot x.pulsed) })
      else p
    | none => p

/-! ### The events that are due (DESIGN CHOICE, log entry 1)

The events whose time the spec leaves open are collected by the definitions named `…Due`; a free value says in which master cycle
each of them takes place. The definitions named `…Timed` collect those that a count or a time decides. -/

/-- Events of a group's splits: traps whose replies have arrived, stores, waits on words. -/
def State.groupDue (s : State) (gid : Nat) (g : Group) : List Instr :=
  match s.teams.look g.team with
  | none => []
  | some t =>
    (g.splits.filterMap fun sp =>
      if s.trapDue t.core gid g sp then some (Instr.trapDelivery gid sp.tag) else none)
    ++ (if g.storeQ.isEmpty then [] else [Instr.storeQueueRetire gid])
    ++ (g.splits.filterMap fun sp =>
      match sp.state, sp.wait with
      | .waiting, some (.word _ _ _ _) => some (Instr.waitaReread gid sp.tag)
      | _, _ => none)

/-- Swaps of the splits that have been idle long enough (R214). -/
def State.swapsTimed (_s : State) (gid : Nat) (g : Group) : List Instr :=
  g.res.filterMap fun p => if 256 ≤ p.2.idle && !g.stack.isEmpty then some (Instr.waitSwap gid p.1) else none

/-- Waits that have reached WDLIM (R482): they come after every event that could end the wait. -/
def State.watchdogsTimed (s : State) (gid : Nat) (g : Group) : List Instr :=
  g.splits.filterMap fun sp =>
    if s.wdlim != 0 && sp.state == .waiting && decide (s.wdlim ≤ sp.waitPulses) then some (.watchdogExpiry gid sp.tag) else none

/-- A compute chiplet holds the clamp of its cores (R476). -/
def Chip.holds (x : Chip) : Bool := x.trip || x.canaryClamp

/-- Events of a core: replies, store acknowledgements, engines. -/
def State.coreDue (_s : State) (c : Nat) (x : CoreSt) : List Instr :=
  let performed := (List.range x.inflight.length).filter fun k => (x.inflight[k]?).any InFlight.performed
  (x.sluice.filterMap fun e => if e.2.pend != 0 then some (Instr.sluiceReply c e.1 (BitVec.allOnes 32)) else none)
  ++ (performed.reverse ++ (x.inflight.findIdx? fun f => !f.performed).toList).map (Instr.storeAck c ·)
  ++ (if x.matrixQ.isEmpty then [] else [Instr.matrixOpComplete c])
  ++ (x.copies.map fun r => Instr.copyLanding c r.1 0 r.2.layout.size)

/-- Ends of a core's clamp steps and droop windows (R476, R477). -/
def State.coreTimed (s : State) (c : Nat) (x : CoreSt) : List Instr :=
  (if x.clr != 0 && !(s.chip (c / 12)).holds && decide (x.clampAt + 10000 ≤ s.time.toNat) then [Instr.clampRelax c] else [])
  ++ (if x.droop && x.stretch == 0 && x.halving == 0 then [Instr.droopWindowEnd c] else [])

/-- Events of a team: retirement, discard, save. -/
def State.teamDue (s : State) (uid : Nat) (t : Team) : List Instr :=
  if t.retired then []
  else
    match t.state with
    | .resident => if (s.teamGroups uid).all fun p => p.2.state == .exited then [.teamRetire uid] else []
    | .ending => [.teamRetire uid]
    | .discarding => [.teamDiscard uid]
    | .saving => [.teamSaveComplete uid]
    | _ => []

/-- Some agent has written a queue's tail word, or its line, since the dispatcher looked (R174, R175). -/
def State.tailDue (s : State) (id : Nat) (q : Queue) : List Instr :=
  if q.tailHit && q.state != .created && !s.pagerWait id then [.watchedLineWrite (s.watchedTail q) 8] else []

/-- Events of the dispatcher, the placer and the kernels. -/
def State.dispatchTimed (s : State) : List Instr :=
  (s.queues.flatMap fun q => s.tailDue q.1 q.2)
  ++ (if s.queues.isEmpty then [] else [Instr.dispatchArbitration])
  ++ (s.kernels.filterMap fun k => if k.2.passedSince.isSome && !k.2.blocking then some (Instr.passOverTimeout k.1) else none)
  ++ (if s.kernels.isEmpty then [] else [Instr.placerOffer])
  ++ (s.kernels.filterMap fun k =>
    if k.2.state == .retiring && !s.pageReqs.any (fun r => r.requesters.contains (.completion k.1)) then some (Instr.kernelDone k.1)
    else none)

/-- Events of the tide machine (R433 to R441). -/
def State.tideDue (s : State) : List Instr :=
  (match s.grace with
   | some g => if g.started then [] else [Instr.gpStart]
   | none => [])
  ++ ((List.range s.quiescent.length).map fun k => Instr.quiescentRecord (s.quiescent.length - 1 - k))
  ++ (s.spillways.filterMap fun w =>
    if !w.2.stopped && (w.2.starting || decide (w.2.head < w.2.tail)) then some (Instr.spillMove w.1) else none)

/-- Events of pages, classes and polders. -/
def State.pageDue (s : State) : List Instr :=
  (s.classes.filterMap fun c => if c.2.held then some (Instr.reclassifyComplete c.1) else none)
  ++ (s.pageReqs.filterMap fun r => if r.answered then some (Instr.pagerResolved r.asid r.page) else none)
  ++ (s.migrations.map fun m =>
    if m.aborting || decide (m.bound < 512) then Instr.migrateLine m.asid m.page true else .migrationFinish m.asid m.page)
  ++ (s.polders.filterMap fun p => if p.2.state == .resizing then some (Instr.polderDrainComplete p.1) else none)
  ++ s.mergesDue

/-- Pages whose class has been idle, and the generation ticks of banks and homes. -/
def State.pageTimed (s : State) : List Instr :=
  (s.classes.filterMap fun c =>
    if !c.2.held && c.2.cls == .shared && decide (c.2.stamp + 1024 ≤ s.tick) then some (Instr.pageClassIdle c.1) else none)
  ++ (s.banks.keys ++ s.homes.keys.map (512 + ·)).flatMap fun x => List.replicate (s.ticksDue x) (Instr.generationTick x)

/-- Events of peers, publish and collective engines. -/
def State.peerDue (s : State) : List Instr :=
  (s.peerReqs.filterMap fun r =>
    if r.2.psub.isSome && r.2.device == Config.deviceNumber.toNat then some (Instr.psubAnswer r.1 true) else none)
  ++ (s.pubs.flatMap fun p =>
    (List.range p.2.subs.length).filterMap fun k =>
      match p.2.subs[k]? with
      | some x => if x.queue.isEmpty && x.ends.isEmpty then none else some (Instr.publishForward p.1 k)
      | none => none)
  ++ (s.colls.filterMap fun c =>
    if c.2.failed.isSome && !c.2.shadow then some (Instr.collectiveStepComplete c.1 [])
    else c.2.held.map (Instr.collectiveStepComplete c.1 ·))

/-- Limits of peer requests and of links (R460, R463). -/
def State.peerTimed (s : State) : List Instr :=
  (s.peerReqs.filterMap fun r => if r.2.sent + 2000000 ≤ s.time.toNat then some (Instr.peerTimeout r.1) else none)
  ++ (s.relocking.filterMap fun r => if r.2.2.2 + 40000 ≤ s.time.toNat then some (Instr.ringLock r.1 r.2.1 r.2.2.1) else none)
  ++ (s.links.filterMap fun l => if l.2.swap && !l.2.swapWait && decide (l.2.swapAt + 10000 ≤ s.time.toNat) then some (Instr.mapAckTimeout l.1) else none)

/-- Events of the mailbox's background operation (R485). -/
def State.boxDue (s : State) : List Instr :=
  match s.mailbox.background with
  | some (.suspend a) => [Instr.ctxSuspendComplete a]
  | some (.qsuspend q) => [.qSuspendComplete q]
  | some (.imgload _ _ _) => [.imgLoadComplete]
  | _ => []

/-- Canary warnings left unanswered (R476). -/
def State.canariesTimed (s : State) : List Instr :=
  (s.chips.filterMap fun c =>
    if c.2.canary && !c.2.canaryClamp && decide (c.2.canaryAt + 20000 ≤ s.time.toNat) then some (Instr.canaryTimeout c.1) else none)

/-- Every event whose time the spec leaves open. -/
def State.openDue (s : State) : List Instr :=
  (s.cores.flatMap fun (c : Nat × CoreSt) => s.coreDue c.1 c.2)
  ++ (s.groups.flatMap fun (g : Nat × Group) => s.groupDue g.1 g.2) ++ s.peerDue ++ s.pageDue ++ s.tideDue
  ++ (s.teams.flatMap fun (t : Nat × Team) => s.teamDue t.1 t.2) ++ s.boxDue

/-- Every event that a count or a time decides; the watchdog comes last. -/
def State.timedDue (s : State) : List Instr :=
  (s.cores.flatMap fun (c : Nat × CoreSt) => s.coreTimed c.1 c.2)
  ++ (s.groups.flatMap fun (g : Nat × Group) => s.swapsTimed g.1 g.2) ++ s.peerTimed ++ s.pageTimed ++ s.dispatchTimed
  ++ s.canariesTimed ++ s.groups.flatMap fun (g : Nat × Group) => s.watchdogsTimed g.1 g.2

/-- The events of the part's own engines in this master cycle. -/
def State.due (s : State) : List Instr :=
  ((s.openDue.zipIdx.filter fun e => Config.happens s.cycles e.2).map Prod.fst) ++ s.timedDue

/-- The core's L1 drops the lines that a free value names: the spec lets a plain load miss at any time (R75; DESIGN CHOICE, log entry 14). -/
def CoreSt.evict (x : CoreSt) (n core : Nat) : CoreSt :=
  if x.l1.isEmpty then x else { x with l1 := x.l1.filter fun e => !Config.evicts n core e.1 }

/-- The cores without the splits that have given up their wait for a sluice entry. -/
def State.pruneWaits (s : State) : Map CoreSt :=
  s.cores.map fun c => (c.1, { c.2 with sluiceWait := c.2.sluiceWait.filter s.stillWaits })

/-- The next master cycle, `ns` later by the reference counter: what firmware has set of the accounts, every core's account and pulse, the counters of the splits, the
accesses that their homes held, the events that are due, and the splits to examine for the arbiters (R4, R223, R473, R475). -/
def execMasterCycle (ns : Nat) (s : State) : Result :=
  let n := s.cycles + 1
  let s := s.curWrites.foldl State.applyCurrent { s with curWrites := [] }
  let s := { s with
    cycles := n
    time := s.time + BitVec.ofNat 64 ns
    cores := List.map (fun (c : Nat × CoreSt) => (c.1, (c.2.cycle n).evict n c.1)) s.cores }
  let s := { s with groups := s.countSlots }
  let s := { s with cores := s.pruneWaits }
  let s := s.prunePubls
  let s := { s with agenda := s.agenda ++ s.again ++ s.due, again := [] }
  .next { s with probeQ := s.offers, picking := true, issueQ := [], probed := false }

end Sys2Proof.Machine
end

