-- ==== Sys2Proof/Machine/GroupInt.lean ====
section
/-! DEFINITION. Group-set integer, logic, compare, move, immediate and mask instructions (R231 to R233, R244 to R246, R268 to R275). -/

namespace Sys2Proof.Machine

/-- The bits [2n−1:n] of a product, as a number modulo 2^n. -/
def highBits (n : Nat) (p : Int) : Nat := (p / 2 ^ n % 2 ^ n).toNat

/-- Floor of the signed low n bits by 2^c, modulo 2^n (R271). -/
def sarW (w : BitVec 3) (x : DWord) (c : Nat) : Nat := (signedW w x / 2 ^ c % 2 ^ widthOf w).toNat

/-- The relation of a GCMP row at a width (R269, R272). -/
def relW (w : BitVec 3) (r : Rel) (x y : DWord) : Bool := r.holds (BitVec.ofNat (widthOf w) x.toNat) (BitVec.ofNat (widthOf w) y.toNat)

/-- A GCMP row (R272). -/
def grCmp (w k : BitVec 3) (a b : BitVec 6) (r : Rel) : State → Result :=
  groupM 18 { gr := [a.toNat, b.toNat] } k fun cx => maskIf cx (relW w r (cx.grp.greg a.toNat) (cx.grp.greg b.toNat))

/-- A GCMP immediate row (R274). -/
def giCmp (k : BitVec 3) (a : BitVec 6) (i : BitVec 11) (r : Rel) : State → Result :=
  groupM 19 { gr := [a.toNat] } k fun cx => maskIf cx (r.holds (cx.grp.greg a.toNat) (i.signExtend 64))

/-- x + y at the width of w (R270). -/
def execGadd (w : BitVec 3) (d a b : BitVec 6) : State → Result :=
  gr2 16 w d a b fun x y => lowW w x + lowW w y

/-- x − y at the width of w (R270). -/
def execGsub (w : BitVec 3) (d a b : BitVec 6) : State → Result :=
  gr2 16 w d a b fun x y => 2 ^ widthOf w + lowW w x - lowW w y

/-- x × y at the width of w (R270). -/
def execGmul (w : BitVec 3) (d a b : BitVec 6) : State → Result :=
  gr2 16 w d a b fun x y => lowW w x * lowW w y

/-- High half of the signed product at the width of w (R270). -/
def execGmulhS (w : BitVec 3) (d a b : BitVec 6) : State → Result :=
  gr2 16 w d a b fun x y => highBits (widthOf w) (signedW w x * signedW w y)

/-- High half of the unsigned product at the width of w (R270). -/
def execGmulhZ (w : BitVec 3) (d a b : BitVec 6) : State → Result :=
  gr2 16 w d a b fun x y => highBits (widthOf w) (lowW w x * lowW w y)

/-- Signed minimum at the width of w (R270). -/
def execGminS (w : BitVec 3) (d a b : BitVec 6) : State → Result :=
  gr2 16 w d a b fun x y => if signedW w x ≤ signedW w y then lowW w x else lowW w y

/-- Signed maximum at the width of w (R270). -/
def execGmaxS (w : BitVec 3) (d a b : BitVec 6) : State → Result :=
  gr2 16 w d a b fun x y => if signedW w y ≤ signedW w x then lowW w x else lowW w y

/-- Unsigned minimum at the width of w (R270). -/
def execGminZ (w : BitVec 3) (d a b : BitVec 6) : State → Result :=
  gr2 16 w d a b fun x y => min (lowW w x) (lowW w y)

/-- Unsigned maximum at the width of w (R270). -/
def execGmaxZ (w : BitVec 3) (d a b : BitVec 6) : State → Result :=
  gr2 16 w d a b fun x y => max (lowW w x) (lowW w y)

/-- 0 − x at the width of w (R270). -/
def execGneg (w : BitVec 3) (d a : BitVec 6) : State → Result :=
  gr1 16 w d a fun x => 2 ^ widthOf w - lowW w x

/-- x and y at the width of w (R271). -/
def execGand (w : BitVec 3) (d a b : BitVec 6) : State → Result :=
  gr2 17 w d a b fun x y => (x &&& y).toNat

/-- x or y at the width of w (R271). -/
def execGor (w : BitVec 3) (d a b : BitVec 6) : State → Result :=
  gr2 17 w d a b fun x y => (x ||| y).toNat

/-- x xor y at the width of w (R271). -/
def execGxor (w : BitVec 3) (d a b : BitVec 6) : State → Result :=
  gr2 17 w d a b fun x y => (x ^^^ y).toNat

/-- x and not y at the width of w (R271). -/
def execGandn (w : BitVec 3) (d a b : BitVec 6) : State → Result :=
  gr2 17 w d a b fun x y => (x &&& ~~~ y).toNat

/-- Shift left at the width of w (R271). -/
def execGshl (w : BitVec 3) (d a b : BitVec 6) : State → Result :=
  gr2 17 w d a b fun x y => lowW w x * 2 ^ (y.toNat % 64)

/-- Shift right, zeros in at the width of w (R271). -/
def execGshr (w : BitVec 3) (d a b : BitVec 6) : State → Result :=
  gr2 17 w d a b fun x y => lowW w x / 2 ^ (y.toNat % 64)

/-- Shift right, sign in at the width of w (R271). -/
def execGsar (w : BitVec 3) (d a b : BitVec 6) : State → Result :=
  gr2 17 w d a b fun x y => sarW w x (y.toNat % 64)

/-- not x at the width of w (R271). -/
def execGnot (w : BitVec 3) (d a : BitVec 6) : State → Result :=
  gr1 17 w d a fun x => (~~~ x).toNat

/-- Set bits at the width of w (R271). -/
def execGpopc (w : BitVec 3) (d a : BitVec 6) : State → Result :=
  gr1 17 w d a fun x => Bits.popcount (BitVec.ofNat (widthOf w) x.toNat)

/-- Leading zeros at the width of w (R271). -/
def execGclz (w : BitVec 3) (d a : BitVec 6) : State → Result :=
  gr1 17 w d a fun x => Bits.clz (BitVec.ofNat (widthOf w) x.toNat)

/-- Bits reversed at the width of w (R271). -/
def execGbrev (w : BitVec 3) (d a : BitVec 6) : State → Result :=
  gr1 17 w d a fun x => (Bits.reverse (BitVec.ofNat (widthOf w) x.toNat)).toNat

/-- Group compare eq (R272). -/
def execGcmpEq (w k : BitVec 3) (a b : BitVec 6) : State → Result :=
  grCmp w k a b .eq

/-- Group compare ne (R272). -/
def execGcmpNe (w k : BitVec 3) (a b : BitVec 6) : State → Result :=
  grCmp w k a b .ne

/-- Group compare ltS (R272). -/
def execGcmpLtS (w k : BitVec 3) (a b : BitVec 6) : State → Result :=
  grCmp w k a b .ltS

/-- Group compare leS (R272). -/
def execGcmpLeS (w k : BitVec 3) (a b : BitVec 6) : State → Result :=
  grCmp w k a b .leS

/-- Group compare ltZ (R272). -/
def execGcmpLtZ (w k : BitVec 3) (a b : BitVec 6) : State → Result :=
  grCmp w k a b .ltZ

/-- Group compare leZ (R272). -/
def execGcmpLeZ (w k : BitVec 3) (a b : BitVec 6) : State → Result :=
  grCmp w k a b .leZ

/-- G[a] where the old G[d] is not 0, else G[b] (R273). -/
def execGselNz (d a b : BitVec 6) : State → Result :=
  groupG 18 { gr := [d.toNat, a.toNat, b.toNat] } d fun cx =>
    if cx.grp.greg d.toNat ≠ 0 then cx.grp.greg a.toNat else cx.grp.greg b.toNat

/-- Copy a g register (R244). -/
def execMovG (d a : BitVec 6) : State → Result :=
  groupG 18 { gr := [a.toNat] } d fun cx => cx.grp.greg a.toNat

/-- One lane of a vector register into a g register (R245). -/
def execV2g (w : BitVec 3) (d a b : BitVec 6) : State → Result :=
  let va := if w = 0 then regRun a.toNat 2 else [a.toNat]
  groupG 18 { vr := va, gr := [b.toNat] } d fun cx =>
    let l := (cx.grp.greg b.toNat).toNat % 32
    if w = 0 then cx.grp.vpair a.toNat l
    else if w = 1 then (cx.grp.vlane a.toNat l).signExtend 64
    else (cx.grp.vlane a.toNat l).zeroExtend 64

/-- A g register into every active lane (R246). -/
def execG2v (w : BitVec 3) (d a : BitVec 6) : State → Result :=
  let n := if w = 0 then 2 else 1
  gate { gr := [a.toNat], vw := regRun d.toNat n } fun cx s =>
    let s := s.modGroup cx.gid fun g => g.writeLanes cx.sp.mask d.toNat n fun _ => word2 (cx.grp.greg a.toNat)
    .next ((s.nameRegs cx.quad cx.gid d.toNat n).retireG cx 18)

/-- G[a] + i (R274). -/
def execGaddImm (d a : BitVec 6) (i : BitVec 11) : State → Result :=
  gi1 d a fun x => x + i.signExtend 64

/-- G[a] × i (R274). -/
def execGmulImm (d a : BitVec 6) (i : BitVec 11) : State → Result :=
  gi1 d a fun x => x * i.signExtend 64

/-- G[a] and i (R274). -/
def execGandImm (d a : BitVec 6) (i : BitVec 11) : State → Result :=
  gi1 d a fun x => x &&& i.signExtend 64

/-- G[a] or i (R274). -/
def execGorImm (d a : BitVec 6) (i : BitVec 11) : State → Result :=
  gi1 d a fun x => x ||| i.signExtend 64

/-- G[a] xor i (R274). -/
def execGxorImm (d a : BitVec 6) (i : BitVec 11) : State → Result :=
  gi1 d a fun x => x ^^^ i.signExtend 64

/-- Shift left by the immediate (R274). -/
def execGshlImm (d a i : BitVec 6) : State → Result :=
  gi1 d a fun x => x <<< i.toNat

/-- Shift right, zeros in by the immediate (R274). -/
def execGshrImm (d a i : BitVec 6) : State → Result :=
  gi1 d a fun x => x >>> i.toNat

/-- Shift right, sign in by the immediate (R274). -/
def execGsarImm (d a i : BitVec 6) : State → Result :=
  gi1 d a fun x => x.sshiftRight i.toNat

/-- Group compare eq with an immediate (R274). -/
def execGcmpEqImm (k : BitVec 3) (a : BitVec 6) (i : BitVec 11) : State → Result :=
  giCmp k a i .eq

/-- Group compare ltS with an immediate (R274). -/
def execGcmpLtSImm (k : BitVec 3) (a : BitVec 6) (i : BitVec 11) : State → Result :=
  giCmp k a i .ltS

/-- Group compare ltZ with an immediate (R274). -/
def execGcmpLtZImm (k : BitVec 3) (a : BitVec 6) (i : BitVec 11) : State → Result :=
  giCmp k a i .ltZ

/-- A 16-bit quarter, other bits 0 (R124, R275). -/
def execGldq (q : BitVec 2) (d : BitVec 6) (i : BitVec 16) : State → Result :=
  groupG 20 {} d fun _ => i.zeroExtend 64 <<< (16 * q.toNat)

/-- A 16-bit quarter, other bits kept (R124, R275). -/
def execGinsq (q : BitVec 2) (d : BitVec 6) (i : BitVec 16) : State → Result :=
  groupG 20 { gr := [d.toNat] } d fun cx =>
    (cx.grp.greg d.toNat &&& ~~~ ((0xFFFF : DWord) <<< (16 * q.toNat))) ||| (i.zeroExtend 64 <<< (16 * q.toNat))

/-- A sign-extended quarter added (R124, R275). -/
def execGaddq (q : BitVec 2) (d : BitVec 6) (i : BitVec 16) : State → Result :=
  groupG 20 { gr := [d.toNat] } d fun cx => cx.grp.greg d.toNat + (i.signExtend 64 <<< (16 * q.toNat))

/-- M[a] and M[b] (R231). -/
def execMand (k a b : BitVec 3) : State → Result :=
  groupM 22 { mr := [a.toNat, b.toNat] } k fun cx => cx.grp.mreg cx.sp a.toNat &&& cx.grp.mreg cx.sp b.toNat

/-- M[a] or M[b] (R231). -/
def execMor (k a b : BitVec 3) : State → Result :=
  groupM 22 { mr := [a.toNat, b.toNat] } k fun cx => cx.grp.mreg cx.sp a.toNat ||| cx.grp.mreg cx.sp b.toNat

/-- M[a] xor M[b] (R231). -/
def execMxor (k a b : BitVec 3) : State → Result :=
  groupM 22 { mr := [a.toNat, b.toNat] } k fun cx => cx.grp.mreg cx.sp a.toNat ^^^ cx.grp.mreg cx.sp b.toNat

/-- M[a] and not M[b] (R231). -/
def execMandn (k a b : BitVec 3) : State → Result :=
  groupM 22 { mr := [a.toNat, b.toNat] } k fun cx => cx.grp.mreg cx.sp a.toNat &&& ~~~ cx.grp.mreg cx.sp b.toNat

/-- not M[a] (R231). -/
def execMnot (k a : BitVec 3) : State → Result :=
  groupM 22 { mr := [a.toNat] } k fun cx => ~~~ cx.grp.mreg cx.sp a.toNat

/-- A mask into a g register (R231). -/
def execM2g (d : BitVec 6) (k : BitVec 3) : State → Result :=
  groupG 22 { mr := [k.toNat] } d fun cx => (cx.grp.mreg cx.sp k.toNat).zeroExtend 64

/-- The low word of a g register into a mask (R231). -/
def execG2m (k : BitVec 3) (a : BitVec 6) : State → Result :=
  groupM 22 { gr := [a.toNat] } k fun cx => (cx.grp.greg a.toNat).setWidth 32

/-- Set bits of a mask (R231). -/
def execMpopc (d : BitVec 6) (k : BitVec 3) : State → Result :=
  groupG 22 { mr := [k.toNat] } d fun cx => BitVec.ofNat 64 (Bits.popcount (cx.grp.mreg cx.sp k.toNat))

/-- A rejoin register into a mask (R231). -/
def execJ2m (k j : BitVec 3) : State → Result :=
  groupM 22 { jr := [j.toNat] } k fun cx => cx.grp.jreg j.toNat

/-- A mask into a rejoin register; pending JOINs are evaluated again (R228, R231). -/
def execM2j (j k : BitVec 3) : State → Result :=
  gate { mr := [k.toNat] } fun cx s =>
    let s := s.modGroup cx.gid fun g => g.setJ j.toNat (cx.grp.mreg cx.sp k.toNat)
    .next ((s.retireG cx 22).rejoin cx.asid cx.gid)

/-- The matching lanes of each active lane (R232): `n` key registers. -/
def matchOf (min n : Nat) (d a : BitVec 6) : State → Result :=
  laneWhole { key := BitVec.ofNat 32 (0xB0000000 + min * 2 ^ 21), d := d.toNat, vr := regRun a.toNat n } fun cx active =>
    let key := fun l => if n = 1 then (cx.grp.vlane a.toNat l).zeroExtend 64 else cx.grp.vpair a.toNat l
    (fun l => word1 (Bits.maskBy fun k => active.getLsbD k && key k == key l), 0)

/-- Lanes with an equal key word (R232). -/
def execMatchWord (d a : BitVec 6) : State → Result :=
  matchOf 16 1 d a

/-- Lanes with an equal key pair (R232). -/
def execMatchPair (d a : BitVec 6) : State → Result :=
  matchOf 17 2 d a

/-- The lanes of the split whose word is not 0 (R233). -/
def execVote (k : BitVec 3) (a : BitVec 6) : State → Result :=
  groupM 22 { vr := [a.toNat] } k fun cx =>
    cx.sp.mask &&& Bits.maskBy fun l => cx.grp.vlane a.toNat l != 0

/-- The lowest lane of the split (R233). -/
def execElect (k : BitVec 3) : State → Result :=
  groupM 22 {} k fun cx => BitVec.twoPow 32 (Bits.lowest cx.sp.mask)

end Sys2Proof.Machine
end

