-- ==== Sys2Proof/Machine/HostPort.lean ====
section
/-! DEFINITION. The host's accesses, and the mailbox commands on registers, images, identity, keys and checkpoints (R484 to R491). -/

namespace Sys2Proof.Machine

/-! ### CXL accesses (R398, R484) -/

/-- The host accesses device memory: code 0 reads `size` bytes, 1 writes the data, 2 and 3 take the line into its cache, to read
and to write (R484). It is an access of the host to its page's class (R396), and comes again in the next master cycle when its home holds it
(R397). A line that the host writes, or takes to write, leaves the polders (R398). A part in reset presents no host function (R24). -/
def execHostAccess (addr size code : Nat) (data : List Byte) (s : State) : Result :=
  let n := if code = 1 then data.length else size
  let write := code == 1 || code == 3
  if s.inReset ∨ 4 ≤ code ∨ 65536 < addr % 65536 + n ∨ s.rangeKind addr ≠ .device then .next s
  else if s.homeReady .host addr write then
    let s := s.homeTouch .host addr write
    match code with
    | 0 =>
      let x := s.agentRead .host addr size
      .next { x.1 with sent := x.1.sent ++ [.hostData x.2.1] }
    | 1 => .next (s.agentStore .host addr data)
    | c =>
      let line := s.redirect addr / 128
      let s := if c = 3 then s.agentWrote addr 1 else s
      .next { s with hostLines := if s.hostLines.contains line then s.hostLines else s.hostLines ++ [line] }
  else .next ((s.homeTouch .host addr write).holdUntil (.hostAccess addr size code data))

/-- The host gives a line back, with its 128 bytes when it has changed it (R398, R484): the accesses that the line held proceed. -/
def execHostSnoopResponse (line : Nat) (data : List Byte) (s : State) : Result :=
  if !s.hostLines.contains line then .next s
  else
    let s := if data.length = 128 then s.homeWrite (line * 128) data else s
    .next { s with
      hostLines := s.hostLines.filter fun l => l != line
      snoops := s.snoops.filter fun l => l != line }

/-! ### REGREAD and unlisted opcodes (R472, R486, R487) -/

/-- REGREAD (R472, R487). -/
def execRegRead (payload : List Byte) : State → Result :=
  mailboxOp payload [(0, 4), (4, 4)] fun s =>
    let off := field payload 0 4
    let n := field payload 4 4
    if off % 8 ≠ 0 ∨ n = 0 ∨ 64 < n then s.answer .badDesc
    else s.answer .ok (List.replicate 4 0 ++ (List.range n).flatMap fun k => Memory.ofNat 8 (s.regValue (off + 8 * k)))

/-- The opcodes of the vendor range that R486 lists. -/
def listedOpcode (x : Nat) : Bool :=
  (0xC000 ≤ x && x ≤ 0xC003) || (0xC010 ≤ x && x ≤ 0xC018) || (0xC020 ≤ x && x ≤ 0xC023) || x == 0xC030
    || (0xC040 ≤ x && x ≤ 0xC042) || x == 0xC050 || x == 0xC051

/-- An opcode of the vendor range that no row lists is Unsupported, even while a background operation runs (R486; DESIGN CHOICE, log
entry 66). -/
def execUnsupportedOpcode (opcode : Nat) (s : State) : Result :=
  if s.inReset ∨ opcode < 0xC000 ∨ 0xFFFF < opcode ∨ listedOpcode opcode then .next s
  else .next { s with mailbox := { s.mailbox with code := .unsupported } }

/-! ### Filod images (R488) -/

/-- The 32 bytes of a SHAKE256 output. -/
def digestBytes (d : BitVec 256) : List Byte := Memory.ofNat 32 d.toNat

/-- The device identity digest (R489). -/
def identityDigest : BitVec 256 := Config.shake256 ((List.range 128).map Config.devicePublicKey)

/-- The bytes of a signature (R488). -/
def signatureBytes : Nat := 9732

/-- An image passes verification (R488): its header, its device, its signature and its version. -/
def State.imagePasses (s : State) (bs : List Byte) : Bool :=
  let kind := field bs 4 2
  let device := (bs.drop 0x18).take 8
  64 + field bs 0x10 8 + signatureBytes == bs.length && field bs 0x10 8 ≤ 2 ^ 26
    && field bs 0 4 == 0x464C4F44 && 1 ≤ kind && kind ≤ 3
    && (device == List.replicate 8 0 || device == (digestBytes identityDigest).take 8)
    && Config.xmssVerify kind (bs.take (bs.length - signatureBytes)) (bs.drop (bs.length - signatureBytes))
    && s.config.minVersion.lookD kind 0 ≤ field bs 8 8

/-- IMGLOAD reads an image from host memory and verifies it in the background (R487, R488). -/
def execImgLoad (payload : List Byte) : State → Result :=
  mailboxOp payload [(0, 8), (8, 8)] fun s =>
    let addr := field payload 0 8
    let n := field payload 8 8
    if 2 ^ 48 < addr + n then s.answer .badDesc
    else if n < 64 + signatureBytes ∨ 64 + 2 ^ 26 + signatureBytes < n then
      s.background (.imgload 0 { version := 0, digest := 0 } false)
    else
      let bs := s.physBytes (2 ^ 48 + addr) n
      let body := (bs.drop 64).take (n - 64 - signatureBytes)
      s.background (.imgload (field bs 4 2) { version := field bs 8 8, digest := Config.shake256 body } (s.imagePasses bs))

/-- An IMGLOAD ends (R488): a passing image is in flash for the next boot; any other leaves flash as it is. -/
def execImgLoadComplete (s : State) : Result :=
  match s.mailbox.background with
  | some (.imgload kind image true) => .next (({ s with flash := s.flash.put kind image } : State).backgroundDone .ok)
  | some (.imgload _ _ false) => .next (s.backgroundDone .badImage)
  | _ => .next s

/-! ### Attestation and keys (R484, R489, R490) -/

/-- The next index of a device signature (R489): a new configuration image, itself signed under an index, records a block of 1,024 before
any other index of it is used; none when the indices are exhausted. -/
def State.takeIndex (s : State) : Option (Nat × State) :=
  match (if s.config.xmssIndex ≤ s.xmssNext + 1 then s.signConfig id else some s) with
  | none => none
  | some s => if 2 ^ 20 ≤ s.xmssNext then none else some (s.xmssNext, { s with xmssNext := s.xmssNext + 1 })

/-- VERSION and body digest of the image in use of a KIND, as the report holds them (R487). -/
def State.imageBytes (s : State) (kind : Nat) : List Byte :=
  match s.images.look kind with
  | some x => Memory.ofNat 8 x.version ++ digestBytes x.digest
  | none => List.replicate 40 0

/-- The signed part of a report (R487, R490): bytes 0x00 to 0xEF. -/
def State.reportBytes (s : State) (nonce : List Byte) (index : Nat) : List Byte :=
  nonce ++ Memory.ofNat 8 Config.deviceNumber.toNat ++ digestBytes identityDigest
    ++ s.imageBytes 1 ++ s.imageBytes 2 ++ s.imageBytes 3
    ++ Memory.ofNat 32 s.fenceMap.toNat ++ Memory.ofNat 8 s.survivors ++ Memory.ofNat 8 index

/-- ATTEST (R490): a report over the caller's nonce, signed under a fresh index. -/
def execAttest (payload : List Byte) : State → Result :=
  mailboxOp payload [(0, 32)] fun s =>
    match s.takeIndex with
    | none => s.answer .perm
    | some (index, s) =>
      let report := s.reportBytes (payload.take 32) index
      let signature := (List.range signatureBytes).map (Config.xmssSign index report)
      s.answer .ok (Memory.ofNat 4 9972 ++ report ++ signature)

/-- IDEKEY (R484, R487): program a key slot. -/
def execIdeKey (payload : List Byte) : State → Result :=
  mailboxOp payload [(0, 1), (1, 1), (2, 1), (3, 1), (0x10, 32), (0x30, 12)] fun s =>
    let k : IdeKey :=
      { stream := field payload 0 1, transmit := field payload 1 1 == 1, substream := field payload 2 1
        keyset := field payload 3 1, key := (payload.drop 0x10).take 32, iv := (payload.drop 0x30).take 12 }
    if 1 < field payload 1 1 ∨ 1 < k.keyset then s.answer .badDesc
    else
      let same := fun (x : IdeKey) =>
        x.stream == k.stream && x.transmit == k.transmit && x.substream == k.substream && x.keyset == k.keyset
      ({ s with ideKeys := (s.ideKeys.filter fun x => !same x) ++ [k] } : State).answer .ok

/-! ### Checkpoints (R491) -/

/-- The bytes of device memory. -/
def State.deviceCells (s : State) : List Host.Cell := s.mem.filter fun c => c.1 < s.deviceBytes

/-- The device numbers of a checkpoint command (R487). -/
def tierOf (payload : List Byte) : List Nat := ((payload.drop 8).take (field payload 0 1)).map BitVec.toNat

/-- CKPT or CKRESTORE starts (R487, R491): every context must be SUSPENDED or UNBOUND. -/
def startTier (payload : List Byte) (b : List Nat → Background) : State → Result :=
  mailboxOp payload [(0, 1), (8, field payload 0 1)] fun s =>
    let k := field payload 0 1
    if k = 0 ∨ 63 < k ∨ (tierOf payload).any (fun d => 63 < d) then s.answer .badDesc
    else if s.ctxs.any fun c => c.2.state != .suspended then s.answer .badState
    else s.background (b (tierOf payload))

/-- CKPT streams device memory to a safe tier (R491). -/
def execCkpt (payload : List Byte) : State → Result := startTier payload .ckpt

/-- CKRESTORE streams it back (R491). -/
def execCkRestore (payload : List Byte) : State → Result := startTier payload .ckrestore

/-- A CKPT ends: the safe tier holds device memory; PERM when the tier failed (R491). -/
def execCkptComplete (ok : Bool) (s : State) : Result :=
  match s.mailbox.background with
  | some (.ckpt _) =>
    .next (if ok then ({ s with safeTier := s.deviceCells } : State).backgroundDone .ok else s.backgroundDone .perm)
  | _ => .next s

/-- Device memory takes the safe tier's bytes (R491). The cores keep no line or reuse entry of the bytes replaced (DESIGN CHOICE, log entry
66). -/
def State.restoreTier (s : State) : State :=
  { s with
    mem := (s.safeTier.filter fun c => c.1 < s.deviceBytes).foldl (fun m c => Memory.setByte m c.1 c.2)
      (s.mem.filter fun c => s.deviceBytes ≤ c.1)
    memPoison := s.memPoison.filter fun w => s.deviceBytes ≤ 8 * w
    cores := List.map (fun (c : Nat × CoreSt) => (c.1, { c.2 with l1 := [] })) s.cores
    quads := List.map (fun (q : Nat × Quad) => (q.1, q.2.killReuse fun e => !e.pages.isEmpty)) s.quads }

/-- A CKRESTORE ends: device memory is the safe tier's copy; PERM, and no change, when the tier failed (R491). -/
def execCkRestoreComplete (ok : Bool) (s : State) : Result :=
  match s.mailbox.background with
  | some (.ckrestore _) => .next (if ok then s.restoreTier.backgroundDone .ok else s.backgroundDone .perm)
  | _ => .next s

end Sys2Proof.Machine
end

