-- ==== Sys2Proof/Machine/LaneExchange.lean ====
section
/-! DEFINITION. Lane exchange, reductions and prefixes (R51, R52, R292 to R295). -/

namespace Sys2Proof.Machine

/-- An XLN row (R292): each active lane takes the word of its source lane, or its own word of va when there is none. Lanes
outside active supply the word they hold (R293). -/
def xln (min : Nat) (d a : BitVec 6) (c : Nat) (readsD : Bool) (src : Cx → Nat → Option Nat) : State → Result :=
  lx min d a 1 c readsD fun cx _ => (fun l => word1 (cx.grp.vlane a.toNat ((src cx l).getD l)), 0)

/-- A node of the tree (R51): no side, one side, or both combined. -/
def joinNode {α : Type} (op : α → α → α × FlagSet) (x y : Option α × FlagSet) : Option α × FlagSet :=
  match x.1, y.1 with
  | some a, some b => let r := op a b; (some r.1, x.2 ||| y.2 ||| r.2)
  | some a, none => (some a, x.2 ||| y.2)
  | none, b => (b, x.2 ||| y.2)

/-- The tree over 2^level lanes from lane `base` (R51). -/
def treeOf {α : Type} (op : α → α → α × FlagSet) (leaf : Nat → Option α × FlagSet) (level base : Nat) : Option α × FlagSet :=
  match level with
  | 0 => leaf base
  | n + 1 => joinNode op (treeOf op leaf n base) (treeOf op leaf n (base + 2 ^ n))

/-- How a reduction combines (R294): a node's operation and how a lane's value enters the tree. -/
structure Reduce where
  op : DWord → DWord → DWord × FlagSet
  /-- A lane's value as passed: a NaN is made canonical, a signalling one raising NV (R51). -/
  enter : DWord → DWord × FlagSet := fun x => (x, 0)
  identity : DWord

/-- The reduction over the lanes of a mask. -/
def Reduce.over (r : Reduce) (m : Word) (val : Nat → DWord) : Option DWord × FlagSet :=
  treeOf r.op (fun l => if m.getLsbD l then let e := r.enter (val l); (some e.1, e.2) else (none, 0)) 5 0

/-- An integer reduction on words. -/
def redWord (f : Word → Word → Word) (identity : Word) : Reduce :=
  { op := fun x y => ((f (x.setWidth 32) (y.setWidth 32)).zeroExtend 64, 0), identity := identity.zeroExtend 64 }

/-- A NaN enters the tree as the canonical NaN (R51). -/
def enterFloat (f : Fmt) (x : DWord) : DWord × FlagSet :=
  let v := f.unpack x.toNat
  if v.isNan then (BitVec.ofNat 64 f.nanBits, nvIf v.snan) else (x, 0)

/-- A floating-point reduction. -/
def redFloat (f : Fmt) (op : Nat → Nat → Nat × FlagSet) (identity : Nat) : Reduce :=
  { op := fun x y => let r := op x.toNat y.toNat; (BitVec.ofNat 64 r.1, r.2)
    enter := enterFloat f
    identity := BitVec.ofNat 64 identity }

/-- A REDS row over words (n = 1) or pairs (n = 2): every active lane takes the value of the level-5 node (R51, R294). -/
def reds (min : Nat) (d a : BitVec 6) (n : Nat) (r : Reduce) : State → Result :=
  lx min d a n 0 false fun cx active =>
    let t := r.over active fun l => if n = 1 then (cx.grp.vlane a.toNat l).zeroExtend 64 else cx.grp.vpair a.toNat l
    (fun _ => word2 (t.1.getD 0), t.2)

/-- A SCAN row: each active lane takes its inclusive or exclusive prefix (R52, R295). -/
def scan (min : Nat) (d a : BitVec 6) (n : Nat) (e : BitVec 1) (r : Reduce) : State → Result :=
  lx min d a n e.toNat false fun cx active =>
    let val := fun (l : Nat) => if n = 1 then (cx.grp.vlane a.toNat l).zeroExtend 64 else cx.grp.vpair a.toNat l
    let pre := fun (l : Nat) => r.over (active &&& BitVec.ofNat 32 (2 ^ (if e = 1 then l else l + 1) - 1)) val
    (fun l => word2 ((pre l).1.getD r.identity), orFlags active fun l => (pre l).2)

/-- The reductions of R294. -/
def redIadd : Reduce := redWord (· + ·) 0
/-- Signed minimum. -/
def redIminS : Reduce := redWord (fun x y => if x.sle y then x else y) 0x7FFFFFFF
/-- Signed maximum. -/
def redImaxS : Reduce := redWord (fun x y => if y.sle x then x else y) 0x80000000
/-- Unsigned minimum. -/
def redIminZ : Reduce := redWord (fun x y => if x.ule y then x else y) 0xFFFFFFFF
/-- Unsigned maximum. -/
def redImaxZ : Reduce := redWord (fun x y => if y.ule x then x else y) 0
/-- Conjunction. -/
def redAnd : Reduce := redWord (· &&& ·) 0xFFFFFFFF
/-- Disjunction. -/
def redOr : Reduce := redWord (· ||| ·) 0
/-- Exclusive or. -/
def redXor : Reduce := redWord (· ^^^ ·) 0
/-- FP32 sum. -/
def redFadd : Reduce := redFloat fp32 fp32.add 0x80000000
/-- FP32 minimum. -/
def redFmin : Reduce := redFloat fp32 (fp32.minMax false) 0x7F800000
/-- FP32 maximum. -/
def redFmax : Reduce := redFloat fp32 (fp32.minMax true) 0xFF800000
/-- FP64 sum. -/
def redDadd : Reduce := redFloat fp64 fp64.add 0x8000000000000000

/-- Word of lane l − c5 (R292). -/
def execXlnBack (d a : BitVec 6) (c : BitVec 5) : State → Result :=
  xln 0 d a c.toNat false fun _ l => if c.toNat ≤ l then some (l - c.toNat) else none

/-- Word of lane l + c5 (R292). -/
def execXlnAhead (d a : BitVec 6) (c : BitVec 5) : State → Result :=
  xln 1 d a c.toNat false fun _ l => if l + c.toNat < 32 then some (l + c.toNat) else none

/-- Word of lane (l + c5) mod 32 (R292). -/
def execXlnRot (d a : BitVec 6) (c : BitVec 5) : State → Result :=
  xln 2 d a c.toNat false fun _ l => some ((l + c.toNat) % 32)

/-- Word of lane l xor c5 (R292). -/
def execXlnFlip (d a : BitVec 6) (c : BitVec 5) : State → Result :=
  xln 3 d a c.toNat false fun _ l => some (l ^^^ c.toNat)

/-- Word of lane c5 (R292). -/
def execXlnPick (d a : BitVec 6) (c : BitVec 5) : State → Result :=
  xln 4 d a c.toNat false fun _ _ => some c.toNat

/-- Word of the lane that vd names (R292). -/
def execXlnVar (d a : BitVec 6) : State → Result :=
  xln 5 d a 0 true fun cx l => some ((cx.grp.vlane d.toNat l).toNat % 32)

/-- Reduction over the active lanes (R51, R294). -/
def execRedsIadd (d a : BitVec 6) : State → Result :=
  reds 8 d a 1 redIadd

/-- Reduction over the active lanes (R51, R294). -/
def execRedsIminS (d a : BitVec 6) : State → Result :=
  reds 9 d a 1 redIminS

/-- Reduction over the active lanes (R51, R294). -/
def execRedsImaxS (d a : BitVec 6) : State → Result :=
  reds 10 d a 1 redImaxS

/-- Reduction over the active lanes (R51, R294). -/
def execRedsIminZ (d a : BitVec 6) : State → Result :=
  reds 11 d a 1 redIminZ

/-- Reduction over the active lanes (R51, R294). -/
def execRedsImaxZ (d a : BitVec 6) : State → Result :=
  reds 12 d a 1 redImaxZ

/-- Reduction over the active lanes (R51, R294). -/
def execRedsAnd (d a : BitVec 6) : State → Result :=
  reds 13 d a 1 redAnd

/-- Reduction over the active lanes (R51, R294). -/
def execRedsOr (d a : BitVec 6) : State → Result :=
  reds 14 d a 1 redOr

/-- Reduction over the active lanes (R51, R294). -/
def execRedsXor (d a : BitVec 6) : State → Result :=
  reds 15 d a 1 redXor

/-- Reduction over the active lanes (R51, R294). -/
def execRedsFadd (d a : BitVec 6) : State → Result :=
  reds 16 d a 1 redFadd

/-- Reduction over the active lanes (R51, R294). -/
def execRedsFmin (d a : BitVec 6) : State → Result :=
  reds 17 d a 1 redFmin

/-- Reduction over the active lanes (R51, R294). -/
def execRedsFmax (d a : BitVec 6) : State → Result :=
  reds 18 d a 1 redFmax

/-- Reduction over the active lanes (R51, R294). -/
def execRedsDadd (d a : BitVec 6) : State → Result :=
  reds 19 d a 2 redDadd

/-- Prefix over the active lanes (R52, R295). -/
def execScanIadd (d a : BitVec 6) (e : BitVec 1) : State → Result :=
  scan 32 d a 1 e redIadd

/-- Prefix over the active lanes (R52, R295). -/
def execScanIminS (d a : BitVec 6) (e : BitVec 1) : State → Result :=
  scan 33 d a 1 e redIminS

/-- Prefix over the active lanes (R52, R295). -/
def execScanImaxS (d a : BitVec 6) (e : BitVec 1) : State → Result :=
  scan 34 d a 1 e redImaxS

/-- Prefix over the active lanes (R52, R295). -/
def execScanIminZ (d a : BitVec 6) (e : BitVec 1) : State → Result :=
  scan 35 d a 1 e redIminZ

/-- Prefix over the active lanes (R52, R295). -/
def execScanImaxZ (d a : BitVec 6) (e : BitVec 1) : State → Result :=
  scan 36 d a 1 e redImaxZ

/-- Prefix over the active lanes (R52, R295). -/
def execScanAnd (d a : BitVec 6) (e : BitVec 1) : State → Result :=
  scan 37 d a 1 e redAnd

/-- Prefix over the active lanes (R52, R295). -/
def execScanOr (d a : BitVec 6) (e : BitVec 1) : State → Result :=
  scan 38 d a 1 e redOr

/-- Prefix over the active lanes (R52, R295). -/
def execScanXor (d a : BitVec 6) (e : BitVec 1) : State → Result :=
  scan 39 d a 1 e redXor

/-- Prefix over the active lanes (R52, R295). -/
def execScanFadd (d a : BitVec 6) (e : BitVec 1) : State → Result :=
  scan 40 d a 1 e redFadd

/-- Prefix over the active lanes (R52, R295). -/
def execScanFmin (d a : BitVec 6) (e : BitVec 1) : State → Result :=
  scan 41 d a 1 e redFmin

/-- Prefix over the active lanes (R52, R295). -/
def execScanFmax (d a : BitVec 6) (e : BitVec 1) : State → Result :=
  scan 42 d a 1 e redFmax

/-- Prefix over the active lanes (R52, R295). -/
def execScanDadd (d a : BitVec 6) (e : BitVec 1) : State → Result :=
  scan 43 d a 2 e redDadd

end Sys2Proof.Machine
end

