-- ==== Sys2Proof/Machine/LaneInt.lean ====
section
/-! DEFINITION. Lane-set integer, logic, compare, select and immediate instructions (R256 to R267, R243). -/

namespace Sys2Proof.Machine

/-- A signed value clamped to 32 bits (R259). -/
def clampS (x : Int) : Word := BitVec.ofInt 32 (min (max x (-(2 ^ 31))) (2 ^ 31 - 1))

/-- Rotate left (R260). -/
def rolWord (a : Word) (c : Nat) : Word := (a <<< c) ||| (a >>> (32 - c))

/-- The count of a 32-bit shift: bits [4:0] of b. -/
def count5 (b : Word) : Nat := b.toNat % 32

/-- The count of a 64-bit shift: bits [5:0] of b. -/
def count6 (b : Word) : Nat := b.toNat % 64

/-- The smaller or larger operand of a relation. -/
def pick {w : Nat} (r : Rel) (x y : BitVec w) : BitVec w := if r.holds x y then x else y

/-- len = 4 × (imm8[7:5] + 1) of a bit-field instruction (R265). -/
def fieldLen (n : BitVec 3) : Nat := 4 * (n.toNat + 1)

/-- The field of BFX (R265): bits above bit 31 read as 0. -/
def fieldOf (x : Word) (pos len : Nat) : Nat := x.toNat / 2 ^ pos % 2 ^ len

/-- a + b (R259). -/
def execIadd (g : BitVec 3) (d a b : BitVec 6) : State → Result :=
  lr2 0 0 g d a b fun x y => (x + y, 0)

/-- a − b (R259). -/
def execIsub (g : BitVec 3) (d a b : BitVec 6) : State → Result :=
  lr2 0 1 g d a b fun x y => (x - y, 0)

/-- Low word of a × b (R259). -/
def execImul (g : BitVec 3) (d a b : BitVec 6) : State → Result :=
  lr2 0 2 g d a b fun x y => (x * y, 0)

/-- High word of the signed product (R259). -/
def execImulhS (g : BitVec 3) (d a b : BitVec 6) : State → Result :=
  lr2 0 3 g d a b fun x y => (BitVec.ofInt 32 (x.toInt * y.toInt / 2 ^ 32), 0)

/-- High word of the unsigned product (R259). -/
def execImulhZ (g : BitVec 3) (d a b : BitVec 6) : State → Result :=
  lr2 0 4 g d a b fun x y => (BitVec.ofNat 32 (x.toNat * y.toNat / 2 ^ 32), 0)

/-- Signed saturating sum (R259). -/
def execIaddSatS (g : BitVec 3) (d a b : BitVec 6) : State → Result :=
  lr2 0 5 g d a b fun x y => (clampS (x.toInt + y.toInt), 0)

/-- Unsigned saturating sum (R259). -/
def execIaddSatZ (g : BitVec 3) (d a b : BitVec 6) : State → Result :=
  lr2 0 6 g d a b fun x y => (BitVec.ofNat 32 (min (x.toNat + y.toNat) (2 ^ 32 - 1)), 0)

/-- Signed saturating difference (R259). -/
def execIsubSatS (g : BitVec 3) (d a b : BitVec 6) : State → Result :=
  lr2 0 7 g d a b fun x y => (clampS (x.toInt - y.toInt), 0)

/-- Unsigned difference, not below 0 (R259). -/
def execIsubSatZ (g : BitVec 3) (d a b : BitVec 6) : State → Result :=
  lr2 0 8 g d a b fun x y => (BitVec.ofNat 32 (x.toNat - y.toNat), 0)

/-- Signed minimum (R259). -/
def execIminS (g : BitVec 3) (d a b : BitVec 6) : State → Result :=
  lr2 0 9 g d a b fun x y => (pick .leS x y, 0)

/-- Unsigned minimum (R259). -/
def execIminZ (g : BitVec 3) (d a b : BitVec 6) : State → Result :=
  lr2 0 10 g d a b fun x y => (pick .leZ x y, 0)

/-- Signed maximum (R259). -/
def execImaxS (g : BitVec 3) (d a b : BitVec 6) : State → Result :=
  lr2 0 11 g d a b fun x y => (pick .geS x y, 0)

/-- Unsigned maximum (R259). -/
def execImaxZ (g : BitVec 3) (d a b : BitVec 6) : State → Result :=
  lr2 0 12 g d a b fun x y => (pick .geZ x y, 0)

/-- Absolute value, modulo 2^32 (R259). -/
def execIabs (g : BitVec 3) (d a : BitVec 6) : State → Result :=
  lr1 0 13 g d a fun x => (if x.msb then 0 - x else x, 0)

/-- 0 − a (R259). -/
def execIneg (g : BitVec 3) (d a : BitVec 6) : State → Result :=
  lr1 0 14 g d a fun x => (0 - x, 0)

/-- Pair sum (R259). -/
def execIadd64 (g : BitVec 3) (d a b : BitVec 6) : State → Result :=
  lrPpp 0 16 g d a b fun x y => (x + y, 0)

/-- Pair plus sign-extended word (R259). -/
def execIadd64S (g : BitVec 3) (d a b : BitVec 6) : State → Result :=
  lrPpw 0 17 g d a b fun x y => x + y.signExtend 64

/-- Pair plus zero-extended word (R259). -/
def execIadd64Z (g : BitVec 3) (d a b : BitVec 6) : State → Result :=
  lrPpw 0 18 g d a b fun x y => x + y.zeroExtend 64

/-- Pair difference (R259). -/
def execIsub64 (g : BitVec 3) (d a b : BitVec 6) : State → Result :=
  lrPpp 0 19 g d a b fun x y => (x - y, 0)

/-- Signed 64-bit product (R259). -/
def execImulwS (g : BitVec 3) (d a b : BitVec 6) : State → Result :=
  lrPww 0 20 g d a b fun x y => x.signExtend 64 * y.signExtend 64

/-- Unsigned 64-bit product (R259). -/
def execImulwZ (g : BitVec 3) (d a b : BitVec 6) : State → Result :=
  lrPww 0 21 g d a b fun x y => x.zeroExtend 64 * y.zeroExtend 64

/-- a and b (R260). -/
def execAnd (g : BitVec 3) (d a b : BitVec 6) : State → Result :=
  lr2 1 0 g d a b fun x y => (x &&& y, 0)

/-- a or b (R260). -/
def execOr (g : BitVec 3) (d a b : BitVec 6) : State → Result :=
  lr2 1 1 g d a b fun x y => (x ||| y, 0)

/-- a xor b (R260). -/
def execXor (g : BitVec 3) (d a b : BitVec 6) : State → Result :=
  lr2 1 2 g d a b fun x y => (x ^^^ y, 0)

/-- a and not b (R260). -/
def execAndn (g : BitVec 3) (d a b : BitVec 6) : State → Result :=
  lr2 1 3 g d a b fun x y => (x &&& ~~~ y, 0)

/-- Shift left (R260). -/
def execShl (g : BitVec 3) (d a b : BitVec 6) : State → Result :=
  lr2 1 5 g d a b fun x y => (x <<< count5 y, 0)

/-- Shift right, zeros in (R260). -/
def execShr (g : BitVec 3) (d a b : BitVec 6) : State → Result :=
  lr2 1 6 g d a b fun x y => (x >>> count5 y, 0)

/-- Shift right, sign in (R260). -/
def execSar (g : BitVec 3) (d a b : BitVec 6) : State → Result :=
  lr2 1 7 g d a b fun x y => (x.sshiftRight (count5 y), 0)

/-- Rotate left (R260). -/
def execRol (g : BitVec 3) (d a b : BitVec 6) : State → Result :=
  lr2 1 8 g d a b fun x y => (rolWord x (count5 y), 0)

/-- not a (R260). -/
def execNot (g : BitVec 3) (d a : BitVec 6) : State → Result :=
  lr1 1 4 g d a fun x => (~~~ x, 0)

/-- Set bits of a (R260). -/
def execPopc (g : BitVec 3) (d a : BitVec 6) : State → Result :=
  lr1 1 9 g d a fun x => (BitVec.ofNat 32 (Bits.popcount x), 0)

/-- Leading zeros of a (R260). -/
def execClz (g : BitVec 3) (d a : BitVec 6) : State → Result :=
  lr1 1 10 g d a fun x => (BitVec.ofNat 32 (Bits.clz x), 0)

/-- Bits of a reversed (R260). -/
def execBrev (g : BitVec 3) (d a : BitVec 6) : State → Result :=
  lr1 1 11 g d a fun x => (Bits.reverse x, 0)

/-- Pair shifted left (R260). -/
def execShl64 (g : BitVec 3) (d a b : BitVec 6) : State → Result :=
  lrPpw 1 12 g d a b fun x y => x <<< count6 y

/-- Pair shifted right, zeros in (R260). -/
def execShr64 (g : BitVec 3) (d a b : BitVec 6) : State → Result :=
  lrPpw 1 13 g d a b fun x y => x >>> count6 y

/-- Pair shifted right, sign in (R260). -/
def execSar64 (g : BitVec 3) (d a b : BitVec 6) : State → Result :=
  lrPpw 1 14 g d a b fun x y => x.sshiftRight (count6 y)

/-- Copy a register (R243): never a reuse candidate; with every lane active the destination takes the name of va. -/
def execMov (g : BitVec 3) (d a : BitVec 6) : State → Result :=
  let o := { opLR 1 15 g d.toNat 1 a.toNat 1 0 0 with candidate := false }
  gate o.uses fun cx s =>
    let f := fun (l : Nat) => word1 (cx.grp.vlane a.toNat l)
    if cx.active o.guard = BitVec.allOnes 32 then
      let t := (s.modGroup cx.gid fun g => g.writeLanes (BitVec.allOnes 32) d.toNat 1 f).rename cx.quad cx.gid d.toNat
        (Bits.rd cx.grp.names a.toNat 2048)
      .next (t.retire cx (chargeOf (s.weight cx.core (classOf o.key)) (classOf o.key) 32 (cx.grp.narrowSources o.vr)))
    else .next (laneBody o (fun _ _ => (f, 0)) cx s)

/-- Integer compare eq into a mask (R261). -/
def execIcmpEq (g k : BitVec 3) (a b : BitVec 6) : State → Result :=
  lrCmp g k a b fun x y => (Rel.eq.holds x y, 0)

/-- Integer compare ne into a mask (R261). -/
def execIcmpNe (g k : BitVec 3) (a b : BitVec 6) : State → Result :=
  lrCmp g k a b fun x y => (Rel.ne.holds x y, 0)

/-- Integer compare ltS into a mask (R261). -/
def execIcmpLtS (g k : BitVec 3) (a b : BitVec 6) : State → Result :=
  lrCmp g k a b fun x y => (Rel.ltS.holds x y, 0)

/-- Integer compare leS into a mask (R261). -/
def execIcmpLeS (g k : BitVec 3) (a b : BitVec 6) : State → Result :=
  lrCmp g k a b fun x y => (Rel.leS.holds x y, 0)

/-- Integer compare gtS into a mask (R261). -/
def execIcmpGtS (g k : BitVec 3) (a b : BitVec 6) : State → Result :=
  lrCmp g k a b fun x y => (Rel.gtS.holds x y, 0)

/-- Integer compare geS into a mask (R261). -/
def execIcmpGeS (g k : BitVec 3) (a b : BitVec 6) : State → Result :=
  lrCmp g k a b fun x y => (Rel.geS.holds x y, 0)

/-- Integer compare ltZ into a mask (R261). -/
def execIcmpLtZ (g k : BitVec 3) (a b : BitVec 6) : State → Result :=
  lrCmp g k a b fun x y => (Rel.ltZ.holds x y, 0)

/-- Integer compare leZ into a mask (R261). -/
def execIcmpLeZ (g k : BitVec 3) (a b : BitVec 6) : State → Result :=
  lrCmp g k a b fun x y => (Rel.leZ.holds x y, 0)

/-- Integer compare gtZ into a mask (R261). -/
def execIcmpGtZ (g k : BitVec 3) (a b : BitVec 6) : State → Result :=
  lrCmp g k a b fun x y => (Rel.gtZ.holds x y, 0)

/-- Integer compare geZ into a mask (R261). -/
def execIcmpGeZ (g k : BitVec 3) (a b : BitVec 6) : State → Result :=
  lrCmp g k a b fun x y => (Rel.geZ.holds x y, 0)

/-- Mask bit set where the word is not 0 (R262). -/
def execV2m (g k : BitVec 3) (a : BitVec 6) : State → Result :=
  laneMask 2 g.toNat k.toNat [a.toNat] [] fun cx l => (cx.grp.vlane a.toNat l != 0, 0)

/-- The mask bit as a word (R262, R258). -/
def execM2v (g : BitVec 3) (d : BitVec 6) (k : BitVec 3) : State → Result :=
  laneEach { key := keyLR 2 33 g, guard := g.toNat, d := d.toNat, vr := [], mr := [k.toNat] } fun cx l =>
    (word1 (if (cx.grp.mreg cx.sp k.toNat).getLsbD l then 1 else 0), 0)

/-- a × b + c (R263). -/
def execImad (d a b c : BitVec 6) : State → Result :=
  lf3 7 0 d a b c fun x y z => (x * y + z, 0)

/-- Signed a × b + C (R263). -/
def execImadwS (d a b c : BitVec 6) : State → Result :=
  lfPwwp 7 1 d a b c fun x y z => x.signExtend 64 * y.signExtend 64 + z

/-- Unsigned a × b + C (R263). -/
def execImadwZ (d a b c : BitVec 6) : State → Result :=
  lfPwwp 7 2 d a b c fun x y z => x.zeroExtend 64 * y.zeroExtend 64 + z

/-- va where the mask bit is set, vb elsewhere (R110, R258, R263). -/
def execSel (d a b : BitVec 6) (k : BitVec 3) : State → Result :=
  laneEach { opLF 7 3 d.toNat 1 a.toNat 1 b.toNat 1 0 0 with mr := [k.toNat] } fun cx l =>
    (word1 (if (cx.grp.mreg cx.sp k.toNat).getLsbD l then cx.grp.vlane a.toNat l else cx.grp.vlane b.toNat l), 0)

/-- The same on pairs (R110, R258, R263). -/
def execSel64 (d a b : BitVec 6) (k : BitVec 3) : State → Result :=
  laneEach { opLF 7 4 d.toNat 2 a.toNat 2 b.toNat 2 0 0 with mr := [k.toNat] } fun cx l =>
    (word2 (if (cx.grp.mreg cx.sp k.toNat).getLsbD l then cx.grp.vpair a.toNat l else cx.grp.vpair b.toNat l), 0)

/-- a + imm (R264). -/
def execIaddImm (g : BitVec 3) (d a : BitVec 6) (i : BitVec 8) : State → Result :=
  li1 8 0 g d a i.toNat false fun _ _ x => x + i.signExtend 32

/-- a × imm (R264). -/
def execImulImm (g : BitVec 3) (d a : BitVec 6) (i : BitVec 8) : State → Result :=
  li1 8 1 g d a i.toNat false fun _ _ x => x * i.signExtend 32

/-- a and imm (R264). -/
def execAndImm (g : BitVec 3) (d a : BitVec 6) (i : BitVec 8) : State → Result :=
  li1 8 2 g d a i.toNat false fun _ _ x => x &&& i.zeroExtend 32

/-- a or imm (R264). -/
def execOrImm (g : BitVec 3) (d a : BitVec 6) (i : BitVec 8) : State → Result :=
  li1 8 3 g d a i.toNat false fun _ _ x => x ||| i.zeroExtend 32

/-- a xor imm (R264). -/
def execXorImm (g : BitVec 3) (d a : BitVec 6) (i : BitVec 8) : State → Result :=
  li1 8 4 g d a i.toNat false fun _ _ x => x ^^^ i.zeroExtend 32

/-- a shifted left by imm (R264). -/
def execShlImm (g : BitVec 3) (d a : BitVec 6) (i : BitVec 5) : State → Result :=
  li1 8 5 g d a i.toNat false fun _ _ x => x <<< i.toNat

/-- a shifted right by imm, zeros in (R264). -/
def execShrImm (g : BitVec 3) (d a : BitVec 6) (i : BitVec 5) : State → Result :=
  li1 8 6 g d a i.toNat false fun _ _ x => x >>> i.toNat

/-- a shifted right by imm, sign in (R264). -/
def execSarImm (g : BitVec 3) (d a : BitVec 6) (i : BitVec 5) : State → Result :=
  li1 8 7 g d a i.toNat false fun _ _ x => x.sshiftRight i.toNat

/-- Compare eq with an immediate (R264). -/
def execIcmpEqImm (g k : BitVec 3) (a : BitVec 6) (i : BitVec 8) : State → Result :=
  liCmp g k a .eq (i.signExtend 32)

/-- Compare ne with an immediate (R264). -/
def execIcmpNeImm (g k : BitVec 3) (a : BitVec 6) (i : BitVec 8) : State → Result :=
  liCmp g k a .ne (i.signExtend 32)

/-- Compare ltS with an immediate (R264). -/
def execIcmpLtSImm (g k : BitVec 3) (a : BitVec 6) (i : BitVec 8) : State → Result :=
  liCmp g k a .ltS (i.signExtend 32)

/-- Compare gtS with an immediate (R264). -/
def execIcmpGtSImm (g k : BitVec 3) (a : BitVec 6) (i : BitVec 8) : State → Result :=
  liCmp g k a .gtS (i.signExtend 32)

/-- Compare ltZ with an immediate (R264). -/
def execIcmpLtZImm (g k : BitVec 3) (a : BitVec 6) (i : BitVec 8) : State → Result :=
  liCmp g k a .ltZ (i.zeroExtend 32)

/-- Compare gtZ with an immediate (R264). -/
def execIcmpGtZImm (g k : BitVec 3) (a : BitVec 6) (i : BitVec 8) : State → Result :=
  liCmp g k a .gtZ (i.zeroExtend 32)

/-- Extract a field, zero-extended (R265). -/
def execBfxZ (g : BitVec 3) (d a : BitVec 6) (n : BitVec 3) (p : BitVec 5) : State → Result :=
  li1 9 0 g d a (n.toNat * 32 + p.toNat) false fun _ _ x => BitVec.ofNat 32 (fieldOf x p.toNat (fieldLen n))

/-- Extract a field, sign-extended (R265). -/
def execBfxS (g : BitVec 3) (d a : BitVec 6) (n : BitVec 3) (p : BitVec 5) : State → Result :=
  li1 9 1 g d a (n.toNat * 32 + p.toNat) false fun _ _ x =>
    (BitVec.ofNat (fieldLen n) (fieldOf x p.toNat (fieldLen n))).signExtend 32

/-- Insert a field into vd (R265). -/
def execBfi (g : BitVec 3) (d a : BitVec 6) (n : BitVec 3) (p : BitVec 5) : State → Result :=
  li1 9 2 g d a (n.toNat * 32 + p.toNat) true fun cx l x =>
    let m : Word := BitVec.ofNat 32 ((2 ^ fieldLen n - 1) * 2 ^ p.toNat)
    (cx.grp.vlane d.toNat l &&& ~~~ m) ||| ((x <<< p.toNat) &&& m)

/-- a + lane number × imm (R266). -/
def execLseq (g : BitVec 3) (d a : BitVec 6) (i : BitVec 8) : State → Result :=
  li1 9 3 g d a i.toNat false fun _ l x => x + BitVec.ofNat 32 l * i.signExtend 32

/-- Sign-extended immediate (R113, R267). -/
def execLdi (g : BitVec 3) (d : BitVec 6) (i : BitVec 16) : State → Result :=
  lk1 0 g d i false fun _ => i.signExtend 32

/-- Immediate into the upper half (R113, R267). -/
def execLdih (g : BitVec 3) (d : BitVec 6) (i : BitVec 16) : State → Result :=
  lk1 1 g d i true fun x => i ++ x.setWidth 16

/-- Immediate added to the upper half (R113, R267). -/
def execAddih (g : BitVec 3) (d : BitVec 6) (i : BitVec 16) : State → Result :=
  lk1 2 g d i true fun x => x + (i ++ (0 : BitVec 16))

end Sys2Proof.Machine
end

