-- ==== Sys2Proof/Machine/LoadStore.lean ====
section
/-! DEFINITION. Loads, stores and atomics of both sets (R296 to R313). -/

namespace Sys2Proof.Machine

/-- Global load of 1 bytes a lane (R299). -/
def execLdZb (l : BitVec 4) (d a : BitVec 6) (b : BitVec 3) : State → Result :=
  laneLoad 0 l d a b 1 false none

/-- Global load of 1 bytes a lane (R299). -/
def execLdSb (l : BitVec 4) (d a : BitVec 6) (b : BitVec 3) : State → Result :=
  laneLoad 1 l d a b 1 true none

/-- Global load of 2 bytes a lane (R299). -/
def execLdZh (l : BitVec 4) (d a : BitVec 6) (b : BitVec 3) : State → Result :=
  laneLoad 2 l d a b 2 false none

/-- Global load of 2 bytes a lane (R299). -/
def execLdSh (l : BitVec 4) (d a : BitVec 6) (b : BitVec 3) : State → Result :=
  laneLoad 3 l d a b 2 true none

/-- Global load of 4 bytes a lane (R299). -/
def execLdW (l : BitVec 4) (d a : BitVec 6) (b : BitVec 3) : State → Result :=
  laneLoad 4 l d a b 4 false none

/-- Global load of 8 bytes a lane (R299). -/
def execLdD (l : BitVec 4) (d a : BitVec 6) (b : BitVec 3) : State → Result :=
  laneLoad 5 l d a b 8 false none

/-- Global load of 16 bytes a lane (R299). -/
def execLdQ (l : BitVec 4) (d a : BitVec 6) (b : BitVec 3) : State → Result :=
  laneLoad 6 l d a b 16 false none

/-- Global load of 4 bytes a lane, acquire (R300). -/
def execLdWAcqDev (l : BitVec 4) (d a : BitVec 6) (b : BitVec 3) : State → Result :=
  laneLoad 8 l d a b 4 false (some 4)

/-- Global load of 8 bytes a lane, acquire (R300). -/
def execLdDAcqDev (l : BitVec 4) (d a : BitVec 6) (b : BitVec 3) : State → Result :=
  laneLoad 9 l d a b 8 false (some 4)

/-- Global load of 4 bytes a lane, acquire (R300). -/
def execLdWAcqSys (l : BitVec 4) (d a : BitVec 6) (b : BitVec 3) : State → Result :=
  laneLoad 10 l d a b 4 false (some 5)

/-- Global load of 8 bytes a lane, acquire (R300). -/
def execLdDAcqSys (l : BitVec 4) (d a : BitVec 6) (b : BitVec 3) : State → Result :=
  laneLoad 11 l d a b 8 false (some 5)

/-- Global store of 1 bytes a lane (R302). -/
def execStB (sf a : BitVec 6) (b : BitVec 3) : State → Result :=
  laneStore sf a b 1 none

/-- Global store of 2 bytes a lane (R302). -/
def execStH (sf a : BitVec 6) (b : BitVec 3) : State → Result :=
  laneStore sf a b 2 none

/-- Global store of 4 bytes a lane (R302). -/
def execStW (sf a : BitVec 6) (b : BitVec 3) : State → Result :=
  laneStore sf a b 4 none

/-- Global store of 8 bytes a lane (R302). -/
def execStD (sf a : BitVec 6) (b : BitVec 3) : State → Result :=
  laneStore sf a b 8 none

/-- Global store of 16 bytes a lane (R302). -/
def execStQ (sf a : BitVec 6) (b : BitVec 3) : State → Result :=
  laneStore sf a b 16 none

/-- Global store of 4 bytes a lane, release (R303). -/
def execStWRelDev (sf a : BitVec 6) (b : BitVec 3) : State → Result :=
  laneStore sf a b 4 (some 4)

/-- Global store of 8 bytes a lane, release (R303). -/
def execStDRelDev (sf a : BitVec 6) (b : BitVec 3) : State → Result :=
  laneStore sf a b 8 (some 4)

/-- Global store of 4 bytes a lane, release (R303). -/
def execStWRelSys (sf a : BitVec 6) (b : BitVec 3) : State → Result :=
  laneStore sf a b 4 (some 5)

/-- Global store of 8 bytes a lane, release (R303). -/
def execStDRelSys (sf a : BitVec 6) (b : BitVec 3) : State → Result :=
  laneStore sf a b 8 (some 5)

/-- Scratchpad load of 1 bytes a lane (R299, R305). -/
def execLdsZb (d a : BitVec 6) (x b : BitVec 3) : State → Result :=
  scratchLoad 16 d a x b 1 false

/-- Scratchpad load of 1 bytes a lane (R299, R305). -/
def execLdsSb (d a : BitVec 6) (x b : BitVec 3) : State → Result :=
  scratchLoad 17 d a x b 1 true

/-- Scratchpad load of 2 bytes a lane (R299, R305). -/
def execLdsZh (d a : BitVec 6) (x b : BitVec 3) : State → Result :=
  scratchLoad 18 d a x b 2 false

/-- Scratchpad load of 2 bytes a lane (R299, R305). -/
def execLdsSh (d a : BitVec 6) (x b : BitVec 3) : State → Result :=
  scratchLoad 19 d a x b 2 true

/-- Scratchpad load of 4 bytes a lane (R299, R305). -/
def execLdsW (d a : BitVec 6) (x b : BitVec 3) : State → Result :=
  scratchLoad 20 d a x b 4 false

/-- Scratchpad load of 8 bytes a lane (R299, R305). -/
def execLdsD (d a : BitVec 6) (x b : BitVec 3) : State → Result :=
  scratchLoad 21 d a x b 8 false

/-- Scratchpad load of 16 bytes a lane (R299, R305). -/
def execLdsQ (d a : BitVec 6) (x b : BitVec 3) : State → Result :=
  scratchLoad 22 d a x b 16 false

/-- Scratchpad store of 1 bytes a lane (R302). -/
def execStsB (sf a : BitVec 6) (x b : BitVec 3) : State → Result :=
  scratchStore sf a x b 1

/-- Scratchpad store of 2 bytes a lane (R302). -/
def execStsH (sf a : BitVec 6) (x b : BitVec 3) : State → Result :=
  scratchStore sf a x b 2

/-- Scratchpad store of 4 bytes a lane (R302). -/
def execStsW (sf a : BitVec 6) (x b : BitVec 3) : State → Result :=
  scratchStore sf a x b 4

/-- Scratchpad store of 8 bytes a lane (R302). -/
def execStsD (sf a : BitVec 6) (x b : BitVec 3) : State → Result :=
  scratchStore sf a x b 8

/-- Scratchpad store of 16 bytes a lane (R302). -/
def execStsQ (sf a : BitVec 6) (x b : BitVec 3) : State → Result :=
  scratchStore sf a x b 16

/-- Scratchpad atomic (R306). -/
def execAtsAdd (d a : BitVec 6) (x b : BitVec 3) : State → Result :=
  scratchAtomic 0 d a x b

/-- Scratchpad atomic (R306). -/
def execAtsXchg (d a : BitVec 6) (x b : BitVec 3) : State → Result :=
  scratchAtomic 1 d a x b

/-- Scratchpad atomic (R306). -/
def execAtsCas (d a : BitVec 6) (x b : BitVec 3) : State → Result :=
  scratchAtomic 2 d a x b

/-- Memory-side atomic, one a lane (R307 to R309). -/
def execAtomAdd (r : BitVec 1) (l : BitVec 4) (d : BitVec 6) (a : BitVec 5) (sf : BitVec 1) (b : BitVec 6) : State → Result :=
  laneAtomic 0 r l d a sf b

/-- Memory-side atomic, one a lane (R307 to R309). -/
def execAtomAnd (r : BitVec 1) (l : BitVec 4) (d : BitVec 6) (a : BitVec 5) (sf : BitVec 1) (b : BitVec 6) : State → Result :=
  laneAtomic 1 r l d a sf b

/-- Memory-side atomic, one a lane (R307 to R309). -/
def execAtomOr (r : BitVec 1) (l : BitVec 4) (d : BitVec 6) (a : BitVec 5) (sf : BitVec 1) (b : BitVec 6) : State → Result :=
  laneAtomic 2 r l d a sf b

/-- Memory-side atomic, one a lane (R307 to R309). -/
def execAtomXor (r : BitVec 1) (l : BitVec 4) (d : BitVec 6) (a : BitVec 5) (sf : BitVec 1) (b : BitVec 6) : State → Result :=
  laneAtomic 3 r l d a sf b

/-- Memory-side atomic, one a lane (R307 to R309). -/
def execAtomXchg (r : BitVec 1) (l : BitVec 4) (d : BitVec 6) (a : BitVec 5) (sf : BitVec 1) (b : BitVec 6) : State → Result :=
  laneAtomic 4 r l d a sf b

/-- Memory-side atomic, one a lane (R307 to R309). -/
def execAtomCas (r : BitVec 1) (l : BitVec 4) (d : BitVec 6) (a : BitVec 5) (sf : BitVec 1) (b : BitVec 6) : State → Result :=
  laneAtomic 5 r l d a sf b

/-- Memory-side atomic, one a lane (R307 to R309). -/
def execAtomMinS (r : BitVec 1) (l : BitVec 4) (d : BitVec 6) (a : BitVec 5) (sf : BitVec 1) (b : BitVec 6) : State → Result :=
  laneAtomic 6 r l d a sf b

/-- Memory-side atomic, one a lane (R307 to R309). -/
def execAtomMaxS (r : BitVec 1) (l : BitVec 4) (d : BitVec 6) (a : BitVec 5) (sf : BitVec 1) (b : BitVec 6) : State → Result :=
  laneAtomic 7 r l d a sf b

/-- Memory-side atomic, one a lane (R307 to R309). -/
def execAtomMinZ (r : BitVec 1) (l : BitVec 4) (d : BitVec 6) (a : BitVec 5) (sf : BitVec 1) (b : BitVec 6) : State → Result :=
  laneAtomic 8 r l d a sf b

/-- Memory-side atomic, one a lane (R307 to R309). -/
def execAtomMaxZ (r : BitVec 1) (l : BitVec 4) (d : BitVec 6) (a : BitVec 5) (sf : BitVec 1) (b : BitVec 6) : State → Result :=
  laneAtomic 9 r l d a sf b

/-- Memory-side atomic, one a lane (R307 to R309). -/
def execAtomFadd (r : BitVec 1) (l : BitVec 4) (d : BitVec 6) (a : BitVec 5) (sf : BitVec 1) (b : BitVec 6) : State → Result :=
  laneAtomic 10 r l d a sf b

/-- Memory-side atomic, one a lane (R307 to R309). -/
def execAtomAddD (r : BitVec 1) (l : BitVec 4) (d : BitVec 6) (a : BitVec 5) (sf : BitVec 1) (b : BitVec 6) : State → Result :=
  laneAtomic 11 r l d a sf b

/-- Memory-side atomic, one a lane (R307 to R309). -/
def execAtomXchgD (r : BitVec 1) (l : BitVec 4) (d : BitVec 6) (a : BitVec 5) (sf : BitVec 1) (b : BitVec 6) : State → Result :=
  laneAtomic 12 r l d a sf b

/-- Memory-side atomic, one a lane (R307 to R309). -/
def execAtomCasD (r : BitVec 1) (l : BitVec 4) (d : BitVec 6) (a : BitVec 5) (sf : BitVec 1) (b : BitVec 6) : State → Result :=
  laneAtomic 13 r l d a sf b

/-- Memory-side atomic, one a lane (R307 to R309). -/
def execAtomMinZD (r : BitVec 1) (l : BitVec 4) (d : BitVec 6) (a : BitVec 5) (sf : BitVec 1) (b : BitVec 6) : State → Result :=
  laneAtomic 14 r l d a sf b

/-- Memory-side atomic, one a lane (R307 to R309). -/
def execAtomMaxZD (r : BitVec 1) (l : BitVec 4) (d : BitVec 6) (a : BitVec 5) (sf : BitVec 1) (b : BitVec 6) : State → Result :=
  laneAtomic 15 r l d a sf b

/-- Uniform load of 1 bytes (R311). -/
def execGldZb (l : BitVec 4) (a b : BitVec 6) (o : BitVec 4) : State → Result :=
  groupLoad l a b o 1 false

/-- Uniform load of 1 bytes (R311). -/
def execGldSb (l : BitVec 4) (a b : BitVec 6) (o : BitVec 4) : State → Result :=
  groupLoad l a b o 1 true

/-- Uniform load of 2 bytes (R311). -/
def execGldZh (l : BitVec 4) (a b : BitVec 6) (o : BitVec 4) : State → Result :=
  groupLoad l a b o 2 false

/-- Uniform load of 2 bytes (R311). -/
def execGldSh (l : BitVec 4) (a b : BitVec 6) (o : BitVec 4) : State → Result :=
  groupLoad l a b o 2 true

/-- Uniform load of 4 bytes (R311). -/
def execGldW (l : BitVec 4) (a b : BitVec 6) (o : BitVec 4) : State → Result :=
  groupLoad l a b o 4 false

/-- Uniform load of 8 bytes (R311). -/
def execGldD (l : BitVec 4) (a b : BitVec 6) (o : BitVec 4) : State → Result :=
  groupLoad l a b o 8 false

/-- Uniform store of 1 bytes (R312). -/
def execGstB (a b : BitVec 6) (o : BitVec 4) : State → Result :=
  groupStore a b o 1

/-- Uniform store of 2 bytes (R312). -/
def execGstH (a b : BitVec 6) (o : BitVec 4) : State → Result :=
  groupStore a b o 2

/-- Uniform store of 4 bytes (R312). -/
def execGstW (a b : BitVec 6) (o : BitVec 4) : State → Result :=
  groupStore a b o 4

/-- Uniform store of 8 bytes (R312). -/
def execGstD (a b : BitVec 6) (o : BitVec 4) : State → Result :=
  groupStore a b o 8

/-- Uniform memory-side atomic (R313). -/
def execGatomAdd (l : BitVec 4) (a b : BitVec 6) (o : BitVec 4) : State → Result :=
  groupAtomic 0 l a b o

/-- Uniform memory-side atomic (R313). -/
def execGatomAnd (l : BitVec 4) (a b : BitVec 6) (o : BitVec 4) : State → Result :=
  groupAtomic 1 l a b o

/-- Uniform memory-side atomic (R313). -/
def execGatomOr (l : BitVec 4) (a b : BitVec 6) (o : BitVec 4) : State → Result :=
  groupAtomic 2 l a b o

/-- Uniform memory-side atomic (R313). -/
def execGatomXor (l : BitVec 4) (a b : BitVec 6) (o : BitVec 4) : State → Result :=
  groupAtomic 3 l a b o

/-- Uniform memory-side atomic (R313). -/
def execGatomXchg (l : BitVec 4) (a b : BitVec 6) (o : BitVec 4) : State → Result :=
  groupAtomic 4 l a b o

/-- Uniform memory-side atomic (R313). -/
def execGatomCas (l : BitVec 4) (a b : BitVec 6) (o : BitVec 4) : State → Result :=
  groupAtomic 5 l a b o

/-- Uniform memory-side atomic (R313). -/
def execGatomMinS (l : BitVec 4) (a b : BitVec 6) (o : BitVec 4) : State → Result :=
  groupAtomic 6 l a b o

/-- Uniform memory-side atomic (R313). -/
def execGatomMaxS (l : BitVec 4) (a b : BitVec 6) (o : BitVec 4) : State → Result :=
  groupAtomic 7 l a b o

/-- Uniform memory-side atomic (R313). -/
def execGatomMinZ (l : BitVec 4) (a b : BitVec 6) (o : BitVec 4) : State → Result :=
  groupAtomic 8 l a b o

/-- Uniform memory-side atomic (R313). -/
def execGatomMaxZ (l : BitVec 4) (a b : BitVec 6) (o : BitVec 4) : State → Result :=
  groupAtomic 9 l a b o

/-- Uniform memory-side atomic (R313). -/
def execGatomFadd (l : BitVec 4) (a b : BitVec 6) (o : BitVec 4) : State → Result :=
  groupAtomic 10 l a b o

/-- Uniform memory-side atomic (R313). -/
def execGatomAddD (l : BitVec 4) (a b : BitVec 6) (o : BitVec 4) : State → Result :=
  groupAtomic 11 l a b o

/-- Uniform memory-side atomic (R313). -/
def execGatomXchgD (l : BitVec 4) (a b : BitVec 6) (o : BitVec 4) : State → Result :=
  groupAtomic 12 l a b o

/-- Uniform memory-side atomic (R313). -/
def execGatomCasD (l : BitVec 4) (a b : BitVec 6) (o : BitVec 4) : State → Result :=
  groupAtomic 13 l a b o

/-- Uniform memory-side atomic (R313). -/
def execGatomMinZD (l : BitVec 4) (a b : BitVec 6) (o : BitVec 4) : State → Result :=
  groupAtomic 14 l a b o

/-- Uniform memory-side atomic (R313). -/
def execGatomMaxZD (l : BitVec 4) (a b : BitVec 6) (o : BitVec 4) : State → Result :=
  groupAtomic 15 l a b o

end Sys2Proof.Machine
end

