-- ==== Sys2Proof/Machine/Dispatch.lean ====
section
/-! DEFINITION. One arm for each instruction and event: a direct call of its meaning. -/

namespace Sys2Proof.Machine

def exec (i : Instr) (s : State) : Host.Outcome State Fault Refusal :=
  match i with
  | .iadd g d a b => Sys2Proof.Machine.execIadd g d a b s
  | .isub g d a b => Sys2Proof.Machine.execIsub g d a b s
  | .imul g d a b => Sys2Proof.Machine.execImul g d a b s
  | .imulhS g d a b => Sys2Proof.Machine.execImulhS g d a b s
  | .imulhZ g d a b => Sys2Proof.Machine.execImulhZ g d a b s
  | .iaddSatS g d a b => Sys2Proof.Machine.execIaddSatS g d a b s
  | .iaddSatZ g d a b => Sys2Proof.Machine.execIaddSatZ g d a b s
  | .isubSatS g d a b => Sys2Proof.Machine.execIsubSatS g d a b s
  | .isubSatZ g d a b => Sys2Proof.Machine.execIsubSatZ g d a b s
  | .iminS g d a b => Sys2Proof.Machine.execIminS g d a b s
  | .iminZ g d a b => Sys2Proof.Machine.execIminZ g d a b s
  | .imaxS g d a b => Sys2Proof.Machine.execImaxS g d a b s
  | .imaxZ g d a b => Sys2Proof.Machine.execImaxZ g d a b s
  | .iabs g d a => Sys2Proof.Machine.execIabs g d a s
  | .ineg g d a => Sys2Proof.Machine.execIneg g d a s
  | .iadd64 g d a b => Sys2Proof.Machine.execIadd64 g d a b s
  | .iadd64S g d a b => Sys2Proof.Machine.execIadd64S g d a b s
  | .iadd64Z g d a b => Sys2Proof.Machine.execIadd64Z g d a b s
  | .isub64 g d a b => Sys2Proof.Machine.execIsub64 g d a b s
  | .imulwS g d a b => Sys2Proof.Machine.execImulwS g d a b s
  | .imulwZ g d a b => Sys2Proof.Machine.execImulwZ g d a b s
  | .and g d a b => Sys2Proof.Machine.execAnd g d a b s
  | .or g d a b => Sys2Proof.Machine.execOr g d a b s
  | .xor g d a b => Sys2Proof.Machine.execXor g d a b s
  | .andn g d a b => Sys2Proof.Machine.execAndn g d a b s
  | .not g d a => Sys2Proof.Machine.execNot g d a s
  | .shl g d a b => Sys2Proof.Machine.execShl g d a b s
  | .shr g d a b => Sys2Proof.Machine.execShr g d a b s
  | .sar g d a b => Sys2Proof.Machine.execSar g d a b s
  | .rol g d a b => Sys2Proof.Machine.execRol g d a b s
  | .popc g d a => Sys2Proof.Machine.execPopc g d a s
  | .clz g d a => Sys2Proof.Machine.execClz g d a s
  | .brev g d a => Sys2Proof.Machine.execBrev g d a s
  | .shl64 g d a b => Sys2Proof.Machine.execShl64 g d a b s
  | .shr64 g d a b => Sys2Proof.Machine.execShr64 g d a b s
  | .sar64 g d a b => Sys2Proof.Machine.execSar64 g d a b s
  | .mov g d a => Sys2Proof.Machine.execMov g d a s
  | .icmpEq g k a b => Sys2Proof.Machine.execIcmpEq g k a b s
  | .icmpNe g k a b => Sys2Proof.Machine.execIcmpNe g k a b s
  | .icmpLtS g k a b => Sys2Proof.Machine.execIcmpLtS g k a b s
  | .icmpLeS g k a b => Sys2Proof.Machine.execIcmpLeS g k a b s
  | .icmpGtS g k a b => Sys2Proof.Machine.execIcmpGtS g k a b s
  | .icmpGeS g k a b => Sys2Proof.Machine.execIcmpGeS g k a b s
  | .icmpLtZ g k a b => Sys2Proof.Machine.execIcmpLtZ g k a b s
  | .icmpLeZ g k a b => Sys2Proof.Machine.execIcmpLeZ g k a b s
  | .icmpGtZ g k a b => Sys2Proof.Machine.execIcmpGtZ g k a b s
  | .icmpGeZ g k a b => Sys2Proof.Machine.execIcmpGeZ g k a b s
  | .fcmpEq g k a b => Sys2Proof.Machine.execFcmpEq g k a b s
  | .fcmpNe g k a b => Sys2Proof.Machine.execFcmpNe g k a b s
  | .fcmpLt g k a b => Sys2Proof.Machine.execFcmpLt g k a b s
  | .fcmpLe g k a b => Sys2Proof.Machine.execFcmpLe g k a b s
  | .fcmpGt g k a b => Sys2Proof.Machine.execFcmpGt g k a b s
  | .fcmpGe g k a b => Sys2Proof.Machine.execFcmpGe g k a b s
  | .fcmpNan g k a b => Sys2Proof.Machine.execFcmpNan g k a b s
  | .dcmpEq g k a b => Sys2Proof.Machine.execDcmpEq g k a b s
  | .dcmpNe g k a b => Sys2Proof.Machine.execDcmpNe g k a b s
  | .dcmpLt g k a b => Sys2Proof.Machine.execDcmpLt g k a b s
  | .dcmpLe g k a b => Sys2Proof.Machine.execDcmpLe g k a b s
  | .dcmpGt g k a b => Sys2Proof.Machine.execDcmpGt g k a b s
  | .dcmpGe g k a b => Sys2Proof.Machine.execDcmpGe g k a b s
  | .dcmpNan g k a b => Sys2Proof.Machine.execDcmpNan g k a b s
  | .v2m g k a => Sys2Proof.Machine.execV2m g k a s
  | .m2v g d k => Sys2Proof.Machine.execM2v g d k s
  | .fadd g d a b => Sys2Proof.Machine.execFadd g d a b s
  | .fsub g d a b => Sys2Proof.Machine.execFsub g d a b s
  | .fmul g d a b => Sys2Proof.Machine.execFmul g d a b s
  | .fmin g d a b => Sys2Proof.Machine.execFmin g d a b s
  | .fmax g d a b => Sys2Proof.Machine.execFmax g d a b s
  | .fabs g d a => Sys2Proof.Machine.execFabs g d a s
  | .fneg g d a => Sys2Proof.Machine.execFneg g d a s
  | .faddH2 g d a b => Sys2Proof.Machine.execFaddH2 g d a b s
  | .fsubH2 g d a b => Sys2Proof.Machine.execFsubH2 g d a b s
  | .fmulH2 g d a b => Sys2Proof.Machine.execFmulH2 g d a b s
  | .fminH2 g d a b => Sys2Proof.Machine.execFminH2 g d a b s
  | .fmaxH2 g d a b => Sys2Proof.Machine.execFmaxH2 g d a b s
  | .faddB2 g d a b => Sys2Proof.Machine.execFaddB2 g d a b s
  | .fsubB2 g d a b => Sys2Proof.Machine.execFsubB2 g d a b s
  | .fmulB2 g d a b => Sys2Proof.Machine.execFmulB2 g d a b s
  | .fminB2 g d a b => Sys2Proof.Machine.execFminB2 g d a b s
  | .fmaxB2 g d a b => Sys2Proof.Machine.execFmaxB2 g d a b s
  | .dadd g d a b => Sys2Proof.Machine.execDadd g d a b s
  | .dsub g d a b => Sys2Proof.Machine.execDsub g d a b s
  | .dmul g d a b => Sys2Proof.Machine.execDmul g d a b s
  | .dmin g d a b => Sys2Proof.Machine.execDmin g d a b s
  | .dmax g d a b => Sys2Proof.Machine.execDmax g d a b s
  | .dabs g d a => Sys2Proof.Machine.execDabs g d a s
  | .dneg g d a => Sys2Proof.Machine.execDneg g d a s
  | .frcp g d a => Sys2Proof.Machine.execFrcp g d a s
  | .frsq g d a => Sys2Proof.Machine.execFrsq g d a s
  | .fexp2 g d a => Sys2Proof.Machine.execFexp2 g d a s
  | .flog2 g d a => Sys2Proof.Machine.execFlog2 g d a s
  | .fsin g d a => Sys2Proof.Machine.execFsin g d a s
  | .fcos g d a => Sys2Proof.Machine.execFcos g d a s
  | .frcpH2 g d a => Sys2Proof.Machine.execFrcpH2 g d a s
  | .frsqH2 g d a => Sys2Proof.Machine.execFrsqH2 g d a s
  | .fexp2H2 g d a => Sys2Proof.Machine.execFexp2H2 g d a s
  | .flog2H2 g d a => Sys2Proof.Machine.execFlog2H2 g d a s
  | .i2fS g d a => Sys2Proof.Machine.execI2fS g d a s
  | .i2fZ g d a => Sys2Proof.Machine.execI2fZ g d a s
  | .f2iS g d a => Sys2Proof.Machine.execF2iS g d a s
  | .f2iSTz g d a => Sys2Proof.Machine.execF2iSTz g d a s
  | .f2iZ g d a => Sys2Proof.Machine.execF2iZ g d a s
  | .f2iZTz g d a => Sys2Proof.Machine.execF2iZTz g d a s
  | .i2dS g d a => Sys2Proof.Machine.execI2dS g d a s
  | .i2dZ g d a => Sys2Proof.Machine.execI2dZ g d a s
  | .d2iS g d a => Sys2Proof.Machine.execD2iS g d a s
  | .d2iSTz g d a => Sys2Proof.Machine.execD2iSTz g d a s
  | .d2iZ g d a => Sys2Proof.Machine.execD2iZ g d a s
  | .d2iZTz g d a => Sys2Proof.Machine.execD2iZTz g d a s
  | .f2d g d a => Sys2Proof.Machine.execF2d g d a s
  | .d2f g d a => Sys2Proof.Machine.execD2f g d a s
  | .f2h2 g d a b => Sys2Proof.Machine.execF2h2 g d a b s
  | .h2fLo g d a => Sys2Proof.Machine.execH2fLo g d a s
  | .h2fHi g d a => Sys2Proof.Machine.execH2fHi g d a s
  | .f2b2 g d a b => Sys2Proof.Machine.execF2b2 g d a b s
  | .b2fLo g d a => Sys2Proof.Machine.execB2fLo g d a s
  | .b2fHi g d a => Sys2Proof.Machine.execB2fHi g d a s
  | .nscale g d a f => Sys2Proof.Machine.execNscale g d a f s
  | .npack g d a f => Sys2Proof.Machine.execNpack g d a f s
  | .nunpk g d a f => Sys2Proof.Machine.execNunpk g d a f s
  | .ffma d a b c => Sys2Proof.Machine.execFfma d a b c s
  | .ffms d a b c => Sys2Proof.Machine.execFfms d a b c s
  | .fnma d a b c => Sys2Proof.Machine.execFnma d a b c s
  | .ffmaH2 d a b c => Sys2Proof.Machine.execFfmaH2 d a b c s
  | .ffmaB2 d a b c => Sys2Proof.Machine.execFfmaB2 d a b c s
  | .dfma d a b c => Sys2Proof.Machine.execDfma d a b c s
  | .dfms d a b c => Sys2Proof.Machine.execDfms d a b c s
  | .dfnma d a b c => Sys2Proof.Machine.execDfnma d a b c s
  | .imad d a b c => Sys2Proof.Machine.execImad d a b c s
  | .imadwS d a b c => Sys2Proof.Machine.execImadwS d a b c s
  | .imadwZ d a b c => Sys2Proof.Machine.execImadwZ d a b c s
  | .sel d a b k => Sys2Proof.Machine.execSel d a b k s
  | .sel64 d a b k => Sys2Proof.Machine.execSel64 d a b k s
  | .iaddImm g d a iv => Sys2Proof.Machine.execIaddImm g d a iv s
  | .imulImm g d a iv => Sys2Proof.Machine.execImulImm g d a iv s
  | .andImm g d a iv => Sys2Proof.Machine.execAndImm g d a iv s
  | .orImm g d a iv => Sys2Proof.Machine.execOrImm g d a iv s
  | .xorImm g d a iv => Sys2Proof.Machine.execXorImm g d a iv s
  | .shlImm g d a iv => Sys2Proof.Machine.execShlImm g d a iv s
  | .shrImm g d a iv => Sys2Proof.Machine.execShrImm g d a iv s
  | .sarImm g d a iv => Sys2Proof.Machine.execSarImm g d a iv s
  | .icmpEqImm g k a iv => Sys2Proof.Machine.execIcmpEqImm g k a iv s
  | .icmpNeImm g k a iv => Sys2Proof.Machine.execIcmpNeImm g k a iv s
  | .icmpLtSImm g k a iv => Sys2Proof.Machine.execIcmpLtSImm g k a iv s
  | .icmpGtSImm g k a iv => Sys2Proof.Machine.execIcmpGtSImm g k a iv s
  | .icmpLtZImm g k a iv => Sys2Proof.Machine.execIcmpLtZImm g k a iv s
  | .icmpGtZImm g k a iv => Sys2Proof.Machine.execIcmpGtZImm g k a iv s
  | .bfxZ g d a n p => Sys2Proof.Machine.execBfxZ g d a n p s
  | .bfxS g d a n p => Sys2Proof.Machine.execBfxS g d a n p s
  | .bfi g d a n p => Sys2Proof.Machine.execBfi g d a n p s
  | .lseq g d a iv => Sys2Proof.Machine.execLseq g d a iv s
  | .ldi g d iv => Sys2Proof.Machine.execLdi g d iv s
  | .ldih g d iv => Sys2Proof.Machine.execLdih g d iv s
  | .addih g d iv => Sys2Proof.Machine.execAddih g d iv s
  | .ldZb l d a b => Sys2Proof.Machine.execLdZb l d a b s
  | .ldSb l d a b => Sys2Proof.Machine.execLdSb l d a b s
  | .ldZh l d a b => Sys2Proof.Machine.execLdZh l d a b s
  | .ldSh l d a b => Sys2Proof.Machine.execLdSh l d a b s
  | .ldW l d a b => Sys2Proof.Machine.execLdW l d a b s
  | .ldD l d a b => Sys2Proof.Machine.execLdD l d a b s
  | .ldQ l d a b => Sys2Proof.Machine.execLdQ l d a b s
  | .ldWAcqDev l d a b => Sys2Proof.Machine.execLdWAcqDev l d a b s
  | .ldDAcqDev l d a b => Sys2Proof.Machine.execLdDAcqDev l d a b s
  | .ldWAcqSys l d a b => Sys2Proof.Machine.execLdWAcqSys l d a b s
  | .ldDAcqSys l d a b => Sys2Proof.Machine.execLdDAcqSys l d a b s
  | .stB sv a b => Sys2Proof.Machine.execStB sv a b s
  | .stH sv a b => Sys2Proof.Machine.execStH sv a b s
  | .stW sv a b => Sys2Proof.Machine.execStW sv a b s
  | .stD sv a b => Sys2Proof.Machine.execStD sv a b s
  | .stQ sv a b => Sys2Proof.Machine.execStQ sv a b s
  | .stWRelDev sv a b => Sys2Proof.Machine.execStWRelDev sv a b s
  | .stDRelDev sv a b => Sys2Proof.Machine.execStDRelDev sv a b s
  | .stWRelSys sv a b => Sys2Proof.Machine.execStWRelSys sv a b s
  | .stDRelSys sv a b => Sys2Proof.Machine.execStDRelSys sv a b s
  | .ldsZb d a x b => Sys2Proof.Machine.execLdsZb d a x b s
  | .ldsSb d a x b => Sys2Proof.Machine.execLdsSb d a x b s
  | .ldsZh d a x b => Sys2Proof.Machine.execLdsZh d a x b s
  | .ldsSh d a x b => Sys2Proof.Machine.execLdsSh d a x b s
  | .ldsW d a x b => Sys2Proof.Machine.execLdsW d a x b s
  | .ldsD d a x b => Sys2Proof.Machine.execLdsD d a x b s
  | .ldsQ d a x b => Sys2Proof.Machine.execLdsQ d a x b s
  | .stsB sv a x b => Sys2Proof.Machine.execStsB sv a x b s
  | .stsH sv a x b => Sys2Proof.Machine.execStsH sv a x b s
  | .stsW sv a x b => Sys2Proof.Machine.execStsW sv a x b s
  | .stsD sv a x b => Sys2Proof.Machine.execStsD sv a x b s
  | .stsQ sv a x b => Sys2Proof.Machine.execStsQ sv a x b s
  | .atsAdd d a x b => Sys2Proof.Machine.execAtsAdd d a x b s
  | .atsXchg d a x b => Sys2Proof.Machine.execAtsXchg d a x b s
  | .atsCas d a x b => Sys2Proof.Machine.execAtsCas d a x b s
  | .atomAdd r l d a sv b => Sys2Proof.Machine.execAtomAdd r l d a sv b s
  | .atomAnd r l d a sv b => Sys2Proof.Machine.execAtomAnd r l d a sv b s
  | .atomOr r l d a sv b => Sys2Proof.Machine.execAtomOr r l d a sv b s
  | .atomXor r l d a sv b => Sys2Proof.Machine.execAtomXor r l d a sv b s
  | .atomXchg r l d a sv b => Sys2Proof.Machine.execAtomXchg r l d a sv b s
  | .atomCas r l d a sv b => Sys2Proof.Machine.execAtomCas r l d a sv b s
  | .atomMinS r l d a sv b => Sys2Proof.Machine.execAtomMinS r l d a sv b s
  | .atomMaxS r l d a sv b => Sys2Proof.Machine.execAtomMaxS r l d a sv b s
  | .atomMinZ r l d a sv b => Sys2Proof.Machine.execAtomMinZ r l d a sv b s
  | .atomMaxZ r l d a sv b => Sys2Proof.Machine.execAtomMaxZ r l d a sv b s
  | .atomFadd r l d a sv b => Sys2Proof.Machine.execAtomFadd r l d a sv b s
  | .atomAddD r l d a sv b => Sys2Proof.Machine.execAtomAddD r l d a sv b s
  | .atomXchgD r l d a sv b => Sys2Proof.Machine.execAtomXchgD r l d a sv b s
  | .atomCasD r l d a sv b => Sys2Proof.Machine.execAtomCasD r l d a sv b s
  | .atomMinZD r l d a sv b => Sys2Proof.Machine.execAtomMinZD r l d a sv b s
  | .atomMaxZD r l d a sv b => Sys2Proof.Machine.execAtomMaxZD r l d a sv b s
  | .xlnBack d a c => Sys2Proof.Machine.execXlnBack d a c s
  | .xlnAhead d a c => Sys2Proof.Machine.execXlnAhead d a c s
  | .xlnRot d a c => Sys2Proof.Machine.execXlnRot d a c s
  | .xlnFlip d a c => Sys2Proof.Machine.execXlnFlip d a c s
  | .xlnPick d a c => Sys2Proof.Machine.execXlnPick d a c s
  | .xlnVar d a => Sys2Proof.Machine.execXlnVar d a s
  | .redsIadd d a => Sys2Proof.Machine.execRedsIadd d a s
  | .redsIminS d a => Sys2Proof.Machine.execRedsIminS d a s
  | .redsImaxS d a => Sys2Proof.Machine.execRedsImaxS d a s
  | .redsIminZ d a => Sys2Proof.Machine.execRedsIminZ d a s
  | .redsImaxZ d a => Sys2Proof.Machine.execRedsImaxZ d a s
  | .redsAnd d a => Sys2Proof.Machine.execRedsAnd d a s
  | .redsOr d a => Sys2Proof.Machine.execRedsOr d a s
  | .redsXor d a => Sys2Proof.Machine.execRedsXor d a s
  | .redsFadd d a => Sys2Proof.Machine.execRedsFadd d a s
  | .redsFmin d a => Sys2Proof.Machine.execRedsFmin d a s
  | .redsFmax d a => Sys2Proof.Machine.execRedsFmax d a s
  | .redsDadd d a => Sys2Proof.Machine.execRedsDadd d a s
  | .scanIadd d a e => Sys2Proof.Machine.execScanIadd d a e s
  | .scanIminS d a e => Sys2Proof.Machine.execScanIminS d a e s
  | .scanImaxS d a e => Sys2Proof.Machine.execScanImaxS d a e s
  | .scanIminZ d a e => Sys2Proof.Machine.execScanIminZ d a e s
  | .scanImaxZ d a e => Sys2Proof.Machine.execScanImaxZ d a e s
  | .scanAnd d a e => Sys2Proof.Machine.execScanAnd d a e s
  | .scanOr d a e => Sys2Proof.Machine.execScanOr d a e s
  | .scanXor d a e => Sys2Proof.Machine.execScanXor d a e s
  | .scanFadd d a e => Sys2Proof.Machine.execScanFadd d a e s
  | .scanFmin d a e => Sys2Proof.Machine.execScanFmin d a e s
  | .scanFmax d a e => Sys2Proof.Machine.execScanFmax d a e s
  | .scanDadd d a e => Sys2Proof.Machine.execScanDadd d a e s
  | .mbq a => Sys2Proof.Machine.execMbq a s
  | .mdrain l d a sv => Sys2Proof.Machine.execMdrain l d a sv s
  | .mdrainRaw l d a sv => Sys2Proof.Machine.execMdrainRaw l d a sv s
  | .mfill sv a => Sys2Proof.Machine.execMfill sv a s
  | .gadd w d a b => Sys2Proof.Machine.execGadd w d a b s
  | .gsub w d a b => Sys2Proof.Machine.execGsub w d a b s
  | .gmul w d a b => Sys2Proof.Machine.execGmul w d a b s
  | .gmulhS w d a b => Sys2Proof.Machine.execGmulhS w d a b s
  | .gmulhZ w d a b => Sys2Proof.Machine.execGmulhZ w d a b s
  | .gminS w d a b => Sys2Proof.Machine.execGminS w d a b s
  | .gmaxS w d a b => Sys2Proof.Machine.execGmaxS w d a b s
  | .gminZ w d a b => Sys2Proof.Machine.execGminZ w d a b s
  | .gmaxZ w d a b => Sys2Proof.Machine.execGmaxZ w d a b s
  | .gneg w d a => Sys2Proof.Machine.execGneg w d a s
  | .gand w d a b => Sys2Proof.Machine.execGand w d a b s
  | .gor w d a b => Sys2Proof.Machine.execGor w d a b s
  | .gxor w d a b => Sys2Proof.Machine.execGxor w d a b s
  | .gandn w d a b => Sys2Proof.Machine.execGandn w d a b s
  | .gnot w d a => Sys2Proof.Machine.execGnot w d a s
  | .gshl w d a b => Sys2Proof.Machine.execGshl w d a b s
  | .gshr w d a b => Sys2Proof.Machine.execGshr w d a b s
  | .gsar w d a b => Sys2Proof.Machine.execGsar w d a b s
  | .gpopc w d a => Sys2Proof.Machine.execGpopc w d a s
  | .gclz w d a => Sys2Proof.Machine.execGclz w d a s
  | .gbrev w d a => Sys2Proof.Machine.execGbrev w d a s
  | .gcmpEq w k a b => Sys2Proof.Machine.execGcmpEq w k a b s
  | .gcmpNe w k a b => Sys2Proof.Machine.execGcmpNe w k a b s
  | .gcmpLtS w k a b => Sys2Proof.Machine.execGcmpLtS w k a b s
  | .gcmpLeS w k a b => Sys2Proof.Machine.execGcmpLeS w k a b s
  | .gcmpLtZ w k a b => Sys2Proof.Machine.execGcmpLtZ w k a b s
  | .gcmpLeZ w k a b => Sys2Proof.Machine.execGcmpLeZ w k a b s
  | .gselNz d a b => Sys2Proof.Machine.execGselNz d a b s
  | .movG d a => Sys2Proof.Machine.execMovG d a s
  | .v2g w d a b => Sys2Proof.Machine.execV2g w d a b s
  | .g2v w d a => Sys2Proof.Machine.execG2v w d a s
  | .s2g d n => Sys2Proof.Machine.execS2g d n s
  | .s2gc d n => Sys2Proof.Machine.execS2gc d n s
  | .gaddImm d a iv => Sys2Proof.Machine.execGaddImm d a iv s
  | .gmulImm d a iv => Sys2Proof.Machine.execGmulImm d a iv s
  | .gandImm d a iv => Sys2Proof.Machine.execGandImm d a iv s
  | .gorImm d a iv => Sys2Proof.Machine.execGorImm d a iv s
  | .gxorImm d a iv => Sys2Proof.Machine.execGxorImm d a iv s
  | .gshlImm d a iv => Sys2Proof.Machine.execGshlImm d a iv s
  | .gshrImm d a iv => Sys2Proof.Machine.execGshrImm d a iv s
  | .gsarImm d a iv => Sys2Proof.Machine.execGsarImm d a iv s
  | .gcmpEqImm k a iv => Sys2Proof.Machine.execGcmpEqImm k a iv s
  | .gcmpLtSImm k a iv => Sys2Proof.Machine.execGcmpLtSImm k a iv s
  | .gcmpLtZImm k a iv => Sys2Proof.Machine.execGcmpLtZImm k a iv s
  | .gldq q d iv => Sys2Proof.Machine.execGldq q d iv s
  | .ginsq q d iv => Sys2Proof.Machine.execGinsq q d iv s
  | .gaddq q d iv => Sys2Proof.Machine.execGaddq q d iv s
  | .bra o => Sys2Proof.Machine.execBra o s
  | .braAny k o => Sys2Proof.Machine.execBraAny k o s
  | .braNone k o => Sys2Proof.Machine.execBraNone k o s
  | .braD k j o => Sys2Proof.Machine.execBraD k j o s
  | .call o => Sys2Proof.Machine.execCall o s
  | .join j => Sys2Proof.Machine.execJoin j s
  | .mand k a b => Sys2Proof.Machine.execMand k a b s
  | .mor k a b => Sys2Proof.Machine.execMor k a b s
  | .mxor k a b => Sys2Proof.Machine.execMxor k a b s
  | .mandn k a b => Sys2Proof.Machine.execMandn k a b s
  | .mnot k a => Sys2Proof.Machine.execMnot k a s
  | .m2g d k => Sys2Proof.Machine.execM2g d k s
  | .g2m k a => Sys2Proof.Machine.execG2m k a s
  | .mpopc d k => Sys2Proof.Machine.execMpopc d k s
  | .j2m k j => Sys2Proof.Machine.execJ2m k j s
  | .m2j j k => Sys2Proof.Machine.execM2j j k s
  | .matchWord d a => Sys2Proof.Machine.execMatchWord d a s
  | .matchPair d a => Sys2Proof.Machine.execMatchPair d a s
  | .vote k a => Sys2Proof.Machine.execVote k a s
  | .elect k => Sys2Proof.Machine.execElect k s
  | .ret a => Sys2Proof.Machine.execRet a s
  | .brx a => Sys2Proof.Machine.execBrx a s
  | .exit => Sys2Proof.Machine.execExit s
  | .barInit a b sv => Sys2Proof.Machine.execBarInit a b sv s
  | .barArv a => Sys2Proof.Machine.execBarArv a s
  | .barArvb a b => Sys2Proof.Machine.execBarArvb a b s
  | .barExp a b => Sys2Proof.Machine.execBarExp a b s
  | .barWait a b => Sys2Proof.Machine.execBarWait a b s
  | .barTest a b => Sys2Proof.Machine.execBarTest a b s
  | .barInval a => Sys2Proof.Machine.execBarInval a s
  | .waita a b z c => Sys2Proof.Machine.execWaita a b z c s
  | .wakea a => Sys2Proof.Machine.execWakea a s
  | .cpyLd a b o => Sys2Proof.Machine.execCpyLd a b o s
  | .cpySt a b o => Sys2Proof.Machine.execCpySt a b o s
  | .cpySc a b o => Sys2Proof.Machine.execCpySc a b o s
  | .cpyPf a b o => Sys2Proof.Machine.execCpyPf a b o s
  | .cpySeal => Sys2Proof.Machine.execCpySeal s
  | .cpyWaitn n => Sys2Proof.Machine.execCpyWaitn n s
  | .mres k => Sys2Proof.Machine.execMres k s
  | .mrel => Sys2Proof.Machine.execMrel s
  | .mzero a => Sys2Proof.Machine.execMzero a s
  | .mfence => Sys2Proof.Machine.execMfence s
  | .mwait n => Sys2Proof.Machine.execMwait n s
  | .mma x y a b o => Sys2Proof.Machine.execMma x y a b o s
  | .gldZb l a b o => Sys2Proof.Machine.execGldZb l a b o s
  | .gldSb l a b o => Sys2Proof.Machine.execGldSb l a b o s
  | .gldZh l a b o => Sys2Proof.Machine.execGldZh l a b o s
  | .gldSh l a b o => Sys2Proof.Machine.execGldSh l a b o s
  | .gldW l a b o => Sys2Proof.Machine.execGldW l a b o s
  | .gldD l a b o => Sys2Proof.Machine.execGldD l a b o s
  | .gstB a b o => Sys2Proof.Machine.execGstB a b o s
  | .gstH a b o => Sys2Proof.Machine.execGstH a b o s
  | .gstW a b o => Sys2Proof.Machine.execGstW a b o s
  | .gstD a b o => Sys2Proof.Machine.execGstD a b o s
  | .gatomAdd l a b o => Sys2Proof.Machine.execGatomAdd l a b o s
  | .gatomAnd l a b o => Sys2Proof.Machine.execGatomAnd l a b o s
  | .gatomOr l a b o => Sys2Proof.Machine.execGatomOr l a b o s
  | .gatomXor l a b o => Sys2Proof.Machine.execGatomXor l a b o s
  | .gatomXchg l a b o => Sys2Proof.Machine.execGatomXchg l a b o s
  | .gatomCas l a b o => Sys2Proof.Machine.execGatomCas l a b o s
  | .gatomMinS l a b o => Sys2Proof.Machine.execGatomMinS l a b o s
  | .gatomMaxS l a b o => Sys2Proof.Machine.execGatomMaxS l a b o s
  | .gatomMinZ l a b o => Sys2Proof.Machine.execGatomMinZ l a b o s
  | .gatomMaxZ l a b o => Sys2Proof.Machine.execGatomMaxZ l a b o s
  | .gatomFadd l a b o => Sys2Proof.Machine.execGatomFadd l a b o s
  | .gatomAddD l a b o => Sys2Proof.Machine.execGatomAddD l a b o s
  | .gatomXchgD l a b o => Sys2Proof.Machine.execGatomXchgD l a b o s
  | .gatomCasD l a b o => Sys2Proof.Machine.execGatomCasD l a b o s
  | .gatomMinZD l a b o => Sys2Proof.Machine.execGatomMinZD l a b o s
  | .gatomMaxZD l a b o => Sys2Proof.Machine.execGatomMaxZD l a b o s
  | .qpost a b => Sys2Proof.Machine.execQpost a b s
  | .qsig a b => Sys2Proof.Machine.execQsig a b s
  | .qstat a b => Sys2Proof.Machine.execQstat a b s
  | .kabort a => Sys2Proof.Machine.execKabort a s
  | .region a n => Sys2Proof.Machine.execRegion a n s
  | .regx => Sys2Proof.Machine.execRegx s
  | .rdenter => Sys2Proof.Machine.execRdenter s
  | .rdexit => Sys2Proof.Machine.execRdexit s
  | .qpoint => Sys2Proof.Machine.execQpoint s
  | .gpstart b => Sys2Proof.Machine.execGpstart b s
  | .gpwait a => Sys2Proof.Machine.execGpwait a s
  | .gppoll a b => Sys2Proof.Machine.execGppoll a b s
  | .gpfree a b => Sys2Proof.Machine.execGpfree a b s
  | .publ a => Sys2Proof.Machine.execPubl a s
  | .pdef a => Sys2Proof.Machine.execPdef a s
  | .presize a b => Sys2Proof.Machine.execPresize a b s
  | .tlbiPage a => Sys2Proof.Machine.execTlbiPage a s
  | .tlbiAsid a => Sys2Proof.Machine.execTlbiAsid a s
  | .tlbiAll => Sys2Proof.Machine.execTlbiAll s
  | .tlbi2m a => Sys2Proof.Machine.execTlbi2m a s
  | .tlbi1g a => Sys2Proof.Machine.execTlbi1g a s
  | .pmig a b => Sys2Proof.Machine.execPmig a b s
  | .pclass a b => Sys2Proof.Machine.execPclass a b s
  | .pstat a b => Sys2Proof.Machine.execPstat a b s
  | .coll a b => Sys2Proof.Machine.execColl a b s
  | .pubv a => Sys2Proof.Machine.execPubv a s
  | .psub a b => Sys2Proof.Machine.execPsub a b s
  | .lstat a b => Sys2Proof.Machine.execLstat a b s
  | .nop => Sys2Proof.Machine.execNop s
  | .trap c => Sys2Proof.Machine.execTrap c s
  | .eret => Sys2Proof.Machine.execEret s
  | .trapret => Sys2Proof.Machine.execTrapret s
  | .sysr n b u => Sys2Proof.Machine.execSysr n b u s
  | .sysw n b u => Sys2Proof.Machine.execSysw n b u s
  | .fence sv => Sys2Proof.Machine.execFence sv s
  | .time b => Sys2Proof.Machine.execTime b s
  | .clock b => Sys2Proof.Machine.execClock b s
  | .yield => Sys2Proof.Machine.execYield s
  | .noreuse => Sys2Proof.Machine.execNoreuse s
  | .illegalWordIssue => Sys2Proof.Machine.execIllegalWordIssue s
  | .instructionFetchFault => Sys2Proof.Machine.execInstructionFetchFault s
  | .trapDelivery gid tag => Sys2Proof.Machine.execTrapDelivery gid tag s
  | .splitMerge gid x y => Sys2Proof.Machine.execSplitMerge gid x y s
  | .waitSwap gid x => Sys2Proof.Machine.execWaitSwap gid x s
  | .sluiceReply core tag lanes => Sys2Proof.Machine.execSluiceReply core tag lanes s
  | .storeQueueRetire gid => Sys2Proof.Machine.execStoreQueueRetire gid s
  | .storeAck core x => Sys2Proof.Machine.execStoreAck core x s
  | .watchdogExpiry gid tag => Sys2Proof.Machine.execWatchdogExpiry gid tag s
  | .masterCycle ns => Sys2Proof.Machine.execMasterCycle ns s
  | .copyLanding core slot lo hi => Sys2Proof.Machine.execCopyLanding core slot lo hi s
  | .matrixOpComplete core => Sys2Proof.Machine.execMatrixOpComplete core s
  | .waitaReread gid tag => Sys2Proof.Machine.execWaitaReread gid tag s
  | .gpStart => Sys2Proof.Machine.execGpStart s
  | .quiescentRecord x => Sys2Proof.Machine.execQuiescentRecord x s
  | .spillMove asid => Sys2Proof.Machine.execSpillMove asid s
  | .watchedLineWrite addr n => Sys2Proof.Machine.execWatchedLineWrite addr n s
  | .dispatchArbitration => Sys2Proof.Machine.execDispatchArbitration s
  | .placerOffer => Sys2Proof.Machine.execPlacerOffer s
  | .passOverTimeout kseq => Sys2Proof.Machine.execPassOverTimeout kseq s
  | .teamRetire uid => Sys2Proof.Machine.execTeamRetire uid s
  | .kernelDone kseq => Sys2Proof.Machine.execKernelDone kseq s
  | .teamSave uid => Sys2Proof.Machine.execTeamSave uid s
  | .teamSaveComplete uid => Sys2Proof.Machine.execTeamSaveComplete uid s
  | .teamRestore uid core => Sys2Proof.Machine.execTeamRestore uid core s
  | .teamDiscard uid => Sys2Proof.Machine.execTeamDiscard uid s
  | .softErrorDetected site uncorrectable => Sys2Proof.Machine.execSoftErrorDetected site uncorrectable s
  | .pagerResolved asid page => Sys2Proof.Machine.execPagerResolved asid page s
  | .pagerFailed asid page => Sys2Proof.Machine.execPagerFailed asid page s
  | .pagerInstall asid page leaf fill => Sys2Proof.Machine.execPagerInstall asid page leaf fill s
  | .migrationStart asid page frame => Sys2Proof.Machine.execMigrationStart asid page frame s
  | .migrateLine asid page readable => Sys2Proof.Machine.execMigrateLine asid page readable s
  | .migrationFinish asid page => Sys2Proof.Machine.execMigrationFinish asid page s
  | .migrationAbort asid page => Sys2Proof.Machine.execMigrationAbort asid page s
  | .homeAccess core addr polder write => Sys2Proof.Machine.execHomeAccess core addr polder write s
  | .reclassifyComplete page => Sys2Proof.Machine.execReclassifyComplete page s
  | .pageClassIdle page => Sys2Proof.Machine.execPageClassIdle page s
  | .dirFill core addr polder hint => Sys2Proof.Machine.execDirFill core addr polder hint s
  | .dirWrite core addr polder kind => Sys2Proof.Machine.execDirWrite core addr polder kind s
  | .evictionNotice bank line => Sys2Proof.Machine.execEvictionNotice bank line s
  | .invalAck bank line => Sys2Proof.Machine.execInvalAck bank line s
  | .dirMerge line => Sys2Proof.Machine.execDirMerge line s
  | .generationTick x => Sys2Proof.Machine.execGenerationTick x s
  | .stampSweep x => Sys2Proof.Machine.execStampSweep x s
  | .bankSleep bank => Sys2Proof.Machine.execBankSleep bank s
  | .bankWake bank => Sys2Proof.Machine.execBankWake bank s
  | .polderDrainComplete polder => Sys2Proof.Machine.execPolderDrainComplete polder s
  | .shareFailure share => Sys2Proof.Machine.execShareFailure share s
  | .hostAccess addr size code data => Sys2Proof.Machine.execHostAccess addr size code data s
  | .hostSnoopResponse line data => Sys2Proof.Machine.execHostSnoopResponse line data s
  | .inboundPeerAccess device addr size code data => Sys2Proof.Machine.execInboundPeerAccess device addr size code data s
  | .peerReply x ok data => Sys2Proof.Machine.execPeerReply x ok data s
  | .peerTimeout x => Sys2Proof.Machine.execPeerTimeout x s
  | .publishForward region x => Sys2Proof.Machine.execPublishForward region x s
  | .psubAnswer x accepted => Sys2Proof.Machine.execPsubAnswer x accepted s
  | .collectiveStepComplete key data => Sys2Proof.Machine.execCollectiveStepComplete key data s
  | .linkData link seq payload received => Sys2Proof.Machine.execLinkData link seq payload received s
  | .linkAck link seq => Sys2Proof.Machine.execLinkAck link seq s
  | .linkNak link seq => Sys2Proof.Machine.execLinkNak link seq s
  | .mapSwap link => Sys2Proof.Machine.execMapSwap link s
  | .mapAck link => Sys2Proof.Machine.execMapAck link s
  | .mapAckTimeout link => Sys2Proof.Machine.execMapAckTimeout link s
  | .linkFailure link => Sys2Proof.Machine.execLinkFailure link s
  | .combSourceFailure plane source => Sys2Proof.Machine.execCombSourceFailure plane source s
  | .ringLock plane spare position => Sys2Proof.Machine.execRingLock plane spare position s
  | .ageingInterrupt plane source => Sys2Proof.Machine.execAgeingInterrupt plane source s
  | .portUp port => Sys2Proof.Machine.execPortUp port s
  | .portDown port => Sys2Proof.Machine.execPortDown port s
  | .currentLimitExceeded chip => Sys2Proof.Machine.execCurrentLimitExceeded chip s
  | .powerLimitExceeded => Sys2Proof.Machine.execPowerLimitExceeded s
  | .thermalTrip chip => Sys2Proof.Machine.execThermalTrip chip s
  | .thermalClear chip => Sys2Proof.Machine.execThermalClear chip s
  | .canaryWarning core temperature => Sys2Proof.Machine.execCanaryWarning core temperature s
  | .canaryTimeout chip => Sys2Proof.Machine.execCanaryTimeout chip s
  | .railVoltageChange chip mv => Sys2Proof.Machine.execRailVoltageChange chip mv s
  | .clampRelax core => Sys2Proof.Machine.execClampRelax core s
  | .droopAlarm core => Sys2Proof.Machine.execDroopAlarm core s
  | .droopWindowEnd core => Sys2Proof.Machine.execDroopWindowEnd core s
  | .boot fence shares colours verified => Sys2Proof.Machine.execBoot fence shares colours verified s
  | .linkctlSwap link => Sys2Proof.Machine.execLinkctlSwap link s
  | .linkctlSwfailClear link => Sys2Proof.Machine.execLinkctlSwfailClear link s
  | .routeWrite pair value => Sys2Proof.Machine.execRouteWrite pair value s
  | .mgmtRegWrite addr value => Sys2Proof.Machine.execMgmtRegWrite addr value s
  | .ctxBind payload => Sys2Proof.Machine.execCtxBind payload s
  | .ctxSuspend payload => Sys2Proof.Machine.execCtxSuspend payload s
  | .ctxSuspendComplete asid => Sys2Proof.Machine.execCtxSuspendComplete asid s
  | .ctxClear payload => Sys2Proof.Machine.execCtxClear payload s
  | .ctxDestroy payload => Sys2Proof.Machine.execCtxDestroy payload s
  | .qCreate payload => Sys2Proof.Machine.execQCreate payload s
  | .qArm payload => Sys2Proof.Machine.execQArm payload s
  | .qDrain payload => Sys2Proof.Machine.execQDrain payload s
  | .qSuspend payload => Sys2Proof.Machine.execQSuspend payload s
  | .qSuspendComplete queue => Sys2Proof.Machine.execQSuspendComplete queue s
  | .qResume payload => Sys2Proof.Machine.execQResume payload s
  | .qSkip payload => Sys2Proof.Machine.execQSkip payload s
  | .qDestroy payload => Sys2Proof.Machine.execQDestroy payload s
  | .qPostHost payload => Sys2Proof.Machine.execQPostHost payload s
  | .kAbortHost payload => Sys2Proof.Machine.execKAbortHost payload s
  | .exportDevice payload => Sys2Proof.Machine.execExportDevice payload s
  | .pubDef payload => Sys2Proof.Machine.execPubDef payload s
  | .collReform payload => Sys2Proof.Machine.execCollReform payload s
  | .collAbort payload => Sys2Proof.Machine.execCollAbort payload s
  | .regRead payload => Sys2Proof.Machine.execRegRead payload s
  | .imgLoad payload => Sys2Proof.Machine.execImgLoad payload s
  | .imgLoadComplete => Sys2Proof.Machine.execImgLoadComplete s
  | .attest payload => Sys2Proof.Machine.execAttest payload s
  | .ideKey payload => Sys2Proof.Machine.execIdeKey payload s
  | .ckpt payload => Sys2Proof.Machine.execCkpt payload s
  | .ckptComplete ok => Sys2Proof.Machine.execCkptComplete ok s
  | .ckRestore payload => Sys2Proof.Machine.execCkRestore payload s
  | .ckRestoreComplete ok => Sys2Proof.Machine.execCkRestoreComplete ok s
  | .powerLoss => Sys2Proof.Machine.execPowerLoss s
  | .ringRetune plane spare position => Sys2Proof.Machine.execRingRetune plane spare position s
  | .unsupportedOpcode opcode => Sys2Proof.Machine.execUnsupportedOpcode opcode s

end Sys2Proof.Machine
end

