-- ==== Sys2Proof/Machine/Step.lean ====
section
/-! DEFINITION. One step of the part. -/

namespace Sys2Proof.Machine

/-- One step: the next event or instruction, executed (DESIGN CHOICE, log entry 1). -/
noncomputable def step (s : State) : Host.Outcome State Fault Refusal :=
  match s.nextEvent with
  | (t, some i) => exec i t
  | (t, none) => .next t

/-- `s` with an instruction word stored where the next step fetches; an instruction is one 32-bit word (R86), so the bits
above are none. -/
def State.withFetchWord (s : State) (_nbits w : Nat) : State := s.placeWord (w % 2 ^ 32)

end Sys2Proof.Machine
end

