-- ==== Sys2Proof/Safety.lean ====
section
/-! DEFINITION. The words in which statements about the machine are made: when an instruction executes, and what it leaves
unchanged. -/

namespace Sys2Proof.Machine

/-- Nothing holds back or stops the instruction of the issuing split: no reply is owed to the split outside an open window, the
split is in the mode the instruction asks for, none of its registers is pending, none of its sources is poisoned, and a vector
destination finds an overflow register free, or the split has stalled for 64 slots (R99 check 6, R206, R216, R218, R237, R242). -/
structure Admits (s : State) (cx : Cx) (u : Uses) : Prop where
  issuer : s.issuer = some cx
  free : parkTags (s.owed cx.core cx.gid cx.sp.tag) cx.sp.windows u = []
  mode : u.firmware = true → cx.sp.firmware = true
  own : u.touches (s.pending cx.core cx.gid fun t => t == cx.sp.tag) = false
  others : u.touches (s.pending cx.core cx.gid fun t => t != cx.sp.tag) = false
  clean : u.poisoned cx.grp = false
  room : u.vw = [] ∨ (s.quad cx.quad).overflowFull = false ∨ 64 ≤ cx.sp.placeWait.getD 0

/-- A group with the registers, poison marks, flags, names and splits of another. -/
def Group.putRegs (g h : Group) : Group :=
  { g with
    v := h.v
    g := h.g
    m := h.m
    j := h.j
    vPoison := h.vPoison
    gPoison := h.gPoison
    mPoison := h.mPoison
    jPoison := h.jPoison
    fflags := h.fflags
    names := h.names
    res := h.res
    stack := h.stack }

/-- A state with the groups, cores and quadrants of another. -/
def State.putRegs (s t : State) : State := { s with groups := t.groups, cores := t.cores, quads := t.quads }

/-- An instruction of the issuing split has ended with charge `n`: it has moved its split on as `f` says and left its group as `g`.
Outside the issuing group's registers and splits, the account of its core (R473) and the names of its quadrant, nothing has changed. -/
structure Issued (s t : State) (cx : Cx) (g : Group) (n : Nat) (f : Split → Split) : Prop where
  group : t.groups.look cx.gid = some g
  next : g.res.look cx.k = some (f cx.sp)
  res : g.res = (cx.grp.modTag cx.sp.tag f).res
  stack : g.stack = (cx.grp.modTag cx.sp.tag f).stack
  /-- Of the issuing group, only registers, poison marks, flags and names may differ beside that. -/
  kept : g = cx.grp.putRegs g
  others : ∀ k, k ≠ cx.gid → t.groups.look k = s.groups.look k
  core : t.core cx.core = { s.core cx.core with account := min ((s.core cx.core).account + n) (2 ^ 24 - 1) }
  cores : ∀ c, c ≠ cx.core → t.core c = s.core c
  quads : ∀ q, q ≠ cx.quad → t.quad q = s.quad q
  rest : t = s.putRegs t
  /-- Every byte of memory reads as before. -/
  memory : ∀ a, t.physByte a = s.physByte a

/-- An instruction that changes registers alone has retired: its split has advanced past it. -/
abbrev RegsOnly (s t : State) (cx : Cx) (g : Group) (n : Nat) : Prop := Issued s t cx g n Split.retire

/-- The vector registers outside the run of n from d are as they were. -/
def Group.KeepsV (g g' : Group) (d n : Nat) : Prop := ∀ r, r < d ∨ d + n ≤ r → g'.vreg r = g.vreg r

/-- The g registers outside a list are as they were. -/
def Group.KeepsG (g g' : Group) (ds : List Nat) : Prop := ∀ r, r ∉ ds → g'.greg r = g.greg r

/-- Mask registers other than those of a list, as they were. -/
def Group.KeepsM (g g' : Group) (ks : List Nat) : Prop := ∀ k, k ∉ ks → Bits.rd g'.m k 0 = Bits.rd g.m k 0

/-- Rejoin registers other than those of a list, as they were. -/
def Group.KeepsJ (g g' : Group) (ks : List Nat) : Prop := ∀ k, k ∉ ks → g'.jreg k = g.jreg k

/-! ### Lane-set instructions -/

/-- What the spec says of a lane-set instruction with vector destinations: the instruction, its word's key with its guard and the
registers it names, the bits [hi−1:lo] of its word that hold operand fields, and from the issuing split and the active lanes each
lane's value and the flags raised. -/
structure LaneRow where
  instr : Instr
  op : LaneOp
  hi : Nat
  lo : Nat := 0
  value : Cx → Word → (Nat → BitVec 128) × FlagSet

/-- The entry of the quadrant's reuse table that the instruction of the row hits, if the split reuses (R247 to R249). -/
def LaneRow.hit (r : LaneRow) (s : State) (cx : Cx) : Option ReuseEntry :=
  if r.op.candidate && cx.reuses then s.reuseFind cx.quad (r.op.reuseKey cx (cx.active r.op.guard)) else none

/-- Without a reuse hit, every active lane of the destination run takes its value, inactive lanes and all other registers keep theirs,
the flags are ORed in, and the instruction is charged by its class (R5, R7, R47, R89, R473). -/
def LaneRow.ComputesAt (r : LaneRow) (cx : Cx) : Prop :=
  ∀ s : State, wellFormed 64 r.instr = true → Admits s cx r.op.uses → r.hit s cx = none →
    ∃ t g, exec r.instr s = .next t
      ∧ RegsOnly s t cx g (chargeOf (s.weight cx.core (classOf r.op.key)) (classOf r.op.key) (Bits.popcount (cx.active r.op.guard))
          (cx.grp.narrowSources r.op.vr))
      ∧ (∀ k l, k < r.op.n → l < 32 → g.vlane (r.op.d + k) l =
          if (cx.active r.op.guard).getLsbD l then ((r.value cx (cx.active r.op.guard)).1 l).extractLsb' (32 * k) 32
          else cx.grp.vlane (r.op.d + k) l)
      ∧ cx.grp.KeepsV g r.op.d r.op.n ∧ cx.grp.KeepsG g [] ∧ cx.grp.KeepsM g [] ∧ cx.grp.KeepsJ g []
      ∧ g.fflags = cx.grp.fflags ||| (r.value cx (cx.active r.op.guard)).2

/-- With a reuse hit on an entry whose results are live, the destination run takes the values of the entry's physical registers, the entry's
flags are ORed in, nothing is charged, and all other registers keep theirs (R249, R473). -/
def LaneRow.HitsAt (r : LaneRow) (cx : Cx) : Prop :=
  ∀ (s : State) (e : ReuseEntry), wellFormed 64 r.instr = true → Admits s cx r.op.uses → r.hit s cx = some e →
    e.results.length = r.op.n → (∀ k, k < r.op.n → ((s.quad cx.quad).pool.look (e.results.getD k 2048)).isSome) →
    ∃ t g, exec r.instr s = .next t ∧ RegsOnly s t cx g 0
      ∧ (∀ k p, k < r.op.n → (s.quad cx.quad).pool.look (e.results.getD k 2048) = some p → g.vreg (r.op.d + k) = p.value)
      ∧ cx.grp.KeepsV g r.op.d r.op.n ∧ cx.grp.KeepsG g [] ∧ cx.grp.KeepsM g [] ∧ cx.grp.KeepsJ g []
      ∧ g.fflags = cx.grp.fflags ||| e.flags

/-- The key's word is the instruction's word with its operand fields cleared (R248). -/
def LaneRow.Keyed (r : LaneRow) : Prop :=
  ∀ w, encode r.instr = some w → r.op.key.toNat = w.toNat / 2 ^ r.hi * 2 ^ r.hi + w.toNat % 2 ^ r.lo

/-- What a lane-set instruction does, with and without a reuse hit, under the key of its word. -/
def LaneRow.Executes (r : LaneRow) : Prop := r.Keyed ∧ ∀ cx, r.ComputesAt cx ∧ r.HitsAt cx

/-- A row computed lane by lane: each active lane's value and flags. -/
def LaneRow.each (i : Instr) (o : LaneOp) (hi lo : Nat) (f : Cx → Nat → BitVec 128 × FlagSet) : LaneRow :=
  { instr := i, op := o, hi := hi, lo := lo, value := fun cx active => (fun l => (f cx l).1, orFlags active fun l => (f cx l).2) }

/-- A word and its flags as a lane's value. -/
def asWord (r : Word × FlagSet) : BitVec 128 × FlagSet := (word1 r.1, r.2)

/-- A pair and its flags as a lane's value. -/
def asPair (r : DWord × FlagSet) : BitVec 128 × FlagSet := (word2 r.1, r.2)

/-- LR: word from word a and word or broadcast b (R87, R90). -/
def rowWords (i : BitVec 3 → BitVec 6 → BitVec 6 → BitVec 6 → Instr) (maj min : Nat) (f : Word → Word → Word × FlagSet)
    (g : BitVec 3) (d a b : BitVec 6) : LaneRow :=
  .each (i g d a b) (opLR maj min g d.toNat 1 a.toNat 1 b.toNat 1) 18 0 fun cx l =>
    asWord (f (cx.grp.vlane a.toNat l) (cx.bWord g b.toNat l))

/-- LR: word from word a. -/
def rowWord (i : BitVec 3 → BitVec 6 → BitVec 6 → Instr) (maj min : Nat) (f : Word → Word × FlagSet) (g : BitVec 3) (d a : BitVec 6) :
    LaneRow :=
  .each (i g d a) (opLR maj min g d.toNat 1 a.toNat 1 0 0) 18 0 fun cx l => asWord (f (cx.grp.vlane a.toNat l))

/-- LR: pair from words a and b. -/
def rowPairOfWords (i : BitVec 3 → BitVec 6 → BitVec 6 → BitVec 6 → Instr) (maj min : Nat) (f : Word → Word → DWord)
    (g : BitVec 3) (d a b : BitVec 6) : LaneRow :=
  .each (i g d a b) (opLR maj min g d.toNat 2 a.toNat 1 b.toNat 1) 18 0 fun cx l =>
    asPair (f (cx.grp.vlane a.toNat l) (cx.bWord g b.toNat l), 0)

/-- LR: pair from pairs a and b. -/
def rowPairs (i : BitVec 3 → BitVec 6 → BitVec 6 → BitVec 6 → Instr) (maj min : Nat) (f : DWord → DWord → DWord × FlagSet)
    (g : BitVec 3) (d a b : BitVec 6) : LaneRow :=
  .each (i g d a b) (opLR maj min g d.toNat 2 a.toNat 2 b.toNat 2) 18 0 fun cx l =>
    asPair (f (cx.grp.vpair a.toNat l) (cx.bPair g b.toNat l))

/-- LR: pair from pair a and word b. -/
def rowPairWord (i : BitVec 3 → BitVec 6 → BitVec 6 → BitVec 6 → Instr) (maj min : Nat) (f : DWord → Word → DWord)
    (g : BitVec 3) (d a b : BitVec 6) : LaneRow :=
  .each (i g d a b) (opLR maj min g d.toNat 2 a.toNat 2 b.toNat 1) 18 0 fun cx l =>
    asPair (f (cx.grp.vpair a.toNat l) (cx.bWord g b.toNat l), 0)

/-- LR: pair from pair a. -/
def rowPair (i : BitVec 3 → BitVec 6 → BitVec 6 → Instr) (maj min : Nat) (f : DWord → DWord × FlagSet) (g : BitVec 3)
    (d a : BitVec 6) : LaneRow :=
  .each (i g d a) (opLR maj min g d.toNat 2 a.toNat 2 0 0) 18 0 fun cx l => asPair (f (cx.grp.vpair a.toNat l))

/-- LR: pair from word a. -/
def rowPairOfWord (i : BitVec 3 → BitVec 6 → BitVec 6 → Instr) (maj min : Nat) (f : Word → DWord × FlagSet) (g : BitVec 3)
    (d a : BitVec 6) : LaneRow :=
  .each (i g d a) (opLR maj min g d.toNat 2 a.toNat 1 0 0) 18 0 fun cx l => asPair (f (cx.grp.vlane a.toNat l))

/-- LR: word from pair a. -/
def rowWordOfPair (i : BitVec 3 → BitVec 6 → BitVec 6 → Instr) (maj min : Nat) (f : DWord → Word × FlagSet) (g : BitVec 3)
    (d a : BitVec 6) : LaneRow :=
  .each (i g d a) (opLR maj min g d.toNat 1 a.toNat 2 0 0) 18 0 fun cx l => asWord (f (cx.grp.vpair a.toNat l))

/-- LF: word from words a, b and c. -/
def rowWords3 (i : BitVec 6 → BitVec 6 → BitVec 6 → BitVec 6 → Instr) (maj min : Nat) (f : Word → Word → Word → Word × FlagSet)
    (d a b c : BitVec 6) : LaneRow :=
  .each (i d a b c) (opLF maj min d.toNat 1 a.toNat 1 b.toNat 1 c.toNat 1) 24 0 fun cx l =>
    asWord (f (cx.grp.vlane a.toNat l) (cx.grp.vlane b.toNat l) (cx.grp.vlane c.toNat l))

/-- LF: pair from pairs a, b and c. -/
def rowPairs3 (i : BitVec 6 → BitVec 6 → BitVec 6 → BitVec 6 → Instr) (maj min : Nat) (f : DWord → DWord → DWord → DWord × FlagSet)
    (d a b c : BitVec 6) : LaneRow :=
  .each (i d a b c) (opLF maj min d.toNat 2 a.toNat 2 b.toNat 2 c.toNat 2) 24 0 fun cx l =>
    asPair (f (cx.grp.vpair a.toNat l) (cx.grp.vpair b.toNat l) (cx.grp.vpair c.toNat l))

/-- LF: pair from words a and b and pair c. -/
def rowWordsPair (i : BitVec 6 → BitVec 6 → BitVec 6 → BitVec 6 → Instr) (maj min : Nat) (f : Word → Word → DWord → DWord)
    (d a b c : BitVec 6) : LaneRow :=
  .each (i d a b c) (opLF maj min d.toNat 2 a.toNat 1 b.toNat 1 c.toNat 2) 24 0 fun cx l =>
    asPair (f (cx.grp.vlane a.toNat l) (cx.grp.vlane b.toNat l) (cx.grp.vpair c.toNat l), 0)

/-- LI: word from word a and an immediate of `imm` as it stands in the word's low bits; `reads` names vd when it is read too. -/
def rowImm (i : Instr) (maj min imm : Nat) (reads : List Nat) (g : BitVec 3) (d a : BitVec 6) (f : Cx → Nat → Word → Word) : LaneRow :=
  .each i { key := keyLI maj min g imm, guard := g.toNat, d := d.toNat, vr := reads ++ [a.toNat] } 20 8 fun cx l =>
    asWord (f cx l (cx.grp.vlane a.toNat l), 0)

/-- LK: word from the old word and a 16-bit immediate. -/
def rowK (i : Instr) (min : Nat) (reads : List Nat) (g : BitVec 3) (d : BitVec 6) (imm : BitVec 16) (f : Word → Word) : LaneRow :=
  .each i { key := BitVec.ofNat 32 (10 * 2 ^ 27 + min * 2 ^ 25 + g.toNat * 2 ^ 22 + imm.toNat), guard := g.toNat, d := d.toNat, vr := reads }
    22 16 fun cx l => asWord (f (cx.grp.vlane d.toNat l), 0)

/-- LX: a row in which lanes read each other, over words (n = 1) or pairs (n = 2); c is the field below va (R87, R93). -/
def rowX (i : Instr) (min c n : Nat) (reads : List Nat) (d a : BitVec 6) (value : Cx → Word → (Nat → BitVec 128) × FlagSet) : LaneRow :=
  { instr := i
    op := { key := BitVec.ofNat 32 (14 * 2 ^ 27 + min * 2 ^ 21 + c), d := d.toNat, n := n, vr := reads ++ regRun a.toNat n }
    hi := 17
    lo := 5
    value := value }

/-- The word (n = 1) or pair (n = 2) of lane l at register r. -/
def Cx.element (cx : Cx) (n r l : Nat) : DWord := if n = 1 then (cx.grp.vlane r l).zeroExtend 64 else cx.grp.vpair r l

/-- The lanes below lane n. -/
def lanesBelow (n : Nat) : Word := BitVec.ofNat 32 (2 ^ n - 1)

/-- A MATCH row: the active lanes whose key equals the lane's (R232). -/
def rowMatch (i : Instr) (min n : Nat) (d a : BitVec 6) : LaneRow :=
  { instr := i
    op := { key := BitVec.ofNat 32 (0xB0000000 + min * 2 ^ 21), d := d.toNat, vr := regRun a.toNat n }
    hi := 21
    value := fun cx active =>
      (fun l => word1 (Bits.maskBy fun k => active.getLsbD k && cx.element n a.toNat k == cx.element n a.toNat l), 0) }

/-- A narrow conversion under the slot named by k (R287). -/
def rowNarrow (i : Instr) (min : Nat) (reads : List Nat) (g : BitVec 3) (d a : BitVec 6) (k : BitVec 3)
    (f : Narrow → Bool → Cx → Word → (Nat → BitVec 128) × FlagSet) : LaneRow :=
  { instr := i
    op := { key := keyLR 5 min g, guard := guardLR g, d := d.toNat, vr := reads ++ [a.toNat], slot := some k.toNat }
    hi := 18
    value := fun cx active =>
      match slotNarrow (cx.slotWord k.toNat) with
      | some (n, micro) => f n micro cx active
      | none => (fun _ => 0, 0) }

/-- The scale record of a block of 16 lanes of a register, over its active lanes (R43, R289): E and U. -/
def Cx.blockScale (cx : Cx) (n : Narrow) (micro : Bool) (active : Word) (r block : Nat) : Nat × Nat :=
  n.scale micro ((List.range 16).map fun i => if active.getLsbD (16 * block + i) then cx.num r (16 * block + i) else .fin false 0 0)

/-- The element word of a number under the record in a word of vd, with its flags (R44, R45, R290). -/
def packUnder (n : Narrow) (micro : Bool) (l w : Nat) (x : Num) : Nat × FlagSet :=
  let e := w / 2 ^ 16 % 256
  let u := if micro then w / 2 ^ 24 else 0
  let c : Nat × FlagSet := if e = 255 then (0, 0) else n.under micro e u (l % 16) x
  (u * 2 ^ 24 + e * 2 ^ 16 + c.1, c.2)

/-- The FP32 bits of an element word, with its flags (R37, R291). -/
def unpackElement (n : Narrow) (micro : Bool) (l w : Nat) : Nat × FlagSet :=
  fp32.pack (n.value micro (w / 2 ^ 16 % 256) (w / 2 ^ 24) (w % 256) (l % 16))

/-! ### Lane-set instructions that write a mask register -/

/-- What the spec says of a lane-set instruction that writes bits of a mask register: WTAB code, guard, mask register, sources, and each
lane's bit and flags. -/
structure LaneMaskRow where
  instr : Instr
  code : Nat
  guard : Nat
  k : Nat
  vr : List Nat
  gr : List Nat := []
  value : Cx → Nat → Bool × FlagSet

/-- Active lanes' bits of the mask register take their value, the other bits and every other register are kept, and the flags
of the active lanes are ORed in (R7, R261). -/
def LaneMaskRow.Computes (r : LaneMaskRow) : Prop :=
  ∀ (s : State) (cx : Cx), wellFormed 64 r.instr = true → Admits s cx { vr := r.vr, gr := r.gr, mr := [r.guard] } →
    ∃ t g, exec r.instr s = .next t
      ∧ RegsOnly s t cx g (chargeOf (s.weight cx.core r.code) r.code (Bits.popcount (cx.active r.guard)) (cx.grp.narrowSources r.vr))
      ∧ (∀ l, l < 32 → (Bits.rd g.m r.k 0).getLsbD l =
          if (cx.active r.guard).getLsbD l then (r.value cx l).1 else (Bits.rd cx.grp.m r.k 0).getLsbD l)
      ∧ cx.grp.KeepsV g 0 0 ∧ cx.grp.KeepsG g [] ∧ cx.grp.KeepsM g [r.k] ∧ cx.grp.KeepsJ g []
      ∧ g.fflags = cx.grp.fflags ||| orFlags (cx.active r.guard) fun l => (r.value cx l).2

/-- A compare of words a and b. -/
def cmpWords (i : BitVec 3 → BitVec 3 → BitVec 6 → BitVec 6 → Instr) (f : Word → Word → Bool × FlagSet) (g k : BitVec 3)
    (a b : BitVec 6) : LaneMaskRow :=
  { instr := i g k a b
    code := 2
    guard := guardLR g
    k := k.toNat
    vr := [a.toNat] ++ if g = 7 then [] else [b.toNat]
    gr := if g = 7 then [b.toNat] else []
    value := fun cx l => f (cx.grp.vlane a.toNat l) (cx.bWord g b.toNat l) }

/-- A compare of pairs a and b. -/
def cmpPairs (i : BitVec 3 → BitVec 3 → BitVec 6 → BitVec 6 → Instr) (f : DWord → DWord → Bool × FlagSet) (g k : BitVec 3)
    (a b : BitVec 6) : LaneMaskRow :=
  { instr := i g k a b
    code := 2
    guard := guardLR g
    k := k.toNat
    vr := regRun a.toNat 2 ++ if g = 7 then [] else regRun b.toNat 2
    gr := if g = 7 then [b.toNat] else []
    value := fun cx l => f (cx.grp.vpair a.toNat l) (cx.bPair g b.toNat l) }

/-- A compare of word a with an immediate. -/
def cmpImm (i : BitVec 3 → BitVec 3 → BitVec 6 → BitVec 8 → Instr) (f : Word → BitVec 8 → Bool) (g k : BitVec 3) (a : BitVec 6)
    (imm : BitVec 8) : LaneMaskRow :=
  { instr := i g k a imm
    code := 8
    guard := g.toNat
    k := k.toNat
    vr := [a.toNat]
    value := fun cx l => (f (cx.grp.vlane a.toNat l) imm, 0) }

/-! ### Group-set instructions -/

/-- What the spec says of a group-set instruction that writes one g register: WTAB code, sources, destination, value. -/
structure GroupRow where
  instr : Instr
  code : Nat
  uses : Uses
  d : BitVec 6
  value : Cx → State → DWord

/-- The g register takes its value and every other register and the flags are kept. -/
def GroupRow.Computes (r : GroupRow) : Prop :=
  ∀ (s : State) (cx : Cx), Admits s cx { r.uses with gw := [r.d.toNat] } →
    ∃ t g, exec r.instr s = .next t ∧ RegsOnly s t cx g (s.weight cx.core r.code)
      ∧ g.greg r.d.toNat = r.value cx s ∧ cx.grp.KeepsG g [r.d.toNat]
      ∧ cx.grp.KeepsV g 0 0 ∧ cx.grp.KeepsM g [] ∧ cx.grp.KeepsJ g [] ∧ g.fflags = cx.grp.fflags

/-- A GR row of two g sources. -/
def rowG2 (i : BitVec 3 → BitVec 6 → BitVec 6 → BitVec 6 → Instr) (code : Nat) (f : BitVec 3 → DWord → DWord → DWord)
    (w : BitVec 3) (d a b : BitVec 6) : GroupRow :=
  { instr := i w d a b
    code := code
    uses := { gr := [a.toNat, b.toNat] }
    d := d
    value := fun cx _ => f w (cx.grp.greg a.toNat) (cx.grp.greg b.toNat) }

/-- A GR row of one g source. -/
def rowG1 (i : BitVec 3 → BitVec 6 → BitVec 6 → Instr) (code : Nat) (f : BitVec 3 → DWord → DWord) (w : BitVec 3) (d a : BitVec 6) :
    GroupRow :=
  { instr := i w d a, code := code, uses := { gr := [a.toNat] }, d := d, value := fun cx _ => f w (cx.grp.greg a.toNat) }

/-- A GI row: one g source and an immediate. -/
def rowGI {n : Nat} (i : BitVec 6 → BitVec 6 → BitVec n → Instr) (f : DWord → BitVec n → DWord) (d a : BitVec 6) (imm : BitVec n) :
    GroupRow :=
  { instr := i d a imm, code := 19, uses := { gr := [a.toNat] }, d := d, value := fun cx _ => f (cx.grp.greg a.toNat) imm }

/-- What the spec says of a group-set instruction that writes a whole mask register. -/
structure GroupMaskRow where
  instr : Instr
  code : Nat
  uses : Uses
  k : BitVec 3
  value : Cx → Word

/-- The mask register takes its value and every other register and the flags are kept. -/
def GroupMaskRow.Computes (r : GroupMaskRow) : Prop :=
  ∀ (s : State) (cx : Cx), wellFormed 64 r.instr = true → Admits s cx r.uses →
    ∃ t g, exec r.instr s = .next t ∧ RegsOnly s t cx g (s.weight cx.core r.code)
      ∧ Bits.rd g.m r.k.toNat 0 = r.value cx ∧ cx.grp.KeepsM g [r.k.toNat]
      ∧ cx.grp.KeepsG g [] ∧ cx.grp.KeepsV g 0 0 ∧ cx.grp.KeepsJ g [] ∧ g.fflags = cx.grp.fflags

/-- A group compare at a width: the lanes of the split, or none (R269, R272). -/
def rowGCmp (i : BitVec 3 → BitVec 3 → BitVec 6 → BitVec 6 → Instr) (f : BitVec 3 → DWord → DWord → Bool) (w k : BitVec 3)
    (a b : BitVec 6) : GroupMaskRow :=
  { instr := i w k a b
    code := 18
    uses := { gr := [a.toNat, b.toNat] }
    k := k
    value := fun cx => if f w (cx.grp.greg a.toNat) (cx.grp.greg b.toNat) then cx.sp.mask else 0 }

/-- A group compare with an immediate (R274). -/
def rowGCmpImm (i : BitVec 3 → BitVec 6 → BitVec 11 → Instr) (f : DWord → DWord → Bool) (k : BitVec 3) (a : BitVec 6)
    (imm : BitVec 11) : GroupMaskRow :=
  { instr := i k a imm
    code := 19
    uses := { gr := [a.toNat] }
    k := k
    value := fun cx => if f (cx.grp.greg a.toNat) (imm.signExtend 64) then cx.sp.mask else 0 }

/-! ### Traps -/

/-- The trap record of an instruction of the issuing split (R154), before the part writes it. -/
def Cx.record (cx : Cx) (time : BitVec 64) (c : Cause) (lanes : Word) (addr aux pc : DWord) : Record :=
  { time := time, aux := aux, addr := addr, pc := pc, lanes := lanes, kernel := cx.team.kernel, team := cx.team.linear
    group := cx.grp.index, split := cx.k, nested := cx.sp.firmware, core := cx.core, cause := c }

/-- The trap was delivered to handler h (R101, R147, R148): g61 to g63 hold the pc, the address, and lanes, code, lowest lane and cause; the
split runs at h in firmware mode, and its old g61 to g63 and no-reuse mark are kept. Everything but the group is unchanged. -/
def Handled (s t : State) (cx : Cx) (c : Cause) (lanes : Word) (addr aux pc : DWord) (code : BitVec 4) (time : BitVec 64) (h : DWord) :
    Prop :=
  ∃ g, t = { s with groups := s.groups.put cx.gid g }
    ∧ g.greg 61 = pc ∧ g.greg 62 = addr
    ∧ g.greg 63 = lanes ++ (0 : BitVec 12) ++ code ++ (0 : BitVec 3) ++ BitVec.ofNat 5 (Bits.lowest lanes) ++ BitVec.ofNat 8 c.code
    ∧ g.res.look cx.k = some
      { cx.sp with
        pc := h, firmware := true, nr := false, trapNr := cx.sp.nr, state := .ready, windows := [], parkOn := [], wait := none
        waitPulses := 0, idle := 0, pendingTrap := none, peerRead := [], placeWait := none, drainTo := none
        trap61 := pc, trap62 := addr, trap63 := g.greg 63, trapAux := aux, trapTime := time
        tshad61 := cx.grp.greg 61, tshad62 := cx.grp.greg 62, tshad63 := cx.grp.greg 63 }
    ∧ (∀ k sp, cx.grp.res.look k = some sp → sp.tag ≠ cx.sp.tag → g.res.look k = some sp)
    ∧ cx.grp.KeepsG g [61, 62, 63] ∧ cx.grp.KeepsV g 0 0 ∧ cx.grp.KeepsM g [] ∧ cx.grp.KeepsJ g [] ∧ g.fflags = cx.grp.fflags

/-- The bytes of a physical range lie in no peer, and those on this device are at homes that an accessor reaches (R408, R453): the part can
write and read them itself. -/
def State.Reaches (s : State) (who : Accessor) (pa n : Nat) : Prop :=
  ∀ k < n, (∀ d, s.paKind (pa + k) ≠ .peer d) ∧ (s.paKind (pa + k) = .device → s.reachable who (pa + k) = true)

/-- Of a state, only what a write of the part itself may change may differ from another: memory with its poison, reports, pub regions, the
watches of queues, messages to peers, and what belongs to the homes, with the reuse entries that their traffic kills. -/
abbrev State.OnlyMemory (s t : State) : Prop :=
  t = { s with
    mem := t.mem, memPoison := t.memPoison, reports := t.reports, pubs := t.pubs, queues := t.queues, sent := t.sent
    classes := t.classes, snoops := t.snoops, homes := t.homes, banks := t.banks, agenda := t.agenda, quads := t.quads }

/-- The part has written the trap record r of a context and stopped a split for it (R141, R153): with room, and when the write passes
its checks, TQTAIL advances and the 64 bytes at TQBASE + 64 × TQTAIL hold the record, where they lie in memory that the device reaches;
otherwise TQLOST advances and memory is unchanged. -/
structure Recorded (s t : State) (asid : Nat) (c : Ctx) (r : Record) : Prop where
  full : c.nextTail = c.tqhead.toNat →
    t.ctxs.look asid = some c.lose.fault ∧ t.mem = s.mem
  failed : c.nextTail ≠ c.tqhead.toNat → ∀ x, s.checkSystem asid c.recordAddr 64 1 .write = .cause x →
    t.ctxs.look asid = some c.lose.fault ∧ t.mem = s.mem
      ∧ t.reports = s.reports ++ [.trapDropped asid (BitVec.ofNat 64 c.recordAddr)]
  written : c.nextTail ≠ c.tqhead.toNat → ∀ pa pte bits, s.checkSystem asid c.recordAddr 64 1 .write = .ok pa pte bits →
    t.ctxs.look asid = some { c with tqtail := BitVec.ofNat 64 c.nextTail }.fault
      ∧ (Memory.wf s.mem = true → (s.Reaches .system pa 64 → t.physBytes pa 64 = Memory.ofNat 64 r.pack)
          ∧ ∀ a, (∀ k < 64, s.redirect a ≠ s.redirect (pa + k)) → t.physByte a = s.physByte a)

/-- The trap was not handled (R147): its split is STOPPED with its pc and mask, the group HALTED if no other split runs, the record
written and the context FAULTED; faulted lanes of its accesses are given up. No register of the group has changed; its names may. -/
structure Stopped (s t : State) (cx : Cx) (r : Record) : Prop where
  group : ∃ ns, t.groups.look cx.gid = some (({ cx.grp with names := ns } : Group).modTag cx.sp.tag Split.stop).halt
  others : ∀ k, k ≠ cx.gid → t.groups.look k = s.groups.look k
  core : t.core cx.core = { s.core cx.core with sluice := (t.core cx.core).sluice }
  sluice : ∀ tag, (∀ e, (tag, e) ∈ (s.core cx.core).sluice → ¬ (e.group = cx.gid ∧ e.split = cx.sp.tag ∧ e.fault ≠ 0)) →
    (t.core cx.core).sluice.look tag = (s.core cx.core).sluice.look tag
  cores : ∀ c, c ≠ cx.core → t.core c = s.core c
  recorded : Recorded s t cx.asid cx.ctx r
  rest : State.OnlyMemory { s with groups := t.groups, ctxs := t.ctxs, cores := t.cores } t

/-- A trap has been delivered (R147): to the handler from program mode; with none, or from firmware mode, or where no handler takes it (R150,
R210: `stop`), it stops the split, after which the group's JOINs are looked at again (R228). -/
def Delivered (s t : State) (cx : Cx) (c : Cause) (lanes : Word) (addr aux pc : DWord) (code : BitVec 4) (time : BitVec 64)
    (stop : Bool := false) : Prop :=
  match cx.sp.firmware || stop, cx.ctx.handler with
  | false, some h => Handled s t cx c lanes addr aux pc code time h
  | _, _ => ∃ u, t = u.rejoin cx.asid cx.gid ∧ Stopped s u cx (cx.record time c lanes addr aux pc)

/-- The instruction traps from a state to which it has come without an effect of its own (R146 to R149, R222): the trap is delivered, or
with replies owed the split parks until they have arrived. -/
def RaisesFrom (i : Instr) (s u : State) (cx : Cx) (c : Cause) (lanes : Word) (addr aux pc : DWord) (code : BitVec 4) : Prop :=
  ∃ t, exec i s = .next t ∧
    if u.owed cx.core cx.gid cx.sp.tag = [] then Delivered u t cx c lanes addr aux pc code u.time
    else
      ∃ g x, t = { u with groups := u.groups.put cx.gid g } ∧ g = cx.grp.modTag cx.sp.tag (fun sp =>
          { sp with state := .parked, windows := [], parkOn := u.owed cx.core cx.gid cx.sp.tag, pendingTrap := some x, peerRead := [] })
        ∧ x.cause = c ∧ x.lanes = lanes ∧ x.addr = addr ∧ x.aux = aux ∧ x.code = code ∧ x.time = u.time ∧ x.stop = false
        ∧ pc = if x.atNext then cx.sp.pc + 4 else cx.sp.pc

/-- The instruction traps, and nothing else changes. -/
abbrev Raises (i : Instr) (s : State) (cx : Cx) (c : Cause) (lanes : Word) (addr aux pc : DWord) (code : BitVec 4) : Prop :=
  RaisesFrom i s s cx c lanes addr aux pc code

/-- A state in which a reuse candidate has been looked up, or which is the same (R249). -/
def State.LookedUp (s u : State) (cx : Cx) : Prop := u = s ∨ u = s.countLookup cx.quad

/-- Of a state, only what translations leave may differ from another (R396, R412): a core's TLBs, what belongs to the homes, the snoops and
reuse tables. -/
structure State.Translated (s u : State) (cx : Cx) : Prop where
  core : u.core cx.core = { s.core cx.core with tlb := (u.core cx.core).tlb }
  cores : ∀ c, c ≠ cx.core → u.core c = s.core c
  rest : u = { s with
    cores := u.cores, chips := u.chips, quads := u.quads, classes := u.classes, snoops := u.snoops, homes := u.homes
    banks := u.banks, agenda := u.agenda }

/-! ### Branches -/

/-- A taken branch swaps its split out: it goes backward, is the 256th such branch or a later one since the split became resident, no
window is open, and the stack is not empty (R214, R226). -/
def Cx.branchSwaps (cx : Cx) (tgt : DWord) : Bool := decide (tgt ≤ cx.sp.pc ∧ 255 ≤ cx.sp.bbc ∧ cx.sp.windows = [] ∧ cx.grp.stack ≠ [])

/-- The state after a branch, with the swap that it may bring. -/
def Cx.branched (cx : Cx) (tgt : DWord) (t : State) : State := if cx.branchSwaps tgt then t.swapOut cx.asid cx.gid cx.k else t

/-- The instruction moves the whole split to a target, counting a backward branch, with its charge; nothing else changes but the
registers that `after` describes (R226, R229). -/
def Branches (i : Instr) (s : State) (cx : Cx) (code : Nat) (tgt : DWord) (after : Group → Prop) : Prop :=
  ∃ t g, exec i s = .next (cx.branched tgt t)
    ∧ Issued s t cx g (s.weight cx.core code) (fun sp =>
        { sp.tick with pc := tgt, nr := false, bbc := if tgt ≤ sp.pc then sp.bbc + 1 else sp.bbc })
    ∧ after g ∧ cx.grp.KeepsV g 0 0 ∧ cx.grp.KeepsM g [] ∧ cx.grp.KeepsJ g [] ∧ g.fflags = cx.grp.fflags

/-- The registers of all kinds are as they were. -/
def Group.KeepsAll (g g' : Group) : Prop :=
  g.KeepsG g' [] ∧ g.KeepsV g' 0 0 ∧ g.KeepsM g' [] ∧ g.KeepsJ g' [] ∧ g'.fflags = g.fflags

/-! ### Division and JOIN -/

/-- The division of BRA.D on group g0 (R227): the split keeps the lanes outside `taken` and moves past the branch; a new split with the lanes
taken starts at the target in the lowest free index with a new TAG; J[j] holds the lanes that took part. -/
def Group.Divided (g0 g : Group) (cx : Cx) (j : Nat) (taken : Word) (tgt : DWord) (age : Nat) : Prop :=
  g.res.look cx.k = some { cx.sp.retire with mask := cx.sp.mask &&& ~~~ taken }
    ∧ (∃ k < 4, g0.res.look k = none ∧ (∀ x < k, (g0.res.look x).isSome)
        ∧ g.res.look k = some
          { cx.sp with
            pc := tgt, mask := taken, tag := g0.freeTag, nr := false, age := age, bbc := 0, windows := [], idle := 0
            readySlots := 0, ready := false, placeWait := none, drainTo := none, peerRead := [], yieldTo := [] }
        ∧ ∀ x sp, x ≠ k → g0.res.look x = some sp → sp.tag ≠ cx.sp.tag → g.res.look x = some sp)
    ∧ g.jreg j = cx.sp.mask ∧ g0.KeepsJ g [j] ∧ g0.KeepsG g [] ∧ g0.KeepsV g 0 0 ∧ g0.KeepsM g [] ∧ g.fflags = g0.fflags

/-- y waits at the JOIN of rejoin register j where sp waits (R228). -/
def Split.joins (sp y : Split) (j : Nat) : Prop :=
  y.state = .waiting ∧ y.wait = some (.join j) ∧ y.pc = sp.pc ∧ y.firmware = sp.firmware

/-- Every lane of J[j] has exited, is in a STOPPED split, or waits with sp (R228). -/
def Group.arrived (g : Group) (sp : Split) (j : Nat) : Prop :=
  ∀ l < 32, (g.jreg j).getLsbD l = true → g.exited.getLsbD l = true
    ∨ ∃ y ∈ g.splits, (y.state = .stopped ∨ sp.joins y j) ∧ y.mask.getLsbD l = true

/-- No split of the group waits at a JOIN whose lanes have arrived. -/
def Group.joinsSettled (g : Group) : Prop := ∀ sp ∈ g.splits, ∀ j, sp.joins sp j → ¬ g.arrived sp j

/-! ### Global loads, stores and atomics -/

/-- What the spec says of a global access: its instruction, its class (R474), what it touches and does, its lanes' requests (address and
operands, lowest lane first; a uniform access is one request of lane 0), and the alignment asked of it. -/
structure GlobalRow where
  instr : Instr
  code : Nat
  uses : Uses
  access : Access
  reqs : Cx → List LaneReq
  align : Nat
  /-- The reuse key of a plain load, as the part looks it up (R247, R248). -/
  key : Option LaneOp := none

/-- The physical address of a request, when it passes every check of R60. -/
def GlobalRow.home (r : GlobalRow) (s : State) (cx : Cx) (q : LaneReq) : Option Nat :=
  match s.checkGlobal cx.core cx.asid cx.sp.firmware q.va.toNat r.access.op.size r.align r.access.op.kind with
  | .ok pa _ _ => some pa
  | .cause _ => none

/-- The requests with their physical addresses. -/
def GlobalRow.homed (r : GlobalRow) (s : State) (cx : Cx) : List LaneReq :=
  (r.reqs cx).filterMap fun q => (r.home s cx q).map fun pa => { q with pa := pa }

/-- The reuse entry that a plain load hits. -/
def GlobalRow.hit (r : GlobalRow) (s : State) (cx : Cx) : Option ReuseEntry :=
  match r.key with
  | some o => if cx.reuses then s.reuseFind cx.quad (o.reuseKey cx cx.sp.mask) else none
  | none => none

/-- The charge of the access (R473). -/
def GlobalRow.charge (r : GlobalRow) (s : State) (cx : Cx) : Nat :=
  if 16 ≤ r.code then s.weight cx.core r.code
  else (if cx.grp.narrowSources r.uses.vr then (s.weight cx.core r.code + 1) / 2 else s.weight cx.core r.code) * Bits.popcount cx.sp.mask

/-- The access comes to its address checks: nothing of R74, R76, R206, R216 or R249 holds it. -/
structure GlobalRow.Checks (r : GlobalRow) (s : State) (cx : Cx) : Prop where
  wf : wellFormed 64 r.instr = true
  admits : Admits s cx { r.uses with memory := true, ends := r.uses.ends || r.access.release.isSome }
  released : s.releaseWaits cx (r.access.release.getD 0) = false
  posted : r.access.release = some 5 → cx.grp.postedFault = none
  miss : r.hit s cx = none
  window : r.access.la = 0 ∨ cx.sp.windows.length < 4
  queue : if r.access.op.isStore then cx.grp.storeQ.length < 32 else s.sluiceGranted cx = true
  atomic : r.access.op.isAtomic = true → cx.grp.storeQ = []

/-- The access executes: it comes to its checks, every lane passes R60, and its home can serve it now (R309, R396, R397). -/
structure GlobalRow.Runs (r : GlobalRow) (s : State) (cx : Cx) : Prop extends r.Checks s cx where
  mapped : ∀ q ∈ r.reqs cx, (r.home s cx q).isSome
  served : s.lanesWait cx.core cx.gid r.access (r.homed s cx) = false

/-- Outside the issuing group, its core's account, sluice, L1 and TLBs, what belongs to the homes, reuse tables, the events to come, peer
requests and the free values drawn, nothing has changed: in particular no register of any other group. What the access does to memory and
to the group's registers is said beside it. -/
structure AccessFrame (s t : State) (cx : Cx) (n : Nat) : Prop where
  others : ∀ k, k ≠ cx.gid → t.groups.look k = s.groups.look k
  core : t.core cx.core = { s.core cx.core with
    account := min ((s.core cx.core).account + n) (2 ^ 24 - 1), sluice := (t.core cx.core).sluice
    sluiceWait := (t.core cx.core).sluiceWait, l1 := (t.core cx.core).l1, tlb := (t.core cx.core).tlb }
  cores : ∀ c, c ≠ cx.core → t.core c = s.core c
  rest : t = { s with
    groups := t.groups, cores := t.cores, quads := t.quads, chips := t.chips, classes := t.classes, snoops := t.snoops
    homes := t.homes, banks := t.banks, agenda := t.agenda, fresh := t.fresh, uid := t.uid, peerReqs := t.peerReqs, mem := t.mem
    memPoison := t.memPoison, reports := t.reports, pubs := t.pubs, queues := t.queues }
  migrations : t.migrations = s.migrations

/-- A load or atomic has issued: the lowest free sluice tag holds its entry, which owes every lane's reply (R215); the split has advanced
and opened its window (R216); registers keep their values until the replies arrive. -/
structure SluiceIssued (r : GlobalRow) (s t : State) (cx : Cx) (tag : Nat) (e : SluiceEntry) : Prop where
  free : tag < 192 ∧ (s.core cx.core).sluice.look tag = none ∧ ∀ k < tag, ((s.core cx.core).sluice.look k).isSome
  entry : (t.core cx.core).sluice = (s.core cx.core).sluice.put tag e
  owner : e.group = cx.gid ∧ e.split = cx.sp.tag ∧ e.pc = cx.sp.pc ∧ e.access = r.access ∧ e.firmware = cx.sp.firmware
    ∧ e.nr = cx.sp.nr
  lanes : e.pend = laneSet (r.homed s cx) ∧ e.fault = 0
  reqs : e.reqs.map (fun q => (q.lane, q.va, q.pa)) = (r.homed s cx).map fun q => (q.lane, q.va, q.pa)
  group : ∃ g, t.groups.look cx.gid = some g ∧ cx.grp.KeepsAll g ∧ g.storeQ = cx.grp.storeQ
    ∧ g.res = (cx.grp.modTag cx.sp.tag fun sp =>
        sp.retire.openWindow tag (if e.reqs.any LaneReq.peer then 0 else r.access.la) r.access.acquire.isSome).res
  frame : AccessFrame s t cx (r.charge s cx)

/-- A core's L1 has room for n more lines, and holds lines in part of peers alone (R12, R75). -/
def State.L1Room (s : State) (core n : Nat) : Prop :=
  (s.core core).l1.length + n ≤ l1Lines
    ∧ ∀ p ∈ (s.core core).l1, p.2.valid = BitVec.allOnes 128 ∨ ∃ d, ∀ k < 128, s.paKind (128 * p.1 + k) = .peer d

/-- Bytes are what a group reads at an address (R69, R75): each as the core sees it, or, where an earlier lane's line may have taken the
place of its own in L1 (R12), as the core sees it past L1. -/
def State.Sees (s : State) (cx : Cx) (pa size : Nat) (bypass : Bool) (bs : List Byte) : Prop :=
  bs = s.loadBytes cx.core cx.gid pa size bypass
    ∨ (¬ s.L1Room cx.core 32 ∧ bs.length = size ∧ ∀ k < size, ∃ b, bs.getD k 0 = (s.loadBytes cx.core cx.gid pa size b).getD k 0)

/-- A load of `size` bytes a lane: each lane's entry holds the bytes that the core sees at its address (R69, R75, R299), as `ext` extends
them; one whose bytes lie in a peer and not in L1 waits for the peer's reply, under the bytes of the group's own queued stores. Memory is
unchanged. A reuse hit takes the entry's values instead, with no charge (R249). -/
def GlobalRow.Loads (r : GlobalRow) (size : Nat) (bypass : Bool) (ext : Nat → Nat) : Prop :=
  (∀ (s : State) (cx : Cx), r.Runs s cx → ∃ t tag e, exec r.instr s = .next t ∧ SluiceIssued r s t cx tag e ∧ t.mem = s.mem
      ∧ ∀ q ∈ e.reqs, ((∃ d, s.paKind q.pa = .peer d) ∧ q.peer = true ∧ q.own = s.ownBytes cx.gid q.pa size)
          ∨ (q.peer = false ∧ ∃ bs, s.Sees cx q.pa size bypass bs ∧ q.val = ext (Memory.toNat bs)))
  ∧ ∀ (s : State) (cx : Cx) (o : LaneOp) (x : ReuseEntry), wellFormed 64 r.instr = true → Admits s cx { r.uses with memory := true } →
    r.key = some o → r.hit s cx = some x → r.access.release = none → x.results.length = o.n →
    (∀ k, k < o.n → ((s.quad cx.quad).pool.look (x.results.getD k 2048)).isSome) →
    ∃ t g, exec r.instr s = .next t ∧ RegsOnly s t cx g 0
      ∧ (∀ k p, k < o.n → (s.quad cx.quad).pool.look (x.results.getD k 2048) = some p → g.vreg (o.d + k) = p.value)
      ∧ cx.grp.KeepsV g o.d o.n ∧ cx.grp.KeepsG g [] ∧ cx.grp.KeepsM g [] ∧ cx.grp.KeepsJ g []

/-- A store of `size` bytes a lane: one entry at the end of the group's store queue holds each lane's physical address and bytes, lowest lane
first (R301, R302); memory is unchanged until the entry has left the queue. -/
def GlobalRow.Stores (r : GlobalRow) (size : Nat) : Prop :=
  ∀ (s : State) (cx : Cx), r.Runs s cx → r.reqs cx ≠ [] → ∃ t g, exec r.instr s = .next t ∧ AccessFrame s t cx (r.charge s cx) ∧ t.mem = s.mem
    ∧ (t.core cx.core).sluice = (s.core cx.core).sluice ∧ (t.core cx.core).l1 = (s.core cx.core).l1
    ∧ t.groups.look cx.gid = some g
    ∧ g = { cx.grp.modTag cx.sp.tag Split.retire with
        storeQ := cx.grp.storeQ ++ [{
          pc := cx.sp.pc
          pieces := (r.homed s cx).map fun q =>
            ({ kind := .global, addr := q.pa, bytes := Memory.ofNat size q.opA, lane := q.lane, va := q.va } : Piece) }] }

/-- The atomics of lanes, performed one after the other, lowest lane first (R64, R308): the memory after them, and each lane's old value.
A peer's word is not here, and a poisoned one is left alone (R316). -/
def State.atomicRun (s : State) (n : Nat) (f : Nat → Nat → Nat → Option Nat) : List LaneReq → State × List Nat
  | [] => (s, [])
  | q :: rest =>
    let old := s.physRead q.pa n
    let next :=
      match s.paKind q.pa, f old q.opA q.opB with
      | .peer _, _ => s
      | _, some v => if s.physPoisoned q.pa n then s else s.physWrite q.pa (Memory.ofNat n v)
      | _, none => s
    let r := next.atomicRun n f rest
    (r.1, old :: r.2)

/-- An atomic of n bytes a lane: the homes hold what the lanes' operations leave, lowest lane first; each lane's entry holds its old value
(R308); the core's L1 copies of the lines are dropped (R309). -/
def GlobalRow.Atomics (r : GlobalRow) (n : Nat) (f : Nat → Nat → Nat → Option Nat) : Prop :=
  ∀ (s : State) (cx : Cx), r.Runs s cx → ∃ t tag e, exec r.instr s = .next t ∧ SluiceIssued r s t cx tag e
    ∧ t.mem = (s.atomicRun n f (r.homed s cx)).1.mem
    ∧ (∀ (k : Nat) (q : LaneReq), e.reqs[k]? = some q → (∃ d, s.paKind q.pa = .peer d ∧ q.peer = true)
        ∨ (q.peer = false ∧ (s.atomicRun n f (r.homed s cx)).2[k]? = some q.val))
    ∧ (∀ q ∈ e.reqs, q.peer = false → (t.core cx.core).l1.look (q.pa / 128) = none)
    ∧ (Memory.wf s.mem = true → ∀ a, (∀ q ∈ r.homed s cx, ∀ k < n, s.redirect a ≠ s.redirect (q.pa + k)) → t.physByte a = s.physByte a)

/-- Lane l's address in an LM form (R92): the pair va:va+1 for base 7, else G[base] plus the extended offset of va. -/
def Cx.laneAddr (cx : Cx) (b : BitVec 3) (a : BitVec 6) (l : Nat) : DWord :=
  if b = 7 then cx.grp.vpair a.toNat l else cx.grp.greg b.toNat + (cx.grp.vlane a.toNat l).signExtend 64

/-- The registers an LM address names. -/
def addrUses (b : BitVec 3) (a : BitVec 6) : List Nat × List Nat := if b = 7 then ([a.toNat, a.toNat + 1], []) else ([a.toNat], [b.toNat])

/-- The row of a lane load of major 0xB with its minor. -/
def rowLoad (i : BitVec 4 → BitVec 6 → BitVec 6 → BitVec 3 → Instr) (min size words : Nat) (signed : Bool) (acquire : Option Nat)
    (l : BitVec 4) (d a : BitVec 6) (b : BitVec 3) : GlobalRow :=
  { instr := i l d a b
    code := 11
    uses := { vr := (addrUses b a).1, vw := regRun d.toNat words, gr := (addrUses b a).2 }
    access := { op := .load size signed, dest := .vec d.toNat words, la := l.toNat, acquire := acquire }
    reqs := fun cx => (Bits.lanes cx.sp.mask).map fun l => { lane := l, va := cx.laneAddr b a l }
    align := size
    key := if acquire.isSome then none else some
      { key := BitVec.ofNat 32 (11 * 2 ^ 27 + min * 2 ^ 22 + b.toNat), d := d.toNat, n := words, vr := (addrUses b a).1
        gr := (addrUses b a).2 } }

/-- Word k of lane l of the registers from r, low word first. -/
def Group.laneWords (g : Group) (r n l : Nat) : Nat := ((List.range n).map fun k => (g.vlane (r + k) l).toNat * 2 ^ (32 * k)).sum

/-- The row of a lane store of major 0xC, of the low `size` bytes of vs. -/
def rowStore (i : BitVec 6 → BitVec 6 → BitVec 3 → Instr) (size words : Nat) (release : Option Nat) (v a : BitVec 6) (b : BitVec 3) :
    GlobalRow :=
  { instr := i v a b
    code := 12
    uses := { vr := (addrUses b a).1 ++ regRun v.toNat words, gr := (addrUses b a).2 }
    access := { op := .store size, dest := .none, release := release }
    reqs := fun cx => (Bits.lanes cx.sp.mask).map fun l =>
      { lane := l, va := cx.laneAddr b a l, opA := cx.grp.laneWords v.toNat words l % 2 ^ (8 * size) }
    align := size }

/-- The row of a lane atomic of n words (R307): the address in the pair at 2 × a, the operand in vb, and for a compare and swap the new value
in the registers after it. -/
def rowAtom (i : BitVec 1 → BitVec 4 → BitVec 6 → BitVec 5 → BitVec 1 → BitVec 6 → Instr) (code n : Nat) (cas : Bool) (r : BitVec 1)
    (l : BitVec 4) (d : BitVec 6) (a : BitVec 5) (sc : BitVec 1) (b : BitVec 6) : GlobalRow :=
  let scope := if r = 1 then some (if sc = 1 then 5 else 4) else none
  { instr := i r l d a sc b
    code := 13
    uses := { vr := regRun (2 * a.toNat) 2 ++ regRun b.toNat (if cas then 2 * n else n), vw := regRun d.toNat n }
    access := { op := .atomic code, dest := .vec d.toNat n, la := l.toNat, acquire := scope, release := scope }
    reqs := fun cx => (Bits.lanes cx.sp.mask).map fun l =>
      { lane := l, va := cx.grp.vpair (2 * a.toNat) l, opA := cx.grp.laneWords b.toNat n l
        opB := if cas then cx.grp.laneWords (b.toNat + n) n l else 0 }
    align := 4 * n }

/-- The scope of a uniform access's order nibble, when its bit 3 is set (R95). -/
def uniformScope (o : BitVec 4) : Option Nat := if o.getLsbD 3 then some (o.toNat % 8) else none

/-- The row of a uniform load (R311). -/
def rowGld (i : BitVec 4 → BitVec 6 → BitVec 6 → BitVec 4 → Instr) (size : Nat) (signed : Bool) (l : BitVec 4) (a b : BitVec 6)
    (o : BitVec 4) : GlobalRow :=
  { instr := i l a b o
    code := 26
    uses := { gr := [a.toNat], gw := [b.toNat] }
    access := { op := .load size signed, dest := .grp b.toNat, la := l.toNat, acquire := uniformScope o }
    reqs := fun cx => [{ lane := 0, va := cx.grp.greg a.toNat }]
    align := size }

/-- The row of a uniform store (R312). -/
def rowGst (i : Instr) (code size : Nat) (a b : BitVec 6) (release : Option Nat) : GlobalRow :=
  { instr := i
    code := code
    uses := { gr := [a.toNat, b.toNat] }
    access := { op := .store size, dest := .none, release := release }
    reqs := fun cx => [{ lane := 0, va := cx.grp.greg a.toNat, opA := (cx.grp.greg b.toNat).toNat % 2 ^ (8 * size) }]
    align := size }

/-- The row of a uniform atomic of n bytes (R313). -/
def rowGatom (i : BitVec 4 → BitVec 6 → BitVec 6 → BitVec 4 → Instr) (code n : Nat) (cas : Bool) (l : BitVec 4) (a b : BitVec 6)
    (o : BitVec 4) : GlobalRow :=
  { instr := i l a b o
    code := 26
    uses := { gr := [a.toNat, b.toNat] ++ if cas then [b.toNat + 1] else [], gw := [b.toNat] }
    access := { op := .atomic code, dest := .grp b.toNat, la := l.toNat, acquire := uniformScope o, release := uniformScope o }
    reqs := fun cx =>
      [{ lane := 0, va := cx.grp.greg a.toNat, opA := (cx.grp.greg b.toNat).toNat % 2 ^ (8 * n)
         opB := if cas then (cx.grp.greg (b.toNat + 1)).toNat % 2 ^ (8 * n) else 0 }]
    align := n }

/-- An n-byte value sign-extended to 32 bits. -/
def sext32 (n v : Nat) : Nat := ((BitVec.ofNat (8 * n) v).signExtend 32).toNat

/-- An n-byte value sign-extended to 64 bits. -/
def sext64 (n v : Nat) : Nat := ((BitVec.ofNat (8 * n) v).signExtend 64).toNat

/-- The lane loads (R299, R300), each with its bytes, whether it bypasses L1, and what its destination takes. -/
noncomputable def laneLoads (l : BitVec 4) (d a : BitVec 6) (b : BitVec 3) : List (GlobalRow × Nat × Bool × (Nat → Nat)) :=
  [(rowLoad .ldZb 0 1 1 false none l d a b, 1, false, id), (rowLoad .ldSb 1 1 1 true none l d a b, 1, false, sext32 1)
  , (rowLoad .ldZh 2 2 1 false none l d a b, 2, false, id), (rowLoad .ldSh 3 2 1 true none l d a b, 2, false, sext32 2)
  , (rowLoad .ldW 4 4 1 false none l d a b, 4, false, id), (rowLoad .ldD 5 8 2 false none l d a b, 8, false, id)
  , (rowLoad .ldQ 6 16 4 false none l d a b, 16, false, id)
  , (rowLoad .ldWAcqDev 8 4 1 false (some 4) l d a b, 4, true, id), (rowLoad .ldDAcqDev 9 8 2 false (some 4) l d a b, 8, true, id)
  , (rowLoad .ldWAcqSys 10 4 1 false (some 5) l d a b, 4, true, id), (rowLoad .ldDAcqSys 11 8 2 false (some 5) l d a b, 8, true, id)]

/-- The uniform loads (R311). -/
noncomputable def uniformLoads (l : BitVec 4) (a b : BitVec 6) (o : BitVec 4) : List (GlobalRow × Nat × Bool × (Nat → Nat)) :=
  let bypass := (uniformScope o).any fun sc => decide (3 ≤ sc)
  [(rowGld .gldZb 1 false l a b o, 1, bypass, id), (rowGld .gldSb 1 true l a b o, 1, bypass, sext64 1)
  , (rowGld .gldZh 2 false l a b o, 2, bypass, id), (rowGld .gldSh 2 true l a b o, 2, bypass, sext64 2)
  , (rowGld .gldW 4 false l a b o, 4, bypass, id), (rowGld .gldD 8 false l a b o, 8, bypass, id)]

/-- The lane stores (R302, R303), each with its bytes. -/
noncomputable def laneStores (v a : BitVec 6) (b : BitVec 3) : List (GlobalRow × Nat) :=
  [(rowStore .stB 1 1 none v a b, 1), (rowStore .stH 2 1 none v a b, 2), (rowStore .stW 4 1 none v a b, 4)
  , (rowStore .stD 8 2 none v a b, 8), (rowStore .stQ 16 4 none v a b, 16)
  , (rowStore .stWRelDev 4 1 (some 4) v a b, 4), (rowStore .stDRelDev 8 2 (some 4) v a b, 8)
  , (rowStore .stWRelSys 4 1 (some 5) v a b, 4), (rowStore .stDRelSys 8 2 (some 5) v a b, 8)]

/-- The uniform stores (R312), and QSIG, a word store with a release at system scope (R186). -/
noncomputable def uniformStores (a b : BitVec 6) (o : BitVec 4) : List (GlobalRow × Nat) :=
  [(rowGst (.gstB a b o) 26 1 a b (uniformScope o), 1), (rowGst (.gstH a b o) 26 2 a b (uniformScope o), 2)
  , (rowGst (.gstW a b o) 26 4 a b (uniformScope o), 4), (rowGst (.gstD a b o) 26 8 a b (uniformScope o), 8)
  , (rowGst (.qsig a b) 27 4 a b (some 5), 4)]

/-- A 32-bit operand. -/
def w32 (x : Nat) : BitVec 32 := BitVec.ofNat 32 x

/-- The operations of R308 by name: code (R116), bytes, whether it takes a new value, and the value the location takes from its old value
and the operands, none where it keeps its own. -/
def atomicOps : List (Nat × Nat × Bool × (Nat → Nat → Nat → Option Nat)) :=
  [(0, 4, false, fun old x _ => some ((old + x) % 2 ^ 32)), (1, 4, false, fun old x _ => some (w32 old &&& w32 x).toNat)
  , (2, 4, false, fun old x _ => some (w32 old ||| w32 x).toNat), (3, 4, false, fun old x _ => some (w32 old ^^^ w32 x).toNat)
  , (4, 4, false, fun _ x _ => some x), (5, 4, true, fun old x y => if old = x then some y else none)
  , (6, 4, false, fun old x _ => some (if (w32 old).toInt ≤ (w32 x).toInt then old else x))
  , (7, 4, false, fun old x _ => some (if (w32 x).toInt ≤ (w32 old).toInt then old else x))
  , (8, 4, false, fun old x _ => some (min old x)), (9, 4, false, fun old x _ => some (max old x))
  , (10, 4, false, fun old x _ => some (fp32.add old x).1)
  , (11, 8, false, fun old x _ => some ((old + x) % 2 ^ 64)), (12, 8, false, fun _ x _ => some x)
  , (13, 8, true, fun old x y => if old = x then some y else none)
  , (14, 8, false, fun old x _ => some (min old x)), (15, 8, false, fun old x _ => some (max old x))]

/-- The lane atomics in the order of their codes. -/
noncomputable def laneAtomics : List (BitVec 1 → BitVec 4 → BitVec 6 → BitVec 5 → BitVec 1 → BitVec 6 → Instr) :=
  [.atomAdd, .atomAnd, .atomOr, .atomXor, .atomXchg, .atomCas, .atomMinS, .atomMaxS, .atomMinZ, .atomMaxZ, .atomFadd, .atomAddD
  , .atomXchgD, .atomCasD, .atomMinZD, .atomMaxZD]

/-- The uniform atomics in the order of their codes. -/
noncomputable def uniformAtomics : List (BitVec 4 → BitVec 6 → BitVec 6 → BitVec 4 → Instr) :=
  [.gatomAdd, .gatomAnd, .gatomOr, .gatomXor, .gatomXchg, .gatomCas, .gatomMinS, .gatomMaxS, .gatomMinZ, .gatomMaxZ, .gatomFadd
  , .gatomAddD, .gatomXchgD, .gatomCasD, .gatomMinZD, .gatomMaxZD]

/-- A row of the global loads, stores and atomics of both sets. -/
def GlobalRow.listed (r : GlobalRow) : Prop :=
  (∃ l d a b, ∃ x ∈ laneLoads l d a b, r = x.1) ∨ (∃ l a b o, ∃ x ∈ uniformLoads l a b o, r = x.1)
  ∨ (∃ v a b, ∃ x ∈ laneStores v a b, r = x.1) ∨ (∃ a b o, ∃ x ∈ uniformStores a b o, r = x.1)
  ∨ (∃ rr l d a sc b, ∃ p ∈ laneAtomics.zip atomicOps, r = rowAtom p.1 p.2.1 (p.2.2.1 / 4) p.2.2.2.1 rr l d a sc b)
  ∨ ∃ l a b o, ∃ p ∈ uniformAtomics.zip atomicOps, r = rowGatom p.1 p.2.1 p.2.2.1 p.2.2.2.1 l a b o

/-- The check of one request (R60). -/
def GlobalRow.check (r : GlobalRow) (s : State) (cx : Cx) (q : LaneReq) : Option Cause :=
  match s.checkGlobal cx.core cx.asid cx.sp.firmware q.va.toNat r.access.op.size r.align r.access.op.kind with
  | .ok _ _ _ => none
  | .cause c => some c

/-! ### Scratchpad accesses -/

/-- What the spec says of a scratchpad access: its instruction, its bytes a lane, its address fields, the vector registers with its data, and
the destination run. -/
structure ScratchRow where
  instr : Instr
  size : Nat
  x : BitVec 3
  b : BitVec 3
  a : BitVec 6
  data : List Nat := []
  d : Nat := 0
  n : Nat := 0
  store : Bool := false

/-- What the instruction touches. -/
def ScratchRow.uses (r : ScratchRow) : Uses :=
  { vr := (addrUses r.b r.a).1 ++ r.data, vw := regRun r.d r.n, gr := (addrUses r.b r.a).2, memory := true }

/-- The address that lane l forms (R92). -/
def ScratchRow.va (r : ScratchRow) (cx : Cx) (l : Nat) : DWord :=
  if r.b = 7 then cx.grp.vpair r.a.toNat l else cx.grp.greg r.b.toNat + (cx.grp.vlane r.a.toNat l).zeroExtend 64

/-- Its 32 bits that name a scratchpad byte, after the swizzle (R59, R297). -/
def ScratchRow.addr (r : ScratchRow) (cx : Cx) (l : Nat) : Nat :=
  let v := (r.va cx l).toNat % 2 ^ 32
  if r.x = 0 then v else v ^^^ (v / 2 ^ (r.x.toNat + 6) % 8 * 16)

/-- The check of a lane (R59, R60): the team whose scratchpad holds the bytes and their offset, or a cause. -/
def ScratchRow.check (r : ScratchRow) (s : State) (cx : Cx) (l : Nat) : (Nat × Nat) ⊕ Cause :=
  s.checkScratch cx.uid (r.addr cx l) r.size r.size

/-- The charge (R473). -/
def ScratchRow.charge (r : ScratchRow) (s : State) (cx : Cx) : Nat :=
  (if cx.grp.narrowSources r.uses.vr then (s.weight cx.core 12 + 1) / 2 else s.weight cx.core 12) * Bits.popcount cx.sp.mask

/-- The access executes: every active lane passes its checks, at the team and offset that `place` gives; a store finds room in its group's
store queue, and a load or atomic finds no store of the core to its bytes on its way (R65, R69, R306). -/
structure ScratchRow.Runs (r : ScratchRow) (s : State) (cx : Cx) (place : Nat → Nat × Nat) : Prop where
  wf : wellFormed 64 r.instr = true
  admits : Admits s cx r.uses
  placed : ∀ l ∈ Bits.lanes cx.sp.mask, r.check s cx l = .inl (place l)
  room : r.store = true → cx.grp.storeQ.length < 32
  quiet : r.store = false → ∀ l ∈ Bits.lanes cx.sp.mask, s.inflightMeets cx.core (.scratch (place l).1) (place l).2 r.size = false

/-- The reuse entry that a load hits: loads of the team's own scratchpad alone are candidates, and the key holds the core's scratchpad
generation (R248, R251, R252). -/
def ScratchRow.hit (r : ScratchRow) (min : Nat) (s : State) (cx : Cx) : Option ReuseEntry :=
  let o : LaneOp := { key := BitVec.ofNat 32 (12 * 2 ^ 27 + min * 2 ^ 22 + r.x.toNat * 8 + r.b.toNat), d := r.d, n := r.n
                      vr := (addrUses r.b r.a).1, gr := (addrUses r.b r.a).2 }
  if cx.reuses && (Bits.lanes cx.sp.mask).all (fun l => cx.ownWindow (r.addr cx l)) then
    s.reuseFind cx.quad { o.reuseKey cx cx.sp.mask with generation := some (s.core cx.core).scratchGen }
  else none

/-- A scratchpad load (R299, R305): every active lane of the destination takes the bytes at its place as `ext` extends them; nothing else
changes. A reuse hit takes the entry's registers instead, with no charge (R249). -/
def ScratchRow.Loads (r : ScratchRow) (min : Nat) (ext : Nat → Nat) : Prop :=
  ∀ (s : State) (cx : Cx) (place : Nat → Nat × Nat), r.Runs s cx place →
    (r.hit min s cx = none →
      ∃ t g, exec r.instr s = .next t ∧ RegsOnly s t cx g (r.charge s cx)
        ∧ (∀ k l, k < r.n → l < 32 → g.vlane (r.d + k) l =
            if cx.sp.mask.getLsbD l then
              BitVec.ofNat 32 (ext (Memory.toNat ((List.range r.size).map fun i =>
                s.scratchByte cx.gid (place l).1 ((place l).2 + i))) / 2 ^ (32 * k))
            else cx.grp.vlane (r.d + k) l)
        ∧ cx.grp.KeepsV g r.d r.n ∧ cx.grp.KeepsG g [] ∧ cx.grp.KeepsM g [] ∧ cx.grp.KeepsJ g [] ∧ g.fflags = cx.grp.fflags)
    ∧ ∀ e, r.hit min s cx = some e → e.results.length = r.n →
      (∀ k, k < r.n → ((s.quad cx.quad).pool.look (e.results.getD k 2048)).isSome) →
      ∃ t g, exec r.instr s = .next t ∧ RegsOnly s t cx g 0
        ∧ (∀ k p, k < r.n → (s.quad cx.quad).pool.look (e.results.getD k 2048) = some p → g.vreg (r.d + k) = p.value)
        ∧ cx.grp.KeepsV g r.d r.n ∧ cx.grp.KeepsG g [] ∧ cx.grp.KeepsM g [] ∧ cx.grp.KeepsJ g []

/-- A scratchpad store (R301, R302, R252): one entry at the end of the group's store queue holds each active lane's place and bytes, lowest lane
first; the core's scratchpad generation advances; no byte of a scratchpad or of memory changes yet. -/
def ScratchRow.Stores (r : ScratchRow) (value : Cx → Nat → Nat) : Prop :=
  ∀ (s : State) (cx : Cx) (place : Nat → Nat × Nat), r.Runs s cx place →
    ∃ t g, exec r.instr s = .next t
      ∧ Issued (s.bumpScratch cx.core) t
          { cx with grp := { cx.grp with storeQ := cx.grp.storeQ ++ [{
              pieces := (Bits.lanes cx.sp.mask).map fun l =>
                ({ kind := .scratch (place l).1, addr := (place l).2, bytes := Memory.ofNat r.size (value cx l) } : Piece) }] } }
          g (r.charge s cx) Split.retire
      ∧ cx.grp.KeepsAll g

/-- Scratchpad atomics performed one after the other (R64, R306): team, offset and two operands each; the teams after them, and each old
value. A poisoned word is left alone (R316). -/
def State.scratchRun (s : State) (f : Nat → Nat → Nat → Option Nat) : List (Nat × Nat × Nat × Nat) → State × List Nat
  | [] => (s, [])
  | (u, off, x, y) :: rest =>
    match s.teams.look u with
    | none => s.scratchRun f rest
    | some t =>
      let old := Memory.read t.scratch off 4
      let next :=
        match f old x y with
        | some v => if t.scratchPoisoned off 4 then s else s.modTeam u fun t => t.scratchWrite off (Memory.ofNat 4 v)
        | none => s
      let r := next.scratchRun f rest
      (r.1, old :: r.2)

/-- A scratchpad atomic (R306): the words take what the lanes' operations leave, in ascending lane order, and each active lane of V[d] takes
its old value; the scratchpad generations of the cores that perform it, and of the issuing one, advance (R252). -/
def ScratchRow.Atomics (r : ScratchRow) (f : Nat → Nat → Nat → Option Nat) : Prop :=
  ∀ (s : State) (cx : Cx) (place : Nat → Nat × Nat) (run : State × List Nat), r.Runs s cx place → cx.grp.storeQ = [] →
    run = s.scratchRun f ((Bits.lanes cx.sp.mask).map fun l =>
      ((place l).1, (place l).2, (cx.grp.vlane r.d l).toNat, (cx.grp.vlane (r.d + 1) l).toNat)) →
    ∃ t g, exec r.instr s = .next t
      ∧ Issued (run.1.bumpScratches cx ((Bits.lanes cx.sp.mask).map fun l => (place l).1)) t cx g (r.charge s cx) Split.retire
      ∧ (∀ (k l old : Nat), (Bits.lanes cx.sp.mask)[k]? = some l → run.2[k]? = some old → g.vlane r.d l = BitVec.ofNat 32 old)
      ∧ (∀ l, l < 32 → cx.sp.mask.getLsbD l = false → g.vlane r.d l = cx.grp.vlane r.d l)
      ∧ cx.grp.KeepsV g r.d 1 ∧ cx.grp.KeepsG g [] ∧ cx.grp.KeepsM g [] ∧ cx.grp.KeepsJ g [] ∧ g.fflags = cx.grp.fflags

/-- The row of a scratchpad load of n words a lane. -/
def rowLds (i : BitVec 6 → BitVec 6 → BitVec 3 → BitVec 3 → Instr) (size n : Nat) (d a : BitVec 6) (x b : BitVec 3) : ScratchRow :=
  { instr := i d a x b, size := size, x := x, b := b, a := a, d := d.toNat, n := n }

/-- The row of a scratchpad store of n words a lane. -/
def rowSts (i : BitVec 6 → BitVec 6 → BitVec 3 → BitVec 3 → Instr) (size n : Nat) (v a : BitVec 6) (x b : BitVec 3) : ScratchRow :=
  { instr := i v a x b, size := size, x := x, b := b, a := a, data := regRun v.toNat n, store := true }

/-- The row of a scratchpad atomic that reads n data registers. -/
def rowAts (i : BitVec 6 → BitVec 6 → BitVec 3 → BitVec 3 → Instr) (n : Nat) (d a : BitVec 6) (x b : BitVec 3) : ScratchRow :=
  { instr := i d a x b, size := 4, x := x, b := b, a := a, data := regRun d.toNat n, d := d.toNat, n := 1 }

/-- The scratchpad loads with their minor and what the destination takes. -/
noncomputable def scratchLoads (d a : BitVec 6) (x b : BitVec 3) : List (ScratchRow × Nat × (Nat → Nat)) :=
  [(rowLds .ldsZb 1 1 d a x b, 16, id), (rowLds .ldsSb 1 1 d a x b, 17, sext32 1), (rowLds .ldsZh 2 1 d a x b, 18, id)
  , (rowLds .ldsSh 2 1 d a x b, 19, sext32 2), (rowLds .ldsW 4 1 d a x b, 20, id), (rowLds .ldsD 8 2 d a x b, 21, id)
  , (rowLds .ldsQ 16 4 d a x b, 22, id)]

/-- The scratchpad stores. -/
noncomputable def scratchStores (v a : BitVec 6) (x b : BitVec 3) : List ScratchRow :=
  [rowSts .stsB 1 1 v a x b, rowSts .stsH 2 1 v a x b, rowSts .stsW 4 1 v a x b, rowSts .stsD 8 2 v a x b, rowSts .stsQ 16 4 v a x b]

/-- The scratchpad atomics with the value that the word takes from its old value and the operands. -/
noncomputable def scratchAtomics (d a : BitVec 6) (x b : BitVec 3) : List (ScratchRow × (Nat → Nat → Nat → Option Nat)) :=
  [(rowAts .atsAdd 1 d a x b, fun old x _ => some ((old + x) % 2 ^ 32)), (rowAts .atsXchg 1 d a x b, fun _ x _ => some x)
  , (rowAts .atsCas 2 d a x b, fun old x y => if old = x then some y else none)]

/-! ### Replies -/

/-- Of a group's splits, those with a TAG no longer wait for a sluice tag: its window is closed, and a split parked on nothing else is READY
(R205, R215, R216). -/
def Split.answered (tag : Nat) (sp : Split) : Split :=
  { sp with
    windows := sp.windows.filter fun w => w.tag != tag
    parkOn := sp.parkOn.filter fun t => t != tag
    state := if sp.state = .parked ∧ (∀ t ∈ sp.parkOn, t = tag) ∧ sp.pendingTrap = none then .ready else sp.state }

/-- Store pieces performed in memory and in scratchpads, in order (R64). -/
def State.perform (s : State) : List Piece → State
  | [] => s
  | p :: rest =>
    State.perform (match p.kind with
      | .global => s.physWrite p.addr p.bytes
      | .scratch u => s.modTeam u fun t => t.scratchWrite p.addr p.bytes) rest

/-! ### Waits -/

/-- The split waits (R205); one that goes back to its wait, having only looked again, has waited in it all along (R482). -/
def Split.waits (w : Wait) (sp : Split) : Split :=
  { sp with state := .waiting, wait := some w, waitPulses := if sp.wait = some w then sp.waitPulses else 0, idle := 0, windows := [] }

/-- Between two states, of the groups' registers and splits only splits in a wait that a test names have changed. -/
def State.WakesOnly (s t : State) (p : Wait → Prop) : Prop :=
  ∀ (gid : Nat) (g : Group), s.groups.look gid = some g → ∃ g', t.groups.look gid = some g' ∧ g.KeepsAll g' ∧ g'.team = g.team
    ∧ g'.index = g.index ∧ g'.storeQ = g.storeQ
    ∧ ∀ k sp, g.res.look k = some sp → (¬ ∃ w, sp.state = .waiting ∧ sp.wait = some w ∧ p w) → g'.res.look k = some sp

/-- The waits that a test names end (R205): in every group of a team that is on its core their splits are READY past the wait; other splits and
all registers are as they were. -/
def State.Releases (s t : State) (p : Wait → Prop) : Prop :=
  ∀ (gid : Nat) (g : Group) (tm : Team), s.groups.look gid = some g → s.teams.look g.team = some tm → tm.state = .resident →
    ∃ g', t.groups.look gid = some g' ∧ g.KeepsAll g'
      ∧ ∀ k sp, g.res.look k = some sp →
          ((∃ w, sp.state = .waiting ∧ sp.wait = some w ∧ p w) →
            g'.res.look k = some { sp with
              state := .ready, pc := sp.pc + 4, nr := false, wait := none, waitPulses := 0, idle := 0, readySlots := 0 })
          ∧ ((¬ ∃ w, sp.state = .waiting ∧ sp.wait = some w ∧ p w) → g'.res.look k = some sp)

/-- The memory, contexts, teams, page requests and reports of two states are the same: only groups, cores and quadrants may differ. -/
def State.OnlyGroups (s t : State) : Prop := t = { s with groups := t.groups, cores := t.cores, quads := t.quads }

/-! ### Writes of the part itself, and the mailbox -/

/-- Between two states, memory has taken bytes at a physical address: they read back, and every byte outside them reads as before. -/
def State.Stored (s t : State) (pa : Nat) (bs : List Byte) : Prop :=
  Memory.wf s.mem = true → bs.length ≤ 65536 →
    t.physBytes pa bs.length = bs ∧ ∀ a, (∀ k < bs.length, s.redirect a ≠ s.redirect (pa + k)) → t.physByte a = s.physByte a

/-- The queues are those of a map, but for writes to their tail words that the part has yet to look at (R175). -/
def State.QueuesAre (t : State) (m : Map Queue) : Prop :=
  let bare := fun (m : Map Queue) => m.map fun p => (p.1, { p.2 with tailHit := false })
  bare t.queues = bare m

/-- An access of the part itself passes the checks of R60 and comes to a physical address that it can read and write itself. -/
def State.Maps (s : State) (asid va n align : Nat) (k : AccessKind) (pa : Nat) (who : Accessor := .system) : Prop :=
  (∃ pte bits, s.checkSystem asid va n align k = .ok pa pte bits) ∧ s.Reaches who pa n

/-- The mailbox takes a command (R24, R485, R487): the part is not held in reset, no background operation runs, and the payload has its fields
and zeros elsewhere. -/
def State.Receives (s : State) (p : List Byte) (fields : List (Nat × Nat)) : Prop :=
  s.inReset = false ∧ s.mailbox.background = none ∧ payloadOk p fields = true

/-- Registers of every group, and which groups there are, are as they were. -/
def State.KeepsGroups (s t : State) : Prop :=
  ∀ gid g, s.groups.look gid = some g → ∃ g', t.groups.look gid = some g' ∧ g.KeepsAll g' ∧ g'.team = g.team ∧ g'.index = g.index

/-- An engine's access of n bytes inside one 64 KiB page comes to a physical address of this device or the host that it reaches (R411,
R417, R453). -/
def State.EngineMaps (s : State) (asid va n : Nat) (write : Bool) (pa : Nat) : Prop :=
  0 < n ∧ va / 65536 = (va + n - 1) / 65536 ∧ s.engineXlateAt none asid va write false = .ok pa ∧ (∀ d, s.rangeKind pa ≠ .peer d)
    ∧ s.Reaches .system pa n

/-! ### Invariants -/

/-- The maps whose entries the part names by number are kept with strictly rising keys. -/
def State.Ordered (s : State) : Prop :=
  Map.sorted s.groups = true ∧ Map.sorted s.teams = true ∧ Map.sorted s.queues = true ∧ ∀ p ∈ s.groups, Map.sorted p.2.res = true

/-- Of a group's splits, resident and stacked, the TAGs are unique, the masks are disjoint, their union holds every lane that has not exited,
and none is empty; the resident ones are at indices 0 to 3 (R204). -/
structure Group.SplitsApart (g : Group) : Prop where
  tags : (g.splits.map Split.tag).Nodup
  apart : g.splits.Pairwise fun x y => x.mask &&& y.mask = 0
  held : ∀ sp ∈ g.splits, sp.mask ≠ 0
  union : ∀ l < 32, g.exited.getLsbD l = false ↔ ∃ sp ∈ g.splits, sp.mask.getLsbD l = true
  indices : ∀ p ∈ g.res, p.1 < 4

end Sys2Proof.Machine
end

