-- ==== Sys2Proof/Certificates/Slice0/Obligations.lean ====
section
/-! DEFINITION. The statements about the model. -/

open Sys2Proof Sys2Proof.Machine

/-! ### Lane-set instructions -/

/-- R259: the integer arithmetic of lane major 0x0 writes, in every active lane of the destination, the sum, difference, product, high
product, saturating sum or difference, minimum, maximum, absolute value, negation or wide result of its operands, and changes
nothing else but the pc, the account and the register names. No flag is raised.

R260, R243: the logic, shift and bit instructions of lane major 0x1, and MOV, compute in every active lane; a 32-bit shift
counts by bits [4:0] of b, a 64-bit one by bits [5:0]. MOV is not a reuse candidate.

R264 to R267: the LI and LK rows compute in every active lane from a, the immediate in the word, the lane number, and for BFI,
LDIH and ADDIH the old destination.

R263, R282, R262: the fused rows of lane majors 0x6 and 0x7, the selects and M2V compute in every active lane; a fused
floating-point row rounds once and raises its flags. -/
def Obligations.LaneIntegerResults : Prop :=
  (
  (∀ r ∈
    [rowWords .iadd 0 0 fun x y => (x + y, 0), rowWords .isub 0 1 fun x y => (x - y, 0), rowWords .imul 0 2 fun x y => (x * y, 0)
    , rowWords .imulhS 0 3 fun x y => (BitVec.ofInt 32 (x.toInt * y.toInt / 2 ^ 32), 0)
    , rowWords .imulhZ 0 4 fun x y => (BitVec.ofNat 32 (x.toNat * y.toNat / 2 ^ 32), 0)
    , rowWords .iaddSatS 0 5 fun x y => (BitVec.ofInt 32 (min (max (x.toInt + y.toInt) (-(2 ^ 31))) (2 ^ 31 - 1)), 0)
    , rowWords .iaddSatZ 0 6 fun x y => (BitVec.ofNat 32 (min (x.toNat + y.toNat) (2 ^ 32 - 1)), 0)
    , rowWords .isubSatS 0 7 fun x y => (BitVec.ofInt 32 (min (max (x.toInt - y.toInt) (-(2 ^ 31))) (2 ^ 31 - 1)), 0)
    , rowWords .isubSatZ 0 8 fun x y => (BitVec.ofNat 32 (x.toNat - y.toNat), 0)
    , rowWords .iminS 0 9 fun x y => (if x.sle y then x else y, 0), rowWords .iminZ 0 10 fun x y => (if x.ule y then x else y, 0)
    , rowWords .imaxS 0 11 fun x y => (if y.sle x then x else y, 0), rowWords .imaxZ 0 12 fun x y => (if y.ule x then x else y, 0)],
    ∀ g d a b, (r g d a b).Executes)
  ∧ (∀ r ∈ [rowWord .iabs 0 13 fun x => (if x.msb then 0 - x else x, 0), rowWord .ineg 0 14 fun x => (0 - x, 0)],
    ∀ g d a, (r g d a).Executes)
  ∧ (∀ r ∈
    [rowPairs .iadd64 0 16 fun x y => (x + y, 0), rowPairWord .iadd64S 0 17 fun x y => x + y.signExtend 64
    , rowPairWord .iadd64Z 0 18 fun x y => x + y.zeroExtend 64, rowPairs .isub64 0 19 fun x y => (x - y, 0)
    , rowPairOfWords .imulwS 0 20 fun x y => x.signExtend 64 * y.signExtend 64
    , rowPairOfWords .imulwZ 0 21 fun x y => x.zeroExtend 64 * y.zeroExtend 64],
    ∀ g d a b, (r g d a b).Executes))
  ∧ (
  (∀ r ∈
    [rowWords .and 1 0 fun x y => (x &&& y, 0), rowWords .or 1 1 fun x y => (x ||| y, 0), rowWords .xor 1 2 fun x y => (x ^^^ y, 0)
    , rowWords .andn 1 3 fun x y => (x &&& ~~~ y, 0), rowWords .shl 1 5 fun x y => (x <<< (y.toNat % 32), 0)
    , rowWords .shr 1 6 fun x y => (x >>> (y.toNat % 32), 0), rowWords .sar 1 7 fun x y => (x.sshiftRight (y.toNat % 32), 0)
    , rowWords .rol 1 8 fun x y => (x <<< (y.toNat % 32) ||| x >>> (32 - y.toNat % 32), 0)
    , rowPairWord .shl64 1 12 fun x y => x <<< (y.toNat % 64), rowPairWord .shr64 1 13 fun x y => x >>> (y.toNat % 64)
    , rowPairWord .sar64 1 14 fun x y => x.sshiftRight (y.toNat % 64)],
    ∀ g d a b, (r g d a b).Executes)
  ∧ (∀ r ∈
    [rowWord .not 1 4 fun x => (~~~ x, 0), rowWord .popc 1 9 fun x => (BitVec.ofNat 32 (Bits.popcount x), 0)
    , rowWord .clz 1 10 fun x => (BitVec.ofNat 32 (Bits.clz x), 0), rowWord .brev 1 11 fun x => (x.reverse, 0)],
    ∀ g d a, (r g d a).Executes)
  ∧ ∀ g d a, LaneRow.Executes (.each (.mov g d a) { opLR 1 15 g d.toNat 1 a.toNat 1 0 0 with candidate := false } 18 0 fun cx l =>
      asWord (cx.grp.vlane a.toNat l, 0)))
  ∧ (
  (∀ (g : BitVec 3) (d a : BitVec 6) (i : BitVec 8),
    LaneRow.Executes (rowImm (.iaddImm g d a i) 8 0 i.toNat [] g d a fun _ _ x => x + i.signExtend 32)
    ∧ LaneRow.Executes (rowImm (.imulImm g d a i) 8 1 i.toNat [] g d a fun _ _ x => x * i.signExtend 32)
    ∧ LaneRow.Executes (rowImm (.andImm g d a i) 8 2 i.toNat [] g d a fun _ _ x => x &&& i.zeroExtend 32)
    ∧ LaneRow.Executes (rowImm (.orImm g d a i) 8 3 i.toNat [] g d a fun _ _ x => x ||| i.zeroExtend 32)
    ∧ LaneRow.Executes (rowImm (.xorImm g d a i) 8 4 i.toNat [] g d a fun _ _ x => x ^^^ i.zeroExtend 32)
    ∧ LaneRow.Executes (rowImm (.lseq g d a i) 9 3 i.toNat [] g d a fun _ l x => x + BitVec.ofNat 32 l * i.signExtend 32))
  ∧ (∀ (g : BitVec 3) (d a : BitVec 6) (i : BitVec 5),
    LaneRow.Executes (rowImm (.shlImm g d a i) 8 5 i.toNat [] g d a fun _ _ x => x <<< i.toNat)
    ∧ LaneRow.Executes (rowImm (.shrImm g d a i) 8 6 i.toNat [] g d a fun _ _ x => x >>> i.toNat)
    ∧ LaneRow.Executes (rowImm (.sarImm g d a i) 8 7 i.toNat [] g d a fun _ _ x => x.sshiftRight i.toNat))
  ∧ (∀ (g : BitVec 3) (d a : BitVec 6) (n : BitVec 3) (p : BitVec 5),
    LaneRow.Executes (rowImm (.bfxZ g d a n p) 9 0 (n.toNat * 32 + p.toNat) [] g d a fun _ _ x =>
      BitVec.ofNat 32 (x.toNat / 2 ^ p.toNat % 2 ^ (4 * (n.toNat + 1))))
    ∧ LaneRow.Executes (rowImm (.bfxS g d a n p) 9 1 (n.toNat * 32 + p.toNat) [] g d a fun _ _ x =>
      (BitVec.ofNat (4 * (n.toNat + 1)) (x.toNat / 2 ^ p.toNat % 2 ^ (4 * (n.toNat + 1)))).signExtend 32)
    ∧ LaneRow.Executes (rowImm (.bfi g d a n p) 9 2 (n.toNat * 32 + p.toNat) [d.toNat] g d a fun cx l x =>
      (cx.grp.vlane d.toNat l &&& ~~~ BitVec.ofNat 32 ((2 ^ (4 * (n.toNat + 1)) - 1) * 2 ^ p.toNat))
        ||| ((x <<< p.toNat) &&& BitVec.ofNat 32 ((2 ^ (4 * (n.toNat + 1)) - 1) * 2 ^ p.toNat))))
  ∧ ∀ (g : BitVec 3) (d : BitVec 6) (i : BitVec 16),
    LaneRow.Executes (rowK (.ldi g d i) 0 [] g d i fun _ => i.signExtend 32)
    ∧ LaneRow.Executes (rowK (.ldih g d i) 1 [d.toNat] g d i fun x => i ++ x.setWidth 16)
    ∧ LaneRow.Executes (rowK (.addih g d i) 2 [d.toNat] g d i fun x => x + (i ++ (0 : BitVec 16))))
  ∧ (
  (∀ r ∈
    [rowWords3 .ffma 6 0 fun x y z => toW (fp32.fma false false x.toNat y.toNat z.toNat)
    , rowWords3 .ffms 6 1 fun x y z => toW (fp32.fma false true x.toNat y.toNat z.toNat)
    , rowWords3 .fnma 6 2 fun x y z => toW (fp32.fma true false x.toNat y.toNat z.toNat)
    , rowWords3 .ffmaH2 6 3 (fma2 fp16), rowWords3 .ffmaB2 6 4 (fma2 bf16)
    , rowPairs3 .dfma 6 5 fun x y z => toD (fp64.fma false false x.toNat y.toNat z.toNat)
    , rowPairs3 .dfms 6 6 fun x y z => toD (fp64.fma false true x.toNat y.toNat z.toNat)
    , rowPairs3 .dfnma 6 7 fun x y z => toD (fp64.fma true false x.toNat y.toNat z.toNat)
    , rowWords3 .imad 7 0 fun x y z => (x * y + z, 0)
    , rowWordsPair .imadwS 7 1 fun x y z => x.signExtend 64 * y.signExtend 64 + z
    , rowWordsPair .imadwZ 7 2 fun x y z => x.zeroExtend 64 * y.zeroExtend 64 + z],
    ∀ d a b c, (r d a b c).Executes)
  ∧ (∀ (d a b : BitVec 6) (k : BitVec 3),
    LaneRow.Executes (.each (.sel d a b k) { opLF 7 3 d.toNat 1 a.toNat 1 b.toNat 1 0 0 with mr := [k.toNat] } 24 0 fun cx l =>
      asWord (if (cx.grp.mreg cx.sp k.toNat).getLsbD l then cx.grp.vlane a.toNat l else cx.grp.vlane b.toNat l, 0))
    ∧ LaneRow.Executes (.each (.sel64 d a b k) { opLF 7 4 d.toNat 2 a.toNat 2 b.toNat 2 0 0 with mr := [k.toNat] } 24 0 fun cx l =>
      asPair (if (cx.grp.mreg cx.sp k.toNat).getLsbD l then cx.grp.vpair a.toNat l else cx.grp.vpair b.toNat l, 0)))
  ∧ ∀ (g : BitVec 3) (d : BitVec 6) (k : BitVec 3),
    LaneRow.Executes (.each (.m2v g d k) { key := keyLR 2 33 g, guard := g.toNat, d := d.toNat, vr := [], mr := [k.toNat] } 18 0 fun cx l =>
      asWord (if (cx.grp.mreg cx.sp k.toNat).getLsbD l then 1 else 0, 0)))

/-- R278, R280, R281: the FP32, packed FP16, packed BF16 and FP64 arithmetic of lane majors 0x3 and 0x4 computes in every active lane
and ORs the flags of the active lanes into $fflags.

R53, R54, R284 to R286: the transcendental functions and the conversions of lane majors 0x4 and 0x5 compute in every active lane
and OR the flags of the active lanes into $fflags. -/
def Obligations.LaneFloatResults : Prop :=
  (
  (∀ r ∈
    [rowWords .fadd 3 0 fun x y => toW (fp32.add x.toNat y.toNat), rowWords .fsub 3 1 fun x y => toW (fp32.sub x.toNat y.toNat)
    , rowWords .fmul 3 2 fun x y => toW (fp32.mul x.toNat y.toNat), rowWords .fmin 3 3 fun x y => toW (fp32.minMax false x.toNat y.toNat)
    , rowWords .fmax 3 4 fun x y => toW (fp32.minMax true x.toNat y.toNat)
    , rowWords .faddH2 3 8 (packed fp16.add), rowWords .fsubH2 3 9 (packed fp16.sub), rowWords .fmulH2 3 10 (packed fp16.mul)
    , rowWords .fminH2 3 11 (packed (fp16.minMax false)), rowWords .fmaxH2 3 12 (packed (fp16.minMax true))
    , rowWords .faddB2 3 16 (packed bf16.add), rowWords .fsubB2 3 17 (packed bf16.sub), rowWords .fmulB2 3 18 (packed bf16.mul)
    , rowWords .fminB2 3 19 (packed (bf16.minMax false)), rowWords .fmaxB2 3 20 (packed (bf16.minMax true))
    , rowPairs .dadd 4 0 fun x y => toD (fp64.add x.toNat y.toNat), rowPairs .dsub 4 1 fun x y => toD (fp64.sub x.toNat y.toNat)
    , rowPairs .dmul 4 2 fun x y => toD (fp64.mul x.toNat y.toNat), rowPairs .dmin 4 3 fun x y => toD (fp64.minMax false x.toNat y.toNat)
    , rowPairs .dmax 4 4 fun x y => toD (fp64.minMax true x.toNat y.toNat)],
    ∀ g d a b, (r g d a b).Executes)
  ∧ ∀ r ∈
    [rowWord .fabs 3 5 fun x => toW (fp32.signOp false x.toNat), rowWord .fneg 3 6 fun x => toW (fp32.signOp true x.toNat)
    , rowPair .dabs 4 5 fun x => toD (fp64.signOp false x.toNat), rowPair .dneg 4 6 fun x => toD (fp64.signOp true x.toNat)],
    ∀ g d a, (r g d a).Executes)
  ∧ (
  (∀ r ∈
    [rowWord .frcp 4 16 Transc.rcp.apply, rowWord .frsq 4 17 Transc.rsq.apply, rowWord .fexp2 4 18 Transc.exp2.apply
    , rowWord .flog2 4 19 Transc.log2.apply, rowWord .fsin 4 20 Transc.sin.apply, rowWord .fcos 4 21 Transc.cos.apply
    , rowWord .frcpH2 4 24 fun x => pack2 (Transc.rcp.applyH (half x false)) (Transc.rcp.applyH (half x true))
    , rowWord .frsqH2 4 25 fun x => pack2 (Transc.rsq.applyH (half x false)) (Transc.rsq.applyH (half x true))
    , rowWord .fexp2H2 4 26 fun x => pack2 (Transc.exp2.applyH (half x false)) (Transc.exp2.applyH (half x true))
    , rowWord .flog2H2 4 27 fun x => pack2 (Transc.log2.applyH (half x false)) (Transc.log2.applyH (half x true))
    , rowWord .i2fS 5 0 fun x => toW (fp32.ofInt x.toInt), rowWord .i2fZ 5 1 fun x => toW (fp32.ofInt x.toNat)
    , rowWord .f2iS 5 2 fun x => fp32.toInt32 true false x.toNat, rowWord .f2iSTz 5 3 fun x => fp32.toInt32 true true x.toNat
    , rowWord .f2iZ 5 4 fun x => fp32.toInt32 false false x.toNat, rowWord .f2iZTz 5 5 fun x => fp32.toInt32 false true x.toNat
    , rowPairOfWord .i2dS 5 6 fun x => toD (fp64.ofInt x.toInt), rowPairOfWord .i2dZ 5 7 fun x => toD (fp64.ofInt x.toNat)
    , rowWordOfPair .d2iS 5 8 fun x => fp64.toInt32 true false x.toNat, rowWordOfPair .d2iSTz 5 9 fun x => fp64.toInt32 true true x.toNat
    , rowWordOfPair .d2iZ 5 10 fun x => fp64.toInt32 false false x.toNat, rowWordOfPair .d2iZTz 5 11 fun x => fp64.toInt32 false true x.toNat
    , rowPairOfWord .f2d 5 12 fun x => toD (fp32.convert fp64 x.toNat), rowWordOfPair .d2f 5 13 fun x => toW (fp64.convert fp32 x.toNat)
    , rowWord .h2fLo 5 15 fun x => toW (fp16.convert fp32 (half x false)), rowWord .h2fHi 5 16 fun x => toW (fp16.convert fp32 (half x true))
    , rowWord .b2fLo 5 18 fun x => toW (bf16.convert fp32 (half x false)), rowWord .b2fHi 5 19 fun x => toW (bf16.convert fp32 (half x true))],
    ∀ g d a, (r g d a).Executes)
  ∧ ∀ r ∈
    [rowWords .f2h2 5 14 fun x y => pack2 (fp32.convert fp16 x.toNat) (fp32.convert fp16 y.toNat)
    , rowWords .f2b2 5 17 fun x y => pack2 (fp32.convert bf16 x.toNat) (fp32.convert bf16 y.toNat)],
    ∀ g d a b, (r g d a b).Executes)

/-- R261, R264, R283, R262: a compare, and V2M, sets the bit of every active lane in its mask register by its relation, keeps the bits
of the other lanes and every other register, and ORs in the flags. An unordered FP compare is false but for .ne and .nan. -/
def Obligations.LaneCompareResults : Prop :=
  (∀ r ∈
    [cmpWords .icmpEq fun x y => (x == y, 0), cmpWords .icmpNe fun x y => (x != y, 0), cmpWords .icmpLtS fun x y => (x.slt y, 0)
    , cmpWords .icmpLeS fun x y => (x.sle y, 0), cmpWords .icmpGtS fun x y => (y.slt x, 0), cmpWords .icmpGeS fun x y => (y.sle x, 0)
    , cmpWords .icmpLtZ fun x y => (x.ult y, 0), cmpWords .icmpLeZ fun x y => (x.ule y, 0), cmpWords .icmpGtZ fun x y => (y.ult x, 0)
    , cmpWords .icmpGeZ fun x y => (y.ule x, 0)
    , cmpWords .fcmpEq fun x y => fp32.compare .eq x.toNat y.toNat, cmpWords .fcmpNe fun x y => fp32.compare .ne x.toNat y.toNat
    , cmpWords .fcmpLt fun x y => fp32.compare .lt x.toNat y.toNat, cmpWords .fcmpLe fun x y => fp32.compare .le x.toNat y.toNat
    , cmpWords .fcmpGt fun x y => fp32.compare .gt x.toNat y.toNat, cmpWords .fcmpGe fun x y => fp32.compare .ge x.toNat y.toNat
    , cmpWords .fcmpNan fun x y => fp32.compare .nan x.toNat y.toNat
    , cmpPairs .dcmpEq fun x y => fp64.compare .eq x.toNat y.toNat, cmpPairs .dcmpNe fun x y => fp64.compare .ne x.toNat y.toNat
    , cmpPairs .dcmpLt fun x y => fp64.compare .lt x.toNat y.toNat, cmpPairs .dcmpLe fun x y => fp64.compare .le x.toNat y.toNat
    , cmpPairs .dcmpGt fun x y => fp64.compare .gt x.toNat y.toNat, cmpPairs .dcmpGe fun x y => fp64.compare .ge x.toNat y.toNat
    , cmpPairs .dcmpNan fun x y => fp64.compare .nan x.toNat y.toNat],
    ∀ g k a b, (r g k a b).Computes)
  ∧ (∀ r ∈
    [cmpImm .icmpEqImm fun x i => x == i.signExtend 32, cmpImm .icmpNeImm fun x i => x != i.signExtend 32
    , cmpImm .icmpLtSImm fun x i => x.slt (i.signExtend 32), cmpImm .icmpGtSImm fun x i => (i.signExtend 32).slt x
    , cmpImm .icmpLtZImm fun x i => x.ult (i.zeroExtend 32), cmpImm .icmpGtZImm fun x i => (i.zeroExtend 32).ult x],
    ∀ g k a i, (r g k a i).Computes)
  ∧ ∀ g k a, LaneMaskRow.Computes
      { instr := .v2m g k a, code := 2, guard := g.toNat, k := k.toNat, vr := [a.toNat], value := fun cx l => (cx.grp.vlane a.toNat l != 0, 0) }

/-- R292 to R295, R51, R52, R232: in an exchange each active lane takes the word of its source lane, or its own when there is none; a
reduction gives every active lane the root of the fixed tree over the active lanes; a scan gives each active lane the tree over the
active lanes up to it (inclusive) or before it (exclusive, the identity when there is none); a match gives the active lanes of an
equal key. -/
def Obligations.LaneExchangeResults : Prop :=
  (∀ (d a : BitVec 6) (c : BitVec 5),
    LaneRow.Executes (rowX (.xlnBack d a c) 0 c.toNat 1 [] d a fun cx _ =>
      (fun l => word1 (cx.grp.vlane a.toNat (if c.toNat ≤ l then l - c.toNat else l)), 0))
    ∧ LaneRow.Executes (rowX (.xlnAhead d a c) 1 c.toNat 1 [] d a fun cx _ =>
      (fun l => word1 (cx.grp.vlane a.toNat (if l + c.toNat < 32 then l + c.toNat else l)), 0))
    ∧ LaneRow.Executes (rowX (.xlnRot d a c) 2 c.toNat 1 [] d a fun cx _ => (fun l => word1 (cx.grp.vlane a.toNat ((l + c.toNat) % 32)), 0))
    ∧ LaneRow.Executes (rowX (.xlnFlip d a c) 3 c.toNat 1 [] d a fun cx _ => (fun l => word1 (cx.grp.vlane a.toNat (l ^^^ c.toNat)), 0))
    ∧ LaneRow.Executes (rowX (.xlnPick d a c) 4 c.toNat 1 [] d a fun cx _ => (fun _ => word1 (cx.grp.vlane a.toNat c.toNat), 0)))
  ∧ (∀ d a : BitVec 6, LaneRow.Executes (rowX (.xlnVar d a) 5 0 1 [d.toNat] d a fun cx _ =>
      (fun l => word1 (cx.grp.vlane a.toNat ((cx.grp.vlane d.toNat l).toNat % 32)), 0)))
  ∧ (∀ r ∈
    [(8, Instr.redsIadd, 1, redIadd), (9, .redsIminS, 1, redIminS), (10, .redsImaxS, 1, redImaxS), (11, .redsIminZ, 1, redIminZ)
    , (12, .redsImaxZ, 1, redImaxZ), (13, .redsAnd, 1, redAnd), (14, .redsOr, 1, redOr), (15, .redsXor, 1, redXor)
    , (16, .redsFadd, 1, redFadd), (17, .redsFmin, 1, redFmin), (18, .redsFmax, 1, redFmax), (19, .redsDadd, 2, redDadd)],
    ∀ d a, LaneRow.Executes (rowX (r.2.1 d a) r.1 0 r.2.2.1 [] d a fun cx active =>
      (fun _ => word2 ((r.2.2.2.over active (cx.element r.2.2.1 a.toNat)).1.getD 0),
        (r.2.2.2.over active (cx.element r.2.2.1 a.toNat)).2)))
  ∧ (∀ r ∈
    [(32, Instr.scanIadd, 1, redIadd), (33, .scanIminS, 1, redIminS), (34, .scanImaxS, 1, redImaxS), (35, .scanIminZ, 1, redIminZ)
    , (36, .scanImaxZ, 1, redImaxZ), (37, .scanAnd, 1, redAnd), (38, .scanOr, 1, redOr), (39, .scanXor, 1, redXor)
    , (40, .scanFadd, 1, redFadd), (41, .scanFmin, 1, redFmin), (42, .scanFmax, 1, redFmax), (43, .scanDadd, 2, redDadd)],
    ∀ d a e, LaneRow.Executes (rowX (r.2.1 d a e) r.1 e.toNat r.2.2.1 [] d a fun cx active =>
      (fun l => word2 ((r.2.2.2.over (active &&& lanesBelow (if e = 1 then l else l + 1)) (cx.element r.2.2.1 a.toNat)).1.getD r.2.2.2.identity),
        orFlags active fun l => (r.2.2.2.over (active &&& lanesBelow (if e = 1 then l else l + 1)) (cx.element r.2.2.1 a.toNat)).2)))
  ∧ ∀ d a : BitVec 6,
    LaneRow.Executes (rowMatch (.matchWord d a) 16 1 d a) ∧ LaneRow.Executes (rowMatch (.matchPair d a) 17 2 d a)

/-- R287, R289 to R291: a narrow conversion under a slot that it accepts computes in every active lane; under any other slot it raises
FORMAT_SLOT for the split's lanes and does nothing else, but for the lookup of a reuse candidate, which counts (R249, R255). -/
def Obligations.LaneNarrowResults : Prop :=
  ∀ (g : BitVec 3) (d a : BitVec 6) (k : BitVec 3),
    (∀ r ∈
      [rowNarrow (.nscale g d a k) 32 [] g d a k fun n micro cx active =>
        (fun l => word1 (BitVec.ofNat 32 ((cx.blockScale n micro active a.toNat (if l < 16 then 0 else 1)).2 * 2 ^ 24
            + (cx.blockScale n micro active a.toNat (if l < 16 then 0 else 1)).1 * 2 ^ 16)),
          orFlags active fun l => nvIf (cx.num a.toNat l).snan)
      , rowNarrow (.npack g d a k) 33 [d.toNat] g d a k fun n micro cx active =>
        (fun l => word1 (BitVec.ofNat 32 (packUnder n micro l (cx.grp.vlane d.toNat l).toNat (cx.num a.toNat l)).1),
          orFlags active fun l => (packUnder n micro l (cx.grp.vlane d.toNat l).toNat (cx.num a.toNat l)).2)
      , rowNarrow (.nunpk g d a k) 34 [] g d a k fun n micro cx active =>
        (fun l => word1 (BitVec.ofNat 32 (unpackElement n micro l (cx.grp.vlane a.toNat l).toNat).1),
          orFlags active fun l => (unpackElement n micro l (cx.grp.vlane a.toNat l).toNat).2)],
      r.Keyed ∧ (∀ cx, slotNarrow (cx.slotWord k.toNat) ≠ none → r.ComputesAt cx ∧ r.HitsAt cx)
      ∧ ∀ s cx, slotNarrow (cx.slotWord k.toNat) = none → Admits s cx r.op.uses →
          exec r.instr s = .next ((if cx.reuses = true then s.countLookup cx.quad else s).trapAll cx .formatSlot))

/-! ### Group-set instructions -/

/-- R268 to R271: the group-set arithmetic, logic and bit instructions write the g register with the low n bits of the result at the width
n of w, extended as w states, and change nothing else but the pc and the account.

R273 to R275, R244, R245, R231: the GI rows, the quarter-word rows, the selecting and moving rows and the counts of a mask write one
g register and change nothing else but the pc and the account. -/
def Obligations.GroupIntegerResults : Prop :=
  (
  (∀ r ∈
    [rowG2 .gadd 16 fun w x y => extendW w (lowW w x + lowW w y)
    , rowG2 .gsub 16 fun w x y => extendW w (2 ^ widthOf w + lowW w x - lowW w y)
    , rowG2 .gmul 16 fun w x y => extendW w (lowW w x * lowW w y)
    , rowG2 .gmulhS 16 fun w x y => extendW w (highBits (widthOf w) (signedW w x * signedW w y))
    , rowG2 .gmulhZ 16 fun w x y => extendW w (highBits (widthOf w) (lowW w x * lowW w y))
    , rowG2 .gminS 16 fun w x y => extendW w (if signedW w x ≤ signedW w y then lowW w x else lowW w y)
    , rowG2 .gmaxS 16 fun w x y => extendW w (if signedW w y ≤ signedW w x then lowW w x else lowW w y)
    , rowG2 .gminZ 16 fun w x y => extendW w (min (lowW w x) (lowW w y))
    , rowG2 .gmaxZ 16 fun w x y => extendW w (max (lowW w x) (lowW w y))
    , rowG2 .gand 17 fun w x y => extendW w (x &&& y).toNat, rowG2 .gor 17 fun w x y => extendW w (x ||| y).toNat
    , rowG2 .gxor 17 fun w x y => extendW w (x ^^^ y).toNat, rowG2 .gandn 17 fun w x y => extendW w (x &&& ~~~ y).toNat
    , rowG2 .gshl 17 fun w x y => extendW w (lowW w x * 2 ^ (y.toNat % 64))
    , rowG2 .gshr 17 fun w x y => extendW w (lowW w x / 2 ^ (y.toNat % 64))
    , rowG2 .gsar 17 fun w x y => extendW w (sarW w x (y.toNat % 64))],
    ∀ w d a b, (r w d a b).Computes)
  ∧ ∀ r ∈
    [rowG1 .gneg 16 fun w x => extendW w (2 ^ widthOf w - lowW w x), rowG1 .gnot 17 fun w x => extendW w (~~~ x).toNat
    , rowG1 .gpopc 17 fun w x => extendW w (Bits.popcount (BitVec.ofNat (widthOf w) x.toNat))
    , rowG1 .gclz 17 fun w x => extendW w (Bits.clz (BitVec.ofNat (widthOf w) x.toNat))
    , rowG1 .gbrev 17 fun w x => extendW w (BitVec.ofNat (widthOf w) x.toNat).reverse.toNat],
    ∀ w d a, (r w d a).Computes)
  ∧ (
  (∀ r ∈
    [rowGI (n := 11) .gaddImm fun x i => x + i.signExtend 64, rowGI .gmulImm fun x i => x * i.signExtend 64
    , rowGI .gandImm fun x i => x &&& i.signExtend 64, rowGI .gorImm fun x i => x ||| i.signExtend 64
    , rowGI .gxorImm fun x i => x ^^^ i.signExtend 64],
    ∀ d a i, (r d a i).Computes)
  ∧ (∀ r ∈
    [rowGI (n := 6) .gshlImm fun x i => x <<< i.toNat, rowGI .gshrImm fun x i => x >>> i.toNat
    , rowGI .gsarImm fun x i => x.sshiftRight i.toNat],
    ∀ d a i, (r d a i).Computes)
  ∧ (∀ (q : BitVec 2) (d : BitVec 6) (i : BitVec 16),
    GroupRow.Computes { instr := .gldq q d i, code := 20, uses := {}, d := d, value := fun _ _ => i.zeroExtend 64 <<< (16 * q.toNat) }
    ∧ GroupRow.Computes
      { instr := .ginsq q d i, code := 20, uses := { gr := [d.toNat] }, d := d
        value := fun cx _ => (cx.grp.greg d.toNat &&& ~~~ ((0xFFFF : DWord) <<< (16 * q.toNat))) ||| (i.zeroExtend 64 <<< (16 * q.toNat)) }
    ∧ GroupRow.Computes
      { instr := .gaddq q d i, code := 20, uses := { gr := [d.toNat] }, d := d
        value := fun cx _ => cx.grp.greg d.toNat + (i.signExtend 64 <<< (16 * q.toNat)) })
  ∧ (∀ d a b : BitVec 6,
    GroupRow.Computes
      { instr := .gselNz d a b, code := 18, uses := { gr := [d.toNat, a.toNat, b.toNat] }, d := d
        value := fun cx _ => if cx.grp.greg d.toNat ≠ 0 then cx.grp.greg a.toNat else cx.grp.greg b.toNat })
  ∧ (∀ d a : BitVec 6, GroupRow.Computes
      { instr := .movG d a, code := 18, uses := { gr := [a.toNat] }, d := d, value := fun cx _ => cx.grp.greg a.toNat })
  ∧ (∀ (w : BitVec 3) (d a b : BitVec 6), GroupRow.Computes
      { instr := .v2g w d a b, code := 18, uses := { vr := if w = 0 then regRun a.toNat 2 else [a.toNat], gr := [b.toNat] }, d := d
        value := fun cx _ =>
          if w = 0 then cx.grp.vpair a.toNat ((cx.grp.greg b.toNat).toNat % 32)
          else if w = 1 then (cx.grp.vlane a.toNat ((cx.grp.greg b.toNat).toNat % 32)).signExtend 64
          else (cx.grp.vlane a.toNat ((cx.grp.greg b.toNat).toNat % 32)).zeroExtend 64 })
  ∧ ∀ (d : BitVec 6) (k : BitVec 3),
    GroupRow.Computes { instr := .m2g d k, code := 22, uses := { mr := [k.toNat] }, d := d
                        value := fun cx _ => (cx.grp.mreg cx.sp k.toNat).zeroExtend 64 }
    ∧ GroupRow.Computes { instr := .mpopc d k, code := 22, uses := { mr := [k.toNat] }, d := d
                          value := fun cx _ => BitVec.ofNat 64 (Bits.popcount (cx.grp.mreg cx.sp k.toNat)) })

/-- R202, R145, R168, R483: S2G, SYSR, TIME and CLOCK write one g register with the special register, the system register, the reference
counter or the core's pulse count, and change nothing else but the pc and the account. A SYSR of a register that only firmware may read
asks for firmware mode.

R202: S2GC of $fflags writes the g register with the flags as they were and clears all five; nothing else changes. -/
def Obligations.SpecialRegisterReads : Prop :=
  (
  (∀ (d : BitVec 6) (n : BitVec 12), GroupRow.Computes
      { instr := .s2g d n, code := 18, uses := {}, d := d, value := fun cx s => BitVec.ofNat 64 (cx.special s n.toNat) })
  ∧ (∀ (n b : BitVec 6) (u : BitVec 4), GroupRow.Computes
      { instr := .sysr n b u, code := 29, uses := { firmware := !sysProgram (n.toNat * 16 + u.toNat) }, d := b
        value := fun cx _ => cx.sysReg (n.toNat * 16 + u.toNat) })
  ∧ ∀ b : BitVec 6,
    GroupRow.Computes { instr := .time b, code := 29, uses := {}, d := b, value := fun _ s => s.time }
    ∧ GroupRow.Computes { instr := .clock b, code := 29, uses := {}, d := b, value := fun cx s => (s.core cx.core).pulses })
  ∧ (
  ∀ (d : BitVec 6) (n : BitVec 12) (s : State) (cx : Cx), wellFormed 64 (.s2gc d n) = true → Admits s cx { gw := [d.toNat] } →
    ∃ t g, exec (.s2gc d n) s = .next t ∧ RegsOnly s t cx g (s.weight cx.core 18)
      ∧ g.greg d.toNat = cx.grp.fflags.zeroExtend 64 ∧ g.fflags = 0
      ∧ cx.grp.KeepsG g [d.toNat] ∧ cx.grp.KeepsV g 0 0 ∧ cx.grp.KeepsM g [] ∧ cx.grp.KeepsJ g [])

/-- R231, R233, R272, R274: the group compares write the mask register with the lanes of the split or none, the mask logic with its lane
sets, G2M with the low word, VOTE with the split's lanes whose word is not 0, ELECT with the split's lowest lane; nothing else changes but
the pc and the account.

R246: G2V writes the g register's low word, or both words in the .d form, into every lane of the split; other lanes and all other
registers and flags are kept. -/
def Obligations.MaskRegisterResults : Prop :=
  (
  (∀ r ∈
    [rowGCmp .gcmpEq fun w x y => lowW w x == lowW w y, rowGCmp .gcmpNe fun w x y => lowW w x != lowW w y
    , rowGCmp .gcmpLtS fun w x y => decide (signedW w x < signedW w y), rowGCmp .gcmpLeS fun w x y => decide (signedW w x ≤ signedW w y)
    , rowGCmp .gcmpLtZ fun w x y => decide (lowW w x < lowW w y), rowGCmp .gcmpLeZ fun w x y => decide (lowW w x ≤ lowW w y)],
    ∀ w k a b, (r w k a b).Computes)
  ∧ (∀ r ∈ [rowGCmpImm .gcmpEqImm fun x y => x == y, rowGCmpImm .gcmpLtSImm fun x y => x.slt y, rowGCmpImm .gcmpLtZImm fun x y => x.ult y],
    ∀ k a i, (r k a i).Computes)
  ∧ (∀ k a b : BitVec 3,
    GroupMaskRow.Computes { instr := .mand k a b, code := 22, uses := { mr := [a.toNat, b.toNat] }, k := k
                            value := fun cx => cx.grp.mreg cx.sp a.toNat &&& cx.grp.mreg cx.sp b.toNat }
    ∧ GroupMaskRow.Computes { instr := .mor k a b, code := 22, uses := { mr := [a.toNat, b.toNat] }, k := k
                              value := fun cx => cx.grp.mreg cx.sp a.toNat ||| cx.grp.mreg cx.sp b.toNat }
    ∧ GroupMaskRow.Computes { instr := .mxor k a b, code := 22, uses := { mr := [a.toNat, b.toNat] }, k := k
                              value := fun cx => cx.grp.mreg cx.sp a.toNat ^^^ cx.grp.mreg cx.sp b.toNat }
    ∧ GroupMaskRow.Computes { instr := .mandn k a b, code := 22, uses := { mr := [a.toNat, b.toNat] }, k := k
                              value := fun cx => cx.grp.mreg cx.sp a.toNat &&& ~~~ cx.grp.mreg cx.sp b.toNat })
  ∧ (∀ k a : BitVec 3,
    GroupMaskRow.Computes { instr := .mnot k a, code := 22, uses := { mr := [a.toNat] }, k := k, value := fun cx => ~~~ cx.grp.mreg cx.sp a.toNat }
    ∧ GroupMaskRow.Computes { instr := .j2m k a, code := 22, uses := { jr := [a.toNat] }, k := k, value := fun cx => cx.grp.jreg a.toNat })
  ∧ (∀ (k : BitVec 3) (a : BitVec 6),
    GroupMaskRow.Computes { instr := .g2m k a, code := 22, uses := { gr := [a.toNat] }, k := k
                            value := fun cx => (cx.grp.greg a.toNat).setWidth 32 }
    ∧ GroupMaskRow.Computes { instr := .vote k a, code := 22, uses := { vr := [a.toNat] }, k := k
                              value := fun cx => cx.sp.mask &&& Bits.maskBy fun l => cx.grp.vlane a.toNat l != 0 })
  ∧ ∀ k : BitVec 3, GroupMaskRow.Computes { instr := .elect k, code := 22, uses := {}, k := k
                                            value := fun cx => BitVec.twoPow 32 (Bits.lowest cx.sp.mask) })
  ∧ (
  ∀ (w : BitVec 3) (d a : BitVec 6) (s : State) (cx : Cx), wellFormed 64 (.g2v w d a) = true →
    Admits s cx { gr := [a.toNat], vw := regRun d.toNat (pairOf w) } →
    ∃ t g, exec (.g2v w d a) s = .next t ∧ RegsOnly s t cx g (s.weight cx.core 18)
      ∧ (∀ k l, k < pairOf w → l < 32 → g.vlane (d.toNat + k) l =
          if cx.sp.mask.getLsbD l then (cx.grp.greg a.toNat).extractLsb' (32 * k) 32 else cx.grp.vlane (d.toNat + k) l)
      ∧ cx.grp.KeepsV g d.toNat (pairOf w) ∧ cx.grp.KeepsG g [] ∧ cx.grp.KeepsM g [] ∧ cx.grp.KeepsJ g [] ∧ g.fflags = cx.grp.fflags)

/-! ### Branches, traps and the life of splits -/

/-- R226, R229, R214: BRA, BRA.ANY, BRA.NONE, CALL, RET and BRX. A taken branch moves the whole split to its target, a backward one counts,
and the 256th swaps the split out; an untaken one only advances the pc. CALL puts the return address in g60. RET and BRX to an address
that is no multiple of 4 raise MISALIGN with the address in g62. The two words that R229 writes out are those of RET g60 and BRX g7. -/
def Obligations.BranchResults : Prop :=
  (∀ (o : BitVec 18) (s : State) (cx : Cx), Admits s cx {} →
    Branches (.bra o) s cx 21 (cx.sp.pc + 4 * o.signExtend 64) fun g => cx.grp.KeepsG g [])
  ∧ (∀ (k : BitVec 3) (o : BitVec 18) (s : State) (cx : Cx), Admits s cx { mr := [k.toNat] } →
    if ∃ l < 32, cx.sp.mask.getLsbD l = true ∧ (cx.grp.mreg cx.sp k.toNat).getLsbD l = true then
      Branches (.braAny k o) s cx 21 (cx.sp.pc + 4 * o.signExtend 64) (fun g => cx.grp.KeepsG g [])
      ∧ ∃ t g, exec (.braNone k o) s = .next t ∧ RegsOnly s t cx g (s.weight cx.core 21) ∧ cx.grp.KeepsAll g
    else
      Branches (.braNone k o) s cx 21 (cx.sp.pc + 4 * o.signExtend 64) (fun g => cx.grp.KeepsG g [])
      ∧ ∃ t g, exec (.braAny k o) s = .next t ∧ RegsOnly s t cx g (s.weight cx.core 21) ∧ cx.grp.KeepsAll g)
  ∧ (∀ (o : BitVec 18) (s : State) (cx : Cx), Admits s cx { gw := [60] } →
    Branches (.call o) s cx 21 (cx.sp.pc + 4 * o.signExtend 64) fun g => g.greg 60 = cx.sp.pc + 4 ∧ cx.grp.KeepsG g [60])
  ∧ (∀ (a : BitVec 6) (s : State) (cx : Cx), Admits s cx { gr := [a.toNat] } → ∀ i ∈ [Instr.ret a, .brx a],
    if (cx.grp.greg a.toNat).toNat % 4 = 0 then Branches i s cx 22 (cx.grp.greg a.toNat) fun g => cx.grp.KeepsG g []
    else Raises i s cx .misalign cx.sp.mask (cx.grp.greg a.toNat) 0 cx.sp.pc 0)
  ∧ decodeTableWord 32 0xB3000F00 = some (.ret 60) ∧ decodeTableWord 32 0xB32001C0 = some (.brx 7)

/-- R166, R146 to R149: TRAP, in its word 0xE810_0000 + code, raises SOFTWARE with its code, for the split's lanes, with g61 at the next
instruction. -/
def Obligations.TrapTaken : Prop :=
  ∀ (c : BitVec 4), decodeTableWord 32 (0xE8100000 + c.toNat) = some (.trap c) ∧ ∀ (s : State) (cx : Cx), Admits s cx {} →
    Raises (.trap c) s cx .software cx.sp.mask 0 (c.zeroExtend 64) (cx.sp.pc + 4) c

/-- R99, R100, R145, R242, R316: what an instruction raises before it executes. A word that fails decode raises ILLEGAL; ERET, TRAPRET,
SYSW, PDEF, TLBI and a SYSR of a register that program mode may not read raise PRIV in program mode; a poisoned source raises
SOFT_ERROR. IADD and GADD stand for the instructions with vector and g sources.

R216, R218: a register pending for the split itself, inside an open window, raises LOOKAHEAD in an instruction that names it; one
pending for another split stalls the instruction, and nothing changes; outside an open window the split parks on the replies owed. GADD
stands for the instructions with g registers. -/
def Obligations.ChecksBeforeExecution : Prop :=
  (
  (∀ (s : State) (cx : Cx), Admits s cx {} → Raises .illegalWordIssue s cx .illegal cx.sp.mask 0 0 cx.sp.pc 0)
  ∧ (∀ (n b a : BitVec 6) (u : BitVec 4) (s : State) (cx : Cx), s.issuer = some cx → cx.sp.firmware = false →
      s.owed cx.core cx.gid cx.sp.tag = [] →
      (∀ i ∈ [Instr.eret, .trapret, .sysw n b u, .pdef a, .tlbiPage a, .tlbiAsid a, .tlbiAll, .tlbi2m a, .tlbi1g a],
        Raises i s cx .priv cx.sp.mask 0 0 cx.sp.pc 0)
      ∧ (sysProgram (n.toNat * 16 + u.toNat) = false → Raises (.sysr n b u) s cx .priv cx.sp.mask 0 0 cx.sp.pc 0))
  ∧ ∀ (g w : BitVec 3) (d a b : BitVec 6) (s : State) (cx : Cx), s.issuer = some cx → (s.core cx.core).sluice = [] →
      (s.core cx.core).matrixQ = [] →
      (cx.grp.vPoison.getLsbD a.toNat = true → Raises (.iadd g d a b) s cx .softError cx.sp.mask 0 0 cx.sp.pc 0)
      ∧ (cx.grp.gPoison.getLsbD a.toNat = true → Raises (.gadd w d a b) s cx .softError cx.sp.mask 0 0 cx.sp.pc 0))
  ∧ (
  ∀ (w : BitVec 3) (d a b : BitVec 6) (s : State) (cx : Cx) (tag : Nat) (e : SluiceEntry), s.issuer = some cx →
    (s.core cx.core).sluice = [(tag, e)] → (s.core cx.core).matrixQ = [] → e.group = cx.gid → e.pend ≠ 0 →
    (e.access.dest = .grp a.toNat ∨ e.access.dest = .grp b.toNat ∨ e.access.dest = .grp d.toNat) →
    (e.split ≠ cx.sp.tag → exec (.gadd w d a b) s = .next s)
    ∧ (e.split = cx.sp.tag → (∃ x ∈ cx.sp.windows, x.tag = tag ∧ x.left ≠ 0) →
        Raises (.gadd w d a b) s cx .lookahead cx.sp.mask 0 0 cx.sp.pc 0)
    ∧ (e.split = cx.sp.tag → (∀ x ∈ cx.sp.windows, x.tag = tag → x.left = 0) →
        ∃ g, exec (.gadd w d a b) s = .next { s with groups := s.groups.put cx.gid g }
          ∧ g = cx.grp.modTag cx.sp.tag fun sp =>
              { sp with state := .parked, windows := sp.windows.filter fun x => x.tag != tag, parkOn := [tag] }))

/-- R151, R101: ERET completes in firmware mode whenever g61 is a multiple of 4: it sets the pc to g61, restores g61 to g63 from the split's
shadow, returns to program mode and puts the saved no-reuse mark back. A g61 that is no multiple of 4 raises MISALIGN.

R152, R154: TRAPRET completes in firmware mode: it stops the split and writes its record with g61 to g63 as they were delivered, the time
when the trap was raised, and HANDLED set; the context goes FAULTED. The record's cause is the one whose code the delivered g63 holds. -/
def Obligations.TrapReturns : Prop :=
  (
  (∀ (s : State) (cx : Cx), Admits s cx { gr := [61], gw := [61, 62, 63], firmware := true } → (cx.grp.greg 61).toNat % 4 = 0 →
      ∃ t g, exec .eret s = .next t
        ∧ Issued s t cx g (s.weight cx.core 29) (fun sp =>
            { sp.tick with pc := cx.grp.greg 61, firmware := false, nr := cx.sp.trapNr, trapNr := false })
        ∧ g.greg 61 = cx.sp.tshad61 ∧ g.greg 62 = cx.sp.tshad62 ∧ g.greg 63 = cx.sp.tshad63
        ∧ cx.grp.KeepsG g [61, 62, 63] ∧ cx.grp.KeepsV g 0 0 ∧ cx.grp.KeepsM g [] ∧ cx.grp.KeepsJ g [] ∧ g.fflags = cx.grp.fflags)
  ∧ ∀ (s : State) (cx : Cx), Admits s cx { gr := [61], gw := [61, 62, 63], firmware := true } → (cx.grp.greg 61).toNat % 4 ≠ 0 →
      Raises .eret s cx .misalign cx.sp.mask (cx.grp.greg 61) 0 cx.sp.pc 0)
  ∧ (
  ∀ (s : State) (cx : Cx), Admits s cx { firmware := true, ends := true } →
    ∃ t u c, exec .trapret s = .next t ∧ t = u.rejoin cx.asid cx.gid
      ∧ (∀ x : Cause, cx.sp.trap63.toNat % 256 = x.code → c = x)
      ∧ Stopped (s.charge cx.core (s.weight cx.core 29)) u cx
        { cx.record cx.sp.trapTime c (cx.sp.trap63.extractLsb' 32 32) cx.sp.trap62
            (if c = .software then (cx.sp.trap63.extractLsb' 16 4).zeroExtend 64 else cx.sp.trapAux) cx.sp.trap61 with
          nested := false, handled := true })

/-- R227, R208: BRA.D. With no lane of the split in the mask it advances; with every lane it moves to its target; otherwise the split
divides, first pushing the oldest other resident split when four are resident. J[j] takes the lanes that took part, and the JOINs of the
group are looked at again. A push that fails raises STACK_SPILL.

R208, R209, R210: the push of a division takes the oldest other resident split (smallest AGE, then lowest index). With room in the
quadrant's SRAM it becomes the stack's top; otherwise the group's lowest SRAM entry, or the split itself when the group has none, is
written to the top of the group's spill ring, and a write that fails its checks makes the push fail, with no register, split or byte of
memory changed. -/
def Obligations.DivisionResults : Prop :=
  (
  ∀ (k j : BitVec 3) (o : BitVec 18) (s : State) (cx : Cx) (taken : Word) (tgt : DWord), Admits s cx { mr := [k.toNat], ends := true } →
    taken = cx.sp.mask &&& cx.grp.mreg cx.sp k.toNat → tgt = cx.sp.pc + 4 * o.signExtend 64 →
    (taken = 0 → ∃ t g, exec (.braD k j o) s = .next (t.rejoin cx.asid cx.gid) ∧ RegsOnly s t cx g (s.weight cx.core 21)
      ∧ g.jreg j.toNat = cx.sp.mask ∧ cx.grp.KeepsJ g [j.toNat] ∧ cx.grp.KeepsG g [] ∧ cx.grp.KeepsV g 0 0 ∧ cx.grp.KeepsM g []
      ∧ g.fflags = cx.grp.fflags)
    ∧ (taken ≠ 0 → cx.sp.mask &&& ~~~ taken = 0 →
      ∃ t g, exec (.braD k j o) s = .next ((cx.branched tgt t).rejoin cx.asid cx.gid)
        ∧ Issued s t cx g (s.weight cx.core 21) (fun sp =>
            { sp.tick with pc := tgt, nr := false, bbc := if tgt ≤ sp.pc then sp.bbc + 1 else sp.bbc })
        ∧ g.jreg j.toNat = cx.sp.mask ∧ cx.grp.KeepsJ g [j.toNat] ∧ cx.grp.KeepsG g [] ∧ cx.grp.KeepsV g 0 0 ∧ cx.grp.KeepsM g []
        ∧ g.fflags = cx.grp.fflags)
    ∧ (taken ≠ 0 → cx.sp.mask &&& ~~~ taken ≠ 0 → cx.grp.res.length < 4 → (∃ x < 4, cx.grp.res.look x = none) →
      ∃ g, exec (.braD k j o) s
          = .next (({ s with groups := s.groups.put cx.gid g }.charge cx.core (s.weight cx.core 21)).rejoin cx.asid cx.gid)
        ∧ cx.grp.Divided g cx j.toNat taken tgt (s.slotNow cx.core))
    ∧ (taken ≠ 0 → cx.sp.mask &&& ~~~ taken ≠ 0 → cx.grp.res.length = 4 →
      (∀ s', s.pushOldest cx = (s', false) → s'.groups = s.groups → s'.ctxs = s.ctxs →
        RaisesFrom (.braD k j o) s s' cx .stackSpill cx.sp.mask 0 0 cx.sp.pc 0)
      ∧ ∀ s' g0, s.pushOldest cx = (s', true) → s'.groups.look cx.gid = some g0 → g0.res.look cx.k = some cx.sp →
        (∃ x < 4, g0.res.look x = none) →
        ∃ g, exec (.braD k j o) s
            = .next (({ s' with groups := s'.groups.put cx.gid g }.charge cx.core (s.weight cx.core 21)).rejoin cx.asid cx.gid)
          ∧ g0.Divided g cx j.toNat taken tgt (s.slotNow cx.core)))
  ∧ (
  ∀ (s : State) (cx : Cx) (k : Nat) (x out : Split) (pushed : Group) (at_ : Nat), s.groups.look cx.gid = some cx.grp →
    Map.sorted cx.grp.res = true → cx.grp.res.look k = some x → k ≠ cx.k →
    (∀ k' y, cx.grp.res.look k' = some y → k' ≠ cx.k → x.age < y.age ∨ (x.age = y.age ∧ k ≤ k')) →
    pushed = { cx.grp with stack := x :: cx.grp.stack, res := cx.grp.res.del k } →
    out = (if cx.grp.stack.length = cx.grp.spilled then x else cx.grp.stack.getD (cx.grp.stack.length - cx.grp.spilled - 1) x) →
    cx.grp.spilled ≤ cx.grp.stack.length →
    at_ = cx.ctx.stkbase.toNat + (cx.team.slot * 32 + cx.grp.index) * 2048 + (cx.grp.ringBottom + cx.grp.spilled) % 32 * 64 →
    (s.sramUsed cx.quad < 32 → s.pushOldest cx = ({ s with groups := s.groups.put cx.gid pushed }, true))
    ∧ (32 ≤ s.sramUsed cx.quad → ∀ c, s.checkSystem cx.asid at_ 64 64 .write = .cause c →
      ∃ s', s.pushOldest cx = (s', false) ∧ s'.mem = s.mem ∧ s.OnlyMemory s')
    ∧ (32 ≤ s.sramUsed cx.quad → ∀ pa pte bits, s.checkSystem cx.asid at_ 64 64 .write = .ok pa pte bits →
      ∃ s', s.pushOldest cx = (s', true)
        ∧ s'.groups = s.groups.put cx.gid { pushed with spilled := cx.grp.spilled + 1 }
        ∧ (Memory.wf s.mem = true → (s.Reaches (.core cx.core) pa 64 → s'.physBytes pa 64 = Memory.ofNat 64 (packSplit out))
          ∧ ∀ a, (∀ i < 64, s.redirect a ≠ s.redirect (pa + i)) → s'.physByte a = s.physByte a)
        ∧ State.OnlyMemory { s with groups := s'.groups } s'))

/-- R208, R214: a swap takes the resident split to the bottom of the stack and the top split into its entry, each with its backward count
at 0, when no entry is spilled and the SRAM has room. WAIT_SWAP does so for a split that has waited 256 issue slots, and YIELD for its
split. -/
def Obligations.SwapResults : Prop :=
  (∀ (s : State) (gid k : Nat) (cx : Cx) (top : Split) (rest : List Split), s.cxOf gid k = some cx → 256 ≤ cx.sp.idle →
    (cx.sp.state = .waiting ∨ cx.sp.state = .parked ∨ cx.sp.state = .faulted) → cx.grp.stack = top :: rest → cx.grp.spilled = 0 →
    s.sramUsed cx.quad < 32 →
    ∃ g, exec (.waitSwap gid k) s = .next { s with groups := s.groups.put gid g }
      ∧ g = { cx.grp with
          res := (cx.grp.res.del k).put k { top with bbc := 0, idle := 0, ready := false, readySlots := 0 }
          stack := rest ++ [{ cx.sp with bbc := 0, idle := 0, ready := false }] })
  ∧ ∀ (s : State) (cx : Cx), Admits s cx { ends := true } →
    (cx.grp.stack ≠ [] → ∃ t g, exec .yield s = .next (t.swapOut cx.asid cx.gid cx.k) ∧ RegsOnly s t cx g (s.weight cx.core 29)
      ∧ cx.grp.KeepsAll g)
    ∧ (cx.grp.stack = [] → ∃ t g, exec .yield s = .next t
      ∧ Issued s t cx g (s.weight cx.core 29) (fun sp => { sp.retire with
          yieldTo := (cx.grp.res.filter fun p => p.1 != cx.k && p.2.state == .ready).map fun p => p.2.tag })
      ∧ cx.grp.KeepsAll g)

/-- R228, R205: JOIN makes its split WAITING, and the group's JOINs are looked at. While no split's awaited lanes have all arrived, nothing
changes. When one JOIN's have, its splits become one READY split past it, at the lowest index among them, with all their lanes and what
TRAPSTATE and TSHAD the split at that index has; that it keeps that split's TAG and BBC too is the model's reading (log entry 56).

R207, R204: two READY splits at one pc and mode, with no open window, become the one at the lower index, with both masks, the OR of
their no-reuse marks, the smaller AGE and a backward count of 0; the other entry is filled from the stack. That the TAG is the lower
index's is the model's choice (log entry 56). -/
def Obligations.JoinAndMergeResults : Prop :=
  (
  (∀ (j : BitVec 3) (s : State) (cx : Cx), Admits s cx { jr := [j.toNat], ends := true } →
    ∃ t g, exec (.join j) s = .next (t.rejoin cx.asid cx.gid)
      ∧ Issued s t cx g (s.weight cx.core 21) (fun sp =>
          sp.waits (.join j.toNat))
      ∧ cx.grp.KeepsAll g)
  ∧ (∀ (s : State) (asid gid : Nat) (g : Group), s.groups.look gid = some g → g.joinsSettled → s.rejoin asid gid = s)
  ∧ ∀ (s : State) (asid gid k j : Nat) (g : Group) (sp : Split), s.groups.look gid = some g → g.stack = [] → g.spilled = 0 →
    Map.sorted g.res = true → (g.splits.map Split.tag).Nodup → g.res.look k = some sp → sp.joins sp j → g.arrived sp j →
    (∀ k' y, g.res.look k' = some y → sp.joins y j → k ≤ k') →
    (∀ y ∈ g.splits, ∀ j', y.joins y j' → ¬ sp.joins y j → ¬ g.arrived y j') →
    ∃ res, s.rejoin asid gid = { s with groups := s.groups.put gid { g with res := res } }
      ∧ (∃ y, res.look k = some y ∧ y.state = .ready ∧ y.pc = sp.pc + 4 ∧ y.wait = none ∧ y.tag = sp.tag ∧ y.firmware = sp.firmware
          ∧ y.bbc = sp.bbc ∧ y.nr = false ∧ y.windows = []
          ∧ y.trap61 = sp.trap61 ∧ y.trap62 = sp.trap62 ∧ y.trap63 = sp.trap63 ∧ y.trapNr = sp.trapNr
          ∧ y.tshad61 = sp.tshad61 ∧ y.tshad62 = sp.tshad62 ∧ y.tshad63 = sp.tshad63
          ∧ (∀ l < 32, y.mask.getLsbD l = true ↔ ∃ z ∈ g.splits, sp.joins z j ∧ z.mask.getLsbD l = true)
          ∧ (∀ z ∈ g.splits, sp.joins z j → y.age ≤ z.age) ∧ ∃ z ∈ g.splits, sp.joins z j ∧ y.age = z.age)
      ∧ (∀ k' z, k' ≠ k → g.res.look k' = some z → sp.joins z j → res.look k' = none)
      ∧ ∀ k' z, g.res.look k' = some z → ¬ sp.joins z j → res.look k' = some z)
  ∧ (
  ∀ (s : State) (gid x y : Nat) (a b : Split) (cx : Cx), s.cxOf gid x = some cx → cx.grp.res.look x = some a → cx.grp.res.look y = some b →
    x < y → a.state = .ready → b.state = .ready → a.pc = b.pc → a.firmware = b.firmware → a.windows = [] → b.windows = [] →
    cx.team.state = .resident →
    exec (.splitMerge gid x y) s = .next (State.fillEntries
      { s with groups := s.groups.put gid { cx.grp with
          res := (cx.grp.res.del y).put x
            { a with
              mask := a.mask ||| b.mask, nr := a.nr || b.nr, bbc := 0, age := min a.age b.age
              drainArmed := a.drainArmed || b.drainArmed, ready := a.ready && b.ready, readySlots := max a.readySlots b.readySlots } } } cx.asid gid))

/-- R230, R203, R171: EXIT ends the lanes of its split: they join the exited mask, the region ends, the split ceases, and the group is EXITED
once every lane has exited. The freed entry is filled, JOINs are looked at again, and the group is HALTED if only STOPPED splits
remain. -/
def Obligations.ExitResults : Prop :=
  ∀ (s : State) (cx : Cx), Admits s cx { ends := true } → ∀ g, g =
      { cx.grp with
        exited := cx.grp.exited ||| cx.sp.mask, region := false, res := cx.grp.res.filter fun p => p.2.tag != cx.sp.tag
        state := if cx.grp.exited ||| cx.sp.mask = BitVec.allOnes 32 then .exited else cx.grp.state } →
    exec .exit s = .next
      (let t := ({ s with groups := s.groups.put cx.gid g }.charge cx.core (s.weight cx.core 22)).fillEntries cx.asid cx.gid
       ((if cx.grp.exited ||| cx.sp.mask = BitVec.allOnes 32 then t.quiesce cx.gid else t).rejoin cx.asid cx.gid).haltCheck cx.gid)
    ∧ (cx.grp.stack = [] → ∀ t : State, t.groups.look cx.gid = some g → t.fillEntries cx.asid cx.gid = t)

/-- R165, R101: NOP, the word 0xE800_0000, only advances; NOREUSE advances and leaves the split marked.

R231: M2J writes the whole rejoin register, after which the group's JOINs are looked at again. -/
def Obligations.MarksAndMaskMoves : Prop :=
  (
  decodeTableWord 32 0xE8000000 = some .nop ∧ ∀ (s : State) (cx : Cx), Admits s cx {} →
    (∃ t g, exec .nop s = .next t ∧ RegsOnly s t cx g (s.weight cx.core 29) ∧ cx.grp.KeepsAll g)
    ∧ ∃ t g, exec .noreuse s = .next t ∧ Issued s t cx g (s.weight cx.core 29) (fun sp => { sp.retire with nr := true })
      ∧ cx.grp.KeepsAll g)
  ∧ (
  ∀ (j k : BitVec 3) (s : State) (cx : Cx), Admits s cx { mr := [k.toNat] } →
    ∃ t g, exec (.m2j j k) s = .next (t.rejoin cx.asid cx.gid) ∧ RegsOnly s t cx g (s.weight cx.core 22)
      ∧ g.jreg j.toNat = cx.grp.mreg cx.sp k.toNat ∧ cx.grp.KeepsJ g [j.toNat] ∧ cx.grp.KeepsG g [] ∧ cx.grp.KeepsV g 0 0
      ∧ cx.grp.KeepsM g [] ∧ g.fflags = cx.grp.fflags)

/-- R142, R145, R168: SYSW. A writable register of the context takes the value when it obeys its rule and keeps its own otherwise;
TQBASE and TQSIZE empty the trap queue, any write of TQLOST clears it, TSHAD61 to TSHAD63 are the split's own, SPILLBASE (R439, R446)
gives the spillway a new record and wakes the GPFREEs that wait for room, and the read-only registers keep their values. -/
def Obligations.SystemRegisterWrites : Prop :=
  ∀ (n b : BitVec 6) (u : BitVec 4) (s : State) (cx : Cx) (x : DWord) (num : Nat), wellFormed 64 (.sysw n b u) = true →
    Admits s cx { gr := [b.toNat], firmware := true } → x = cx.grp.greg b.toNat → num = n.toNat * 16 + u.toNat →
    ∃ t g, Issued s t cx g (s.weight cx.core 29) (fun sp =>
        if num = 0x00C then { sp.retire with tshad61 := x } else if num = 0x00D then { sp.retire with tshad62 := x }
        else if num = 0x00E then { sp.retire with tshad63 := x } else sp.retire)
      ∧ cx.grp.KeepsAll g
      ∧ (num = 0x011 ∧ (x = 0 ∨ (2 ^ 64 - 2 ^ 56 ≤ x.toNat ∧ x.toNat % 64 = 0)) →
        ∃ v, exec (.sysw n b u) s = .next v ∧ t.WakesOnly v (· = .spill)
          ∧ v = { t with
              groups := v.groups
              ctxs := s.ctxs.put cx.asid { cx.ctx with spillbase := x }
              spillways := if x = 0 then s.spillways.del cx.asid else s.spillways.put cx.asid { base := x } })
      ∧ (¬ (num = 0x011 ∧ (x = 0 ∨ (2 ^ 64 - 2 ^ 56 ≤ x.toNat ∧ x.toNat % 64 = 0))) → exec (.sysw n b u) s = .next (
        let put := fun (c : Ctx) => { t with ctxs := s.ctxs.put cx.asid c }
        let base := fun (a : Nat) => 2 ^ 64 - 2 ^ 56 ≤ x.toNat ∧ x.toNat % a = 0
        match num with
        | 0x003 => put { cx.ctx with traph := x }
        | 0x004 => if base 64 then put { cx.ctx with tqbase := x, tqhead := 0, tqtail := 0 } else t
        | 0x005 =>
          if (List.range 13).any fun k => x == BitVec.ofNat 64 (16 * 2 ^ k) then put { cx.ctx with tqsize := x, tqhead := 0, tqtail := 0 } else t
        | 0x006 => if x < cx.ctx.tqsize then put { cx.ctx with tqhead := x } else t
        | 0x008 => put { cx.ctx with tqlost := 0 }
        | 0x009 => if base 65536 then put { cx.ctx with savebase := x } else t
        | 0x00A => if base 4096 then put { cx.ctx with regbase := x } else t
        | 0x00B => if base 2048 then put { cx.ctx with stkbase := x } else t
        | _ => t))

/-- R314, R74 to R76, R253: FENCE waits for the stores that its scope covers: at band scope or wider for the group's own and, once they have
left its queue, for all that the core's L1 has taken by then (log entry 57), at system scope for the answers to its posted peer stores.
With a posted peer store that failed, a system fence traps and forgets it; otherwise it acquires at its scope and arms the split's drain. An
acquire at team scope or wider empties the quadrant's
reuse table, one at band scope or wider drops from L1 the lines of SHARED device pages, of host memory and of peers, and neither
changes anything else. -/
def Obligations.FenceResults : Prop :=
  (∀ (sc : BitVec 3) (s : State) (cx : Cx), Admits s cx { ends := true, memory := true } →
    let stores := 3 ≤ sc.toNat →
      (cx.sp.drainTo = none → cx.grp.storeQ = [] ∧ (s.core cx.core).inflight = [])
      ∧ ∀ n, cx.sp.drainTo = some n → ∀ x ∈ (s.core cx.core).inflight, n ≤ x.serial
    let posts := sc.toNat = 5 → ∀ r ∈ s.peerReqs, ∀ e, r.2.entry = some e → e.group ≠ cx.gid
    let acked := stores ∧ posts
    (¬ acked → ∃ g tags, exec (.fence sc) s = .next { s with groups := s.groups.put cx.gid g }
      ∧ (∀ k, k ∈ tags ↔ (k = storeTag ∧ ¬ stores) ∨ (k = postTag ∧ ¬ posts))
      ∧ g = cx.grp.modTag cx.sp.tag fun sp =>
          { sp with
            state := .parked, windows := sp.windows.filter (fun w => !tags.contains w.tag), parkOn := tags
            drainTo := if cx.grp.storeQ = [] then some (sp.drainTo.getD (s.core cx.core).taken) else sp.drainTo })
    ∧ (acked → sc.toNat = 5 → ∀ timedOut device, cx.grp.postedFault = some (timedOut, device) → cx.sp.firmware = false →
        ∀ h, cx.ctx.handler = some h → ∃ t g, exec (.fence sc) s = .next t ∧ t = { s with groups := s.groups.put cx.gid g }
          ∧ g.postedFault = none ∧ g.greg 61 = cx.sp.pc
          ∧ (g.greg 63).extractLsb' 0 8 = if timedOut then 9 else 8)
    ∧ (acked → (sc.toNat = 5 → cx.grp.postedFault = none) →
        ∃ t g, exec (.fence sc) s = .next t
          ∧ Issued (s.acquire cx.core cx.quad sc.toNat) t cx g (s.weight cx.core 29) (fun sp => { sp.retire with drainArmed := true })
          ∧ cx.grp.KeepsAll g))
  ∧ ∀ (s : State) (core q scope : Nat),
    (2 ≤ scope → ((s.acquire core q scope).quad q).reuse = [])
    ∧ (3 ≤ scope → ∀ line, ((s.acquire core q scope).core core).l1.look line
        = if s.paKind (line * 128) ≠ .device ∨ (s.classes.look (s.redirect (line * 128) / 65536)).any (fun r => r.cls == .shared) then none
          else (s.core core).l1.look line)
    ∧ (∀ x, x ≠ core → (s.acquire core q scope).core x = s.core x)
    ∧ { (s.acquire core q scope).core core with l1 := (s.core core).l1 } = s.core core
    ∧ (∀ x, x ≠ q → (s.acquire core q scope).quad x = s.quad x)
    ∧ s.acquire core q scope = { s with cores := (s.acquire core q scope).cores, quads := (s.acquire core q scope).quads }

/-- R225, R221, R414, R415: what a fetch that fails brings. A page that is not present parks the split FAULTED with a page request for its
pc; another cause of R60 traps with the pc as its address, and so does a word with a soft error. The translation leaves its traces (R396,
R412).

R147, R222, R150, R149, R482: a trap that waited for its split's replies is delivered once none is owed, one that stops its whole group once
none is owed to any split of it; a wait that has lasted WDLIM pulses is abandoned with a WATCHDOG trap at the wait. -/
def Obligations.FetchFaultsAndDelayedTraps : Prop :=
  (
  ∀ (s : State) (cx : Cx), Admits s cx {} →
    (∀ c, s.checkGlobal cx.core cx.asid cx.sp.firmware cx.sp.pc.toNat 4 4 .fetch = .cause c →
      (c ≠ .page → ∃ u, s.Translated u cx ∧ RaisesFrom .instructionFetchFault s u cx c cx.sp.mask cx.sp.pc 0 cx.sp.pc 0)
      ∧ (c = .page → ∃ t u g, exec .instructionFetchFault s = .next t ∧ s.Translated u cx
        ∧ t = { u with groups := u.groups.put cx.gid g, pageReqs := t.pageReqs }
        ∧ g = cx.grp.modTag cx.sp.tag (fun sp => { sp with state := .faulted, idle := 0, faultAddr := cx.sp.pc, wait := none })
        ∧ ∃ q ∈ t.pageReqs, q.asid = cx.asid ∧ q.page = cx.sp.pc.toNat / 65536 ∧ AccessKind.fetch ∈ q.kinds
            ∧ Requester.split cx.gid cx.sp.tag ∈ q.requesters))
    ∧ ∀ pa pte bits, s.checkGlobal cx.core cx.asid cx.sp.firmware cx.sp.pc.toNat 4 4 .fetch = .ok pa pte bits →
        s.homeReady (.core cx.core) pa false = true → (∃ k < 4, s.redirect (pa + k) / 8 ∈ s.memPoison) →
        ∃ u, s.Translated u cx ∧ RaisesFrom .instructionFetchFault s u cx .softError cx.sp.mask cx.sp.pc 0 cx.sp.pc 0)
  ∧ (
  (∀ (s : State) (gid tag : Nat) (cx : Cx) (x : Trap), s.cxByTag gid tag = some cx → cx.grp.res.look cx.k = some cx.sp →
    cx.sp.pendingTrap = some x → (cx.team.state = .resident ∨ cx.team.state = .saving) → s.owed cx.core gid tag = [] →
    (x.stop = true ∧ x.cause = .softError → ∀ y ∈ cx.grp.splits, s.owed cx.core gid y.tag = []) →
    ∃ t, exec (.trapDelivery gid tag) s = .next t
      ∧ Delivered s t cx x.cause x.lanes x.addr x.aux (if x.atNext then cx.sp.pc + 4 else cx.sp.pc) x.code x.time x.stop)
  ∧ ∀ (s : State) (gid tag : Nat) (cx : Cx), s.cxByTag gid tag = some cx → cx.grp.res.look cx.k = some cx.sp →
    cx.sp.state = .waiting → cx.team.state = .resident → s.wdlim ≠ 0 → s.wdlim ≤ cx.sp.waitPulses → s.owed cx.core gid tag = [] →
    ∃ t, exec (.watchdogExpiry gid tag) s = .next t
      ∧ let quiet := fun (sp : Split) => { sp with state := .ready, wait := none, waitPulses := 0, idle := 0 }
        let cx' := { cx with sp := quiet cx.sp, grp := cx.grp.modTag tag quiet }
        Delivered { s.leavePost cx with groups := s.groups.put gid (cx.grp.modTag tag quiet) } t cx' .watchdog cx.sp.mask 0 0 cx.sp.pc 0 s.time)

/-! ### Loads, stores and atomics -/

/-- R299, R300, R311, R215, R216, R249: the global loads of both sets. Each takes the lowest free sluice tag, opens its window and owes a reply
for every lane; the reply carries the bytes at the lane's address, extended as the load says. Neither memory nor a register changes at
issue. A plain lane load that hits the reuse table takes the entry's registers at once. -/
def Obligations.GlobalLoadResults : Prop :=
  (∀ l d a b, ∀ x ∈ laneLoads l d a b, x.1.Loads x.2.1 x.2.2.1 x.2.2.2)
  ∧ ∀ l a b o, ∀ x ∈ uniformLoads l a b o, x.1.Loads x.2.1 x.2.2.1 x.2.2.2

/-- R301 to R303, R312, R186: the global stores of both sets and QSIG take one store-queue entry, which holds each lane's physical address and
the low bytes of its value. Neither memory nor a register changes at issue. -/
def Obligations.GlobalStoreResults : Prop :=
  (∀ v a b, ∀ x ∈ laneStores v a b, x.1.Stores x.2) ∧ ∀ a b o, ∀ x ∈ uniformStores a b o, x.1.Stores x.2

/-- R307, R308, R313, R116, R64: the atomics of both sets. The lanes' operations are performed at their homes, lowest lane first; each reply
carries the old value. No byte outside the lanes' locations changes. -/
def Obligations.AtomicResults : Prop :=
  (∀ p ∈ laneAtomics.zip atomicOps, ∀ r l d a sc b,
    (rowAtom p.1 p.2.1 (p.2.2.1 / 4) p.2.2.2.1 r l d a sc b).Atomics p.2.2.1 p.2.2.2.2)
  ∧ ∀ p ∈ uniformAtomics.zip atomicOps, ∀ l a b o, (rowGatom p.1 p.2.1 p.2.2.1 p.2.2.2.1 l a b o).Atomics p.2.2.1 p.2.2.2.2

/-- R60, R221, R304, R149: the global accesses whose checks fail. The lowest lane with a cause other than PAGE raises it, with its address and
every lane of that cause (all lanes of a uniform access's split); no lane accesses memory, and only the translations leave traces (R396,
R412).

R221, R304, R414: an access whose only causes are PAGE parks its split FAULTED, with the pc kept, an entry that names the faulted lanes and a
page request for each of their pages; its other lanes go on: those of a load or atomic in the same entry, those of a store in the group's
queue. -/
def Obligations.AccessTrapsAndPageFaults : Prop :=
  (
  ∀ (r : GlobalRow) (s : State) (cx : Cx) (pre : List LaneReq) (q : LaneReq) (post : List LaneReq) (c : Cause), r.listed → r.Checks s cx →
    r.reqs cx = pre ++ q :: post → (∀ p ∈ pre, r.check s cx p = none ∨ r.check s cx p = some .page) → r.check s cx q = some c → c ≠ .page →
    ∃ u, s.Translated u cx ∧ RaisesFrom r.instr s u cx c
      (if 16 ≤ r.code then cx.sp.mask
        else Bits.maskOf (((r.reqs cx).filter fun p => r.check s cx p = some c).map LaneReq.lane))
      q.va 0 cx.sp.pc 0)
  ∧ (
  (∀ (r : GlobalRow) (s : State) (cx : Cx), r.listed → r.access.op.isStore = true → r.Checks s cx → s.sluiceGranted cx = true →
    (∀ q ∈ r.reqs cx, r.check s cx q = none ∨ r.check s cx q = some .page) → (∃ q ∈ r.reqs cx, r.check s cx q = some .page) →
    s.lanesWait cx.core cx.gid r.access (r.homed s cx) = false →
    ∃ t g tag e, exec r.instr s = .next t ∧ (t.core cx.core).sluice = (s.core cx.core).sluice.put tag e
      ∧ e.group = cx.gid ∧ e.split = cx.sp.tag ∧ e.pc = cx.sp.pc ∧ e.pend = 0
      ∧ e.fault = laneSet ((r.reqs cx).filter fun q => r.check s cx q = some .page) ∧ t.mem = s.mem
      ∧ t.groups.look cx.gid = some g ∧ g.res = (cx.grp.modTag cx.sp.tag fun sp => { sp with state := .faulted, idle := 0 }).res
      ∧ cx.grp.KeepsAll g
      ∧ g.storeQ = cx.grp.storeQ ++ (if r.homed s cx = [] then [] else [{
          pc := cx.sp.pc
          pieces := (r.homed s cx).map fun q =>
            ({ kind := .global, addr := q.pa, bytes := Memory.ofNat r.access.op.size q.opA, lane := q.lane, va := q.va } : Piece) }])
      ∧ ∀ q ∈ r.reqs cx, r.check s cx q = some .page →
          ∃ p ∈ t.pageReqs, p.asid = cx.asid ∧ p.page = q.va.toNat / 65536 ∧ Requester.split cx.gid cx.sp.tag ∈ p.requesters)
  ∧ ∀ (r : GlobalRow) (s : State) (cx : Cx), r.listed → r.access.op.isStore = false → r.Checks s cx →
    (∀ q ∈ r.reqs cx, r.check s cx q = none ∨ r.check s cx q = some .page) → (∃ q ∈ r.reqs cx, r.check s cx q = some .page) →
    s.lanesWait cx.core cx.gid r.access (r.homed s cx) = false →
    ∃ t g tag e, exec r.instr s = .next t ∧ (t.core cx.core).sluice = (s.core cx.core).sluice.put tag e
      ∧ e.group = cx.gid ∧ e.split = cx.sp.tag ∧ e.pc = cx.sp.pc
      ∧ e.pend = laneSet (r.homed s cx) ∧ e.fault = laneSet ((r.reqs cx).filter fun q => r.check s cx q = some .page)
      ∧ t.groups.look cx.gid = some g ∧ g.res = (cx.grp.modTag cx.sp.tag fun sp => { sp with state := .faulted, idle := 0 }).res
      ∧ cx.grp.KeepsAll g
      ∧ ∀ q ∈ r.reqs cx, r.check s cx q = some .page →
          ∃ p ∈ t.pageReqs, p.asid = cx.asid ∧ p.page = q.va.toNat / 65536 ∧ Requester.split cx.gid cx.sp.tag ∈ p.requesters)

/-! ### Scratchpads, replies and stores on their way -/

/-- R92, R297, R299, R302, R305, R306, R252: the scratchpad loads, stores and atomics. A load writes its destination at once; a store takes a
store-queue entry; an atomic performs its lanes lowest first. A store or atomic advances the core's scratchpad generation. A failed check
traps for every lane of the lowest failing lane's cause; a load that is a reuse candidate has been looked up by then (R249).

R59, R60: what a scratchpad address names. A misaligned one is MISALIGN; bits [31:24], a window above 12 or of no team of the band, and a
byte at or beyond the declared size are PERM; window 0 is the team's own scratchpad, window k the band slot k - 1. -/
def Obligations.ScratchpadResults : Prop :=
  (
  ∀ (d a : BitVec 6) (x b : BitVec 3),
    (∀ r ∈ scratchLoads d a x b, r.1.Loads r.2.1 r.2.2)
    ∧ (∀ r ∈ scratchStores d a x b, r.Stores fun cx l => cx.grp.laneWords d.toNat ((r.size + 3) / 4) l % 2 ^ (8 * r.size))
    ∧ (∀ r ∈ scratchAtomics d a x b, r.1.Atomics r.2)
    ∧ (∀ (s : State) (c : Nat), (s.core c).scratchGen + 1 < 2 ^ 32 →
        s.bumpScratch c = s.modCore c fun y => { y with scratchGen := y.scratchGen + 1 })
    ∧ ∀ r ∈ (scratchLoads d a x b).map Prod.fst ++ scratchStores d a x b ++ (scratchAtomics d a x b).map Prod.fst, ∀
      (s : State) (cx : Cx) (pre : List Nat) (l : Nat) (post : List Nat) (c : Cause), wellFormed 64 r.instr = true →
        Admits s cx r.uses → (r.store = true → cx.grp.storeQ.length < 32) → Bits.lanes cx.sp.mask = pre ++ l :: post →
        (∀ k ∈ pre, ∃ y, r.check s cx k = .inl y) → r.check s cx l = .inr c →
        ∃ u, s.LookedUp u cx ∧ (r ∉ (scratchLoads d a x b).map Prod.fst → u = s)
          ∧ RaisesFrom r.instr s u cx c (Bits.maskOf ((Bits.lanes cx.sp.mask).filter fun k => r.check s cx k = .inr c)) (r.va cx l) 0
              cx.sp.pc 0)
  ∧ (
  ∀ (s : State) (uid a size : Nat) (t : Team) (k : Kernel), s.teams.look uid = some t → s.kernels.look t.kernel = some k → a < 2 ^ 32 →
    let win := a / 2 ^ 20 % 16
    let off := a % 2 ^ 20
    (a % size ≠ 0 → s.checkScratch uid a size size = .inr .misalign)
    ∧ (a % size = 0 → (2 ^ 24 ≤ a ∨ 12 < win ∨ k.launch.bandSize < win ∨ k.launch.scratch < off + size) →
        s.checkScratch uid a size size = .inr .perm)
    ∧ (a % size = 0 → a < 2 ^ 24 → win = 0 → off + size ≤ k.launch.scratch → s.checkScratch uid a size size = .inl (uid, off))
    ∧ (a % size = 0 → a < 2 ^ 24 → 0 < win → win ≤ 12 → win ≤ k.launch.bandSize → off + size ≤ k.launch.scratch →
        ∀ u v, s.bandTeam t k.launch.bandSize (win - 1) = some (u, v) →
          s.checkScratch uid a size size = if v.retired then .inr .perm else .inl (u, off)))

/-- R215, R216, R219, R205, R398: replies. Each lane that answers writes its own lane of the destination; when the last one has, the sluice entry
frees, the split's window closes, and a split parked on nothing else is READY. A reply of a uniform access writes its g register. An
atomic's reply waits until the invalidations that it has caused are acknowledged.

R301, R69, R74: the oldest entry of a group's store queue leaves. Bytes of the team's own scratchpad are performed; present L1 lines take the
global bytes; the other bytes go on their way to their homes under the next number; memory is unchanged. Splits that park for stores look
again; no other split and no register changes.

R70, R301, R64, R398: a store arrives where it goes: its pieces are performed, lowest lane first. It is acknowledged at once, or, where it has
written a line that the directory tracks, when the invalidations that it has caused have been acknowledged. No byte outside the pieces
changes. -/
def Obligations.RepliesAndStores : Prop :=
  (
  (∀ (s : State) (core tag : Nat) (lanes : Word) (e : SluiceEntry), (s.core core).sluice.look tag = some e →
    s.acksOwed core (s.linesHeld e) = true → exec (.sluiceReply core tag lanes) s = .next s)
  ∧ ∀ (s : State) (core tag : Nat) (lanes : Word) (e : SluiceEntry) (g : Group), (s.core core).sluice.look tag = some e →
    s.groups.look e.group = some g → (∀ r ∈ e.reqs, r.peer = false ∧ r.err = none ∧ r.bad = false) → (e.reqs.map LaneReq.lane).Nodup →
    e.fault = 0 → e.landing = [] → e.reuse = none → e.access.acquire = none → s.acksOwed core (s.linesHeld e) = false →
    ∃ t g', exec (.sluiceReply core tag lanes) s = .next t ∧ t.groups = s.groups.put e.group g'
      ∧ (∀ d n, e.access.dest = .vec d n →
          (∀ r ∈ e.reqs, (lanes &&& e.pend).getLsbD r.lane = true → r.lane < 32 → ∀ k < n, d + k < 64 →
            g'.vlane (d + k) r.lane = BitVec.ofNat 32 (r.val / 2 ^ (32 * k)))
          ∧ (∀ l k, (lanes &&& e.pend).getLsbD l = false → g'.vlane k l = g.vlane k l)
          ∧ g.KeepsV g' d n ∧ g.KeepsG g' [])
      ∧ (∀ d, e.access.dest = .grp d →
          (∀ r, e.reqs = [r] → d < 64 → (lanes &&& e.pend).getLsbD r.lane = true → g'.greg d = BitVec.ofNat 64 r.val)
          ∧ g.KeepsG g' [d] ∧ g.KeepsV g' 0 0)
      ∧ g.KeepsM g' [] ∧ g.KeepsJ g' [] ∧ g'.fflags = g.fflags
      ∧ (e.pend &&& ~~~ lanes ≠ 0 → (t.core core).sluice.look tag = some { e with pend := e.pend &&& ~~~ lanes }
          ∧ g'.res = g.res ∧ g'.stack = g.stack)
      ∧ (e.pend &&& ~~~ lanes = 0 → (t.core core).sluice.look tag = none
          ∧ g'.res = (g.modTag e.split (Split.answered tag)).res ∧ g'.stack = (g.modTag e.split (Split.answered tag)).stack)
      ∧ (∀ k, k ≠ tag → (t.core core).sluice.look k = (s.core core).sluice.look k)
      ∧ (∀ c, c ≠ core → t.core c = s.core c) ∧ { t.core core with sluice := (s.core core).sluice } = s.core core
      ∧ t = { s with groups := t.groups, cores := t.cores })
  ∧ (
  ∀ (s : State) (gid : Nat) (g : Group) (t : Team) (e : StoreEntry) (rest : List StoreEntry), s.groups.look gid = some g →
    g.storeQ = e :: rest → s.teams.look g.team = some t →
    (∀ p ∈ e.pieces, p.kind = .global → ∀ d, s.paKind p.addr ≠ .peer d) → (∀ p ∈ e.pieces, p.bad = false) →
    let own := e.pieces.filter fun p => p.kind == .scratch g.team
    let out := e.pieces.filter fun p => p.kind != .scratch g.team
    ∃ u g', exec (.storeQueueRetire gid) s = .next u ∧ u.groups.look gid = some g' ∧ g'.storeQ = rest
      ∧ (∀ k x, s.groups.look k = some x → ∃ y, u.groups.look k = some y ∧ x.KeepsAll y ∧ (k ≠ gid → y.storeQ = x.storeQ)
          ∧ ∀ j sp, x.res.look j = some sp → sp.parkOn = [] → y.res.look j = some sp)
      ∧ u.teams = (s.perform own).teams
      ∧ (u.core t.core).inflight = (if out = [] then (s.core t.core).inflight
          else (s.core t.core).inflight ++ [{ group := gid, entry := { e with pieces := out }, serial := (s.core t.core).taken }])
      ∧ (u.core t.core).taken = (s.core t.core).taken + 1
      ∧ (∀ k x y, (s.core t.core).l1.look k = some x → (u.core t.core).l1.look k = some y → ∀ i < 128,
          y.bytes.getD i 0 = (e.byteAt .global (128 * k + i)).getD (x.bytes.getD i 0))
      ∧ (∀ k, ((u.core t.core).l1.look k).isSome = ((s.core t.core).l1.look k).isSome)
      ∧ (∀ c, c ≠ t.core → u.core c = s.core c) ∧ u = { s with groups := u.groups, teams := u.teams, cores := u.cores, reports := u.reports })
  ∧ (
  (∀ (s : State) (core x : Nat) (f : InFlight), (s.core core).inflight[x]? = some f → f.performed = true →
    if s.acksOwed core (s.linesWritten f.entry) = true then exec (.storeAck core x) s = .next s
    else
      ∃ t, exec (.storeAck core x) s = .next t ∧ (t.core core).inflight = (s.core core).inflight.eraseIdx x
        ∧ t = { s with groups := t.groups, cores := t.cores }
        ∧ ∀ gid g, s.groups.look gid = some g → ∃ g', t.groups.look gid = some g' ∧ g.KeepsAll g' ∧ g'.storeQ = g.storeQ)
  ∧ ∀ (s : State) (core x : Nat) (f : InFlight), (s.core core).inflight[x]? = some f → f.performed = false →
    (∀ y < x, ∀ f', (s.core core).inflight[y]? = some f' → f'.performed = false → ∀ p ∈ f.entry.pieces, ∀ r ∈ f'.entry.pieces, r.kind = p.kind →
      r.addr + r.bytes.length ≤ p.addr ∨ p.addr + p.bytes.length ≤ r.addr) →
    s.homesReady (.core core) true ((f.entry.pieces.filter fun p => p.kind == .global).map Piece.addr) = true →
    (∀ p ∈ f.entry.pieces, p.bad = false) → (∀ p ∈ f.entry.pieces, p.kind = .global → ∀ d, s.paKind p.addr ≠ .peer d) →
    ∃ t, exec (.storeAck core x) s = .next t ∧ t.mem = (s.perform f.entry.pieces).mem ∧ t.teams = (s.perform f.entry.pieces).teams
      ∧ (t.core core).inflight = (if (s.linesWritten f.entry).any t.tracked then
          (s.core core).inflight.modify x fun y => { y with performed := true } else (s.core core).inflight.eraseIdx x)
      ∧ t.migrations = s.migrations
      ∧ (Memory.wf s.mem = true → ∀ a, (∀ p ∈ f.entry.pieces, p.kind = .global → ∀ k < p.bytes.length, s.redirect a ≠ s.redirect (p.addr + k)) →
          t.physByte a = s.physByte a)
      ∧ ∀ gid g g', s.groups.look gid = some g → t.groups.look gid = some g' → g.KeepsAll g' ∧ g'.storeQ = g.storeQ)

/-! ### Barriers, waits on a word, reader sections and grace periods -/

/-- R317, R318, R330, R333, R334: BAR.INIT, BAR.TEST and BAR.INVAL on the barrier that their operand names, and the PERM of an operand that
names none. That BAR.INIT too finds a barrier of the other scope INVALID is the model's reading (DEDUCED, log entry 63).

R319, R320, R323, R324, R331, R332: arrivals, postings and waits. An arrival first waits for the stores its scope asks for; an overrun
traps. At band scope it waits for what the core's L1 had taken by then too (DEDUCED, log entry 57). A barrier whose arrivals and bytes are complete flips: its counts clear and its waiters go on. BAR.WAIT passes, as an acquire, once
the phase differs from its operand. -/
def Obligations.BarrierResults : Prop :=
  (
  (∀ (i : Instr) (a b : BitVec 6) (sc : BitVec 1) (s : State) (cx : Cx) (u : Uses) (x : DWord),
    (i, u) ∈ [(Instr.barInit a b sc, ({ gr := [a.toNat, b.toNat], ends := true } : Uses)), (.barArv a, { gr := [a.toNat], ends := true })
      , (.barArvb a b, { gr := [a.toNat, b.toNat], ends := true }), (.barExp a b, { gr := [a.toNat, b.toNat], ends := true })
      , (.barWait a b, { gr := [a.toNat, b.toNat], ends := true }), (.barTest a b, { gr := [a.toNat], gw := [b.toNat], ends := true })
      , (.barInval a, { gr := [a.toNat], ends := true })] →
    Admits s cx u → x = cx.grp.greg a.toNat → 256 ≤ x.toNat ∨ cx.kern.launch.barriers ≤ x.toNat % 128 →
    Raises i s cx .perm cx.sp.mask x 0 cx.sp.pc 0)
  ∧ (∀ (s : State) (cx : Cx) (x : DWord), x.toNat < 128 → x.toNat < cx.kern.launch.barriers →
      cx.barrierOf s x = some (cx.uid, x.toNat, false))
  ∧ (∀ (s : State) (cx : Cx) (x : DWord) (u : Nat) (t : Team), 128 ≤ x.toNat → x.toNat < 256 → x.toNat - 128 < cx.kern.launch.barriers →
      s.bandTeam cx.team cx.kern.launch.bandSize 0 = some (u, t) → cx.barrierOf s x = some (u, x.toNat - 128, true))
  ∧ ∀ (a b : BitVec 6) (sc : BitVec 1) (s : State) (cx : Cx) (h id : Nat) (band : Bool) (th : Team),
    cx.barrierOf s (cx.grp.greg a.toNat) = some (h, id, band) → s.teams.look h = some th →
    let n := (cx.grp.greg b.toNat).toNat
    (Admits s cx { gr := [a.toNat, b.toNat], ends := true } →
      (n ≤ 4095 → band = decide (sc = 1) → s.barrier h id band = none →
        ∃ t g, exec (.barInit a b sc) s = .next t ∧ cx.grp.KeepsAll g
          ∧ Issued { s with teams := s.teams.put h { th with
              barriers := th.barriers.put id { band := band, expect := BitVec.ofNat 12 n } } } t cx g (s.weight cx.core 23) Split.retire)
      ∧ (∀ x, s.barrier h id band = some x → n ≤ 4095 → band = decide (sc = 1) → x.expect.toNat = n →
        ∃ t g, exec (.barInit a b sc) s = .next t ∧ RegsOnly s t cx g (s.weight cx.core 23) ∧ cx.grp.KeepsAll g)
      ∧ (4095 < n ∨ band ≠ decide (sc = 1) ∨ (∃ x, s.barrier h id band = some x ∧ x.expect.toNat ≠ n) →
        Raises (.barInit a b sc) s cx .perm cx.sp.mask (cx.grp.greg a.toNat) 0 cx.sp.pc 0))
    ∧ (Admits s cx { gr := [a.toNat], gw := [b.toNat], ends := true } →
      ∃ t g, exec (.barTest a b) s = .next t ∧ RegsOnly s t cx g (s.weight cx.core 23) ∧ cx.grp.KeepsG g [b.toNat] ∧ cx.grp.KeepsV g 0 0
        ∧ cx.grp.KeepsM g [] ∧ cx.grp.KeepsJ g [] ∧ g.fflags = cx.grp.fflags
        ∧ ((s.barrier h id band = none → g.greg b.toNat = 0)
          ∧ ∀ x, s.barrier h id band = some x → g.greg b.toNat =
              (if band then (2 : BitVec 2) else 1) ++ BitVec.ofBool x.phase ++ BitVec.ofBool x.posted ++ x.expect ++ x.arrived
                ++ (0 : BitVec 4) ++ BitVec.ofInt 32 x.pending))
    ∧ (Admits s cx { gr := [a.toNat], ends := true } →
      (s.barrier h id band = none →
        ∃ t g, exec (.barInval a) s = .next t ∧ RegsOnly s t cx g (s.weight cx.core 23) ∧ cx.grp.KeepsAll g)
      ∧ ∀ x, s.barrier h id band = some x →
        (x.arrived = 0 → x.pending = 0 → s.barrierWaiters h id band = false →
          ∃ t g, exec (.barInval a) s = .next t ∧ cx.grp.KeepsAll g
            ∧ Issued { s with teams := s.teams.put h { th with barriers := th.barriers.del id } } t cx g (s.weight cx.core 23) Split.retire)
        ∧ (x.arrived ≠ 0 ∨ x.pending ≠ 0 ∨ s.barrierWaiters h id band = true →
          Raises (.barInval a) s cx .perm cx.sp.mask (cx.grp.greg a.toNat) 0 cx.sp.pc 0)))
  ∧ (
  (∀ (a b : BitVec 6) (s : State) (cx : Cx) (h id : Nat) (band : Bool) (x : Barrier),
    cx.barrierOf s (cx.grp.greg a.toNat) = some (h, id, band) → s.barrier h id band = some x →
    let n := (cx.grp.greg b.toNat).toNat
    let stored := if band then s.drained cx else s.storesLeft cx.gid
    let await := if band then storeTag else leftTag
    let updates := fun (i : Instr) (y : Barrier) =>
      ∃ t g, exec i s = .next (t.updateBarrier h id y) ∧ RegsOnly s t cx g (s.weight cx.core 23) ∧ cx.grp.KeepsAll g
    let overruns := fun (i : Instr) => Raises i s cx .barrierOverrun cx.sp.mask 0 (BitVec.ofNat 64 id) cx.sp.pc 0
    let parks := fun (i : Instr) => ∃ g, exec i s = .next { s with groups := s.groups.put cx.gid g }
      ∧ g = cx.grp.modTag cx.sp.tag fun sp =>
          { sp with
            state := .parked, windows := sp.windows.filter fun w => w.tag != await, parkOn := [await]
            drainTo := if s.storesLeft cx.gid then some (sp.drainTo.getD (s.core cx.core).taken) else sp.drainTo }
    (Admits s cx { gr := [a.toNat], ends := true } →
      (stored = false → parks (.barArv a))
      ∧ (stored = true → x.arrived ≠ x.expect → updates (.barArv a) { x with arrived := x.arrived + 1 })
      ∧ (stored = true → x.arrived = x.expect → overruns (.barArv a)))
    ∧ (Admits s cx { gr := [a.toNat, b.toNat], ends := true } →
      (n < 2 ^ 32 → stored = false → parks (.barArvb a b))
      ∧ (0 < n → n < 2 ^ 32 → stored = true → x.pending + n ≤ 2 ^ 31 - 1 → x.arrived ≠ x.expect →
          updates (.barArvb a b) { x with arrived := x.arrived + 1, pending := x.pending + n, posted := true })
      ∧ (n = 0 → stored = true → x.arrived ≠ x.expect → updates (.barArvb a b) { x with arrived := x.arrived + 1 })
      ∧ (n < 2 ^ 32 → stored = true → (0 < n ∧ 2 ^ 31 - 1 < x.pending + n) ∨ x.arrived = x.expect → overruns (.barArvb a b))
      ∧ (0 < n → n < 2 ^ 32 → x.pending + n ≤ 2 ^ 31 - 1 → updates (.barExp a b) { x with pending := x.pending + n, posted := true })
      ∧ (n = 0 → ∃ t g, exec (.barExp a b) s = .next t ∧ RegsOnly s t cx g (s.weight cx.core 23) ∧ cx.grp.KeepsAll g)
      ∧ (0 < n → n < 2 ^ 32 → 2 ^ 31 - 1 < x.pending + n → overruns (.barExp a b))
      ∧ (2 ^ 32 ≤ n → Raises (.barArvb a b) s cx .perm cx.sp.mask (cx.grp.greg a.toNat) 0 cx.sp.pc 0
          ∧ Raises (.barExp a b) s cx .perm cx.sp.mask (cx.grp.greg a.toNat) 0 cx.sp.pc 0)
      ∧ (x.phase = (cx.grp.greg b.toNat).getLsbD 0 → ∃ t g, exec (.barWait a b) s = .next t ∧ cx.grp.KeepsAll g
          ∧ Issued s t cx g (s.weight cx.core 23) (Split.waits (.barrier h id band)))
      ∧ (x.phase ≠ (cx.grp.greg b.toNat).getLsbD 0 → ∃ t g, exec (.barWait a b) s = .next t ∧ cx.grp.KeepsAll g
          ∧ Issued (s.acquire cx.core cx.quad (if x.band then 3 else 2)) t cx g (s.weight cx.core 23) Split.retire)))
  ∧ ∀ (s : State) (h id : Nat) (b : Barrier) (th : Team), s.teams.look h = some th →
    let flips := b.arrived = b.expect ∧ b.pending = 0 ∧ (b.expect ≠ 0 ∨ b.posted = true)
    let put := fun (b : Barrier) => { s with teams := s.teams.put h { th with barriers := th.barriers.put id b } }
    (¬ flips → s.updateBarrier h id b = put b)
    ∧ (flips → ((put { b with phase := !b.phase, arrived := 0, pending := 0, posted := false }).OnlyGroups (s.updateBarrier h id b)
      ∧ State.Releases (put { b with phase := !b.phase, arrived := 0, pending := 0, posted := false })
          (s.updateBarrier h id b) fun w => w = .barrier h id b.band)))

/-- R335 to R337, R127: WAITA goes on, as an acquire, when the word it reads meets its comparison, and waits otherwise; a wait reads its word
again after a write to it; WAKEA makes the waits on a doubleword read again. -/
def Obligations.WordWaits : Prop :=
  (∀ (a b : BitVec 6) (z : BitVec 1) (c : BitVec 3) (s : State) (cx : Cx), Admits s cx { gr := [a.toNat, b.toNat], ends := true, memory := true } →
    let addr := cx.grp.greg a.toNat
    let value := cx.grp.greg b.toNat
    let n := if z = 1 then 8 else 4
    let runs := fun (u : State) (v : Nat) (scope : Nat) =>
      ∃ t g, exec (.waita a b z c) s = .next t ∧ cx.grp.KeepsAll g
        ∧ if waitMet v value (decide (z = 1)) c then
            Issued (u.acquire cx.core cx.quad scope) t cx g (s.weight cx.core 23) Split.retire
          else Issued u t cx g (s.weight cx.core 23) (Split.waits (.word addr value (decide (z = 1)) c))
    (∀ u off, s.wordAt cx addr n = .scratch u off → s.inflightMeets cx.core (.scratch u) off n = false → s.scratchBad cx.gid u off n = false →
      runs s (Memory.toNat ((List.range n).map fun k => s.scratchByte cx.gid u (off + k))) 2)
    ∧ (∀ pa, s.wordAt cx addr n = .global pa → (∀ d, s.paKind pa ≠ .peer d) →
      (s.learn cx.core cx.asid addr.toNat).homeReady (.core cx.core) pa false = true →
      s.loadPoisoned cx.core cx.gid pa n true = false →
      runs ((s.learn cx.core cx.asid addr.toNat).homeTouch (.core cx.core) pa false) (Memory.toNat (s.loadBytes cx.core cx.gid pa n true)) 5)
    ∧ ∀ k, s.wordAt cx addr n = .cause k → k ≠ .page →
        ∃ u, s.Translated u cx ∧ RaisesFrom (.waita a b z c) s u cx k cx.sp.mask addr 0 cx.sp.pc 0)
  ∧ (∀ (x : Nat) (v : DWord), x < 2 ^ 64 →
      let w : DWord := BitVec.ofNat 64 x
      let h : Word := BitVec.ofNat 32 x
      let r : Word := v.setWidth 32
      waitMet x v true 0 = decide (w = v) ∧ waitMet x v true 1 = decide (w ≠ v) ∧ waitMet x v true 2 = decide (w.toInt < v.toInt)
      ∧ waitMet x v true 3 = decide (v.toInt ≤ w.toInt) ∧ waitMet x v true 4 = decide (w.toNat < v.toNat)
      ∧ waitMet x v true 5 = decide (v.toNat ≤ w.toNat)
      ∧ waitMet x v false 0 = decide (h = r) ∧ waitMet x v false 1 = decide (h ≠ r) ∧ waitMet x v false 2 = decide (h.toInt < r.toInt)
      ∧ waitMet x v false 3 = decide (r.toInt ≤ h.toInt) ∧ waitMet x v false 4 = decide (h.toNat < r.toNat)
      ∧ waitMet x v false 5 = decide (r.toNat ≤ h.toNat))
  ∧ (∀ (s : State) (gid tag : Nat) (cx : Cx) (addr value : DWord) (dword : Bool) (c : BitVec 3) (u off : Nat),
      s.cxByTag gid tag = some cx → cx.team.state = .resident → cx.sp.state = .waiting → cx.sp.wait = some (.word addr value dword c) →
      s.wordAt cx addr (if dword then 8 else 4) = .scratch u off →
      s.inflightMeets cx.core (.scratch u) off (if dword then 8 else 4) = false →
      s.scratchBad cx.gid u off (if dword then 8 else 4) = false →
      exec (.waitaReread gid tag) s = .next (
        if waitMet (Memory.toNat ((List.range (if dword then 8 else 4)).map fun k => s.scratchByte cx.gid u (off + k)))
            value dword c then
          ({ s with groups := s.groups.put gid (cx.grp.modTag tag Split.released) }).acquire cx.core cx.quad 2
        else s))
  ∧ (∀ (s : State) (gid tag : Nat) (cx : Cx) (addr value : DWord) (dword : Bool) (c : BitVec 3) (pa : Nat),
      s.cxByTag gid tag = some cx → cx.team.state = .resident → cx.sp.state = .waiting → cx.sp.wait = some (.word addr value dword c) →
      s.wordAt cx addr (if dword then 8 else 4) = .global pa → (∀ d, s.paKind pa ≠ .peer d) →
      (s.learn cx.core cx.asid addr.toNat).homeReady (.core cx.core) pa false = true →
      s.loadPoisoned cx.core cx.gid pa (if dword then 8 else 4) true = false →
      let u := (s.learn cx.core cx.asid addr.toNat).homeTouch (.core cx.core) pa false
      exec (.waitaReread gid tag) s = .next (
        if waitMet (Memory.toNat (s.loadBytes cx.core cx.gid pa (if dword then 8 else 4) true)) value dword c then
          (u.modTag gid tag Split.released).acquire cx.core cx.quad 5
        else u))
  ∧ ∀ (a : BitVec 6) (s : State) (cx : Cx), Admits s cx { gr := [a.toNat], ends := true } →
    let addr := cx.grp.greg a.toNat
    let walked := if wordInScratch addr then s else s.learn cx.core cx.asid addr.toNat
    ((∀ k, s.wordAt cx addr 4 ≠ .cause k) → ∃ t g, RegsOnly walked t cx g (s.weight cx.core 23) ∧ cx.grp.KeepsAll g
      ∧ exec (.wakea a) s = .next ((s.waitersOn (s.wordAt cx addr 4)).foldl (fun s p => s.reread p.1 p.2) t))
    ∧ (∀ k, s.wordAt cx addr 4 = .cause k → wordInScratch addr = true →
        Raises (.wakea a) s cx k cx.sp.mask addr 0 cx.sp.pc 0)
    ∧ (∀ k, s.wordAt cx addr 4 = .cause k → wordInScratch addr = false →
        (canonicalRange addr.toNat 4 = false → Raises (.wakea a) s cx .noncanon cx.sp.mask addr 0 cx.sp.pc 0)
        ∧ (canonicalRange addr.toNat 4 = true → addr.toNat % 4 ≠ 0 → Raises (.wakea a) s cx .misalign cx.sp.mask addr 0 cx.sp.pc 0)
        ∧ (canonicalRange addr.toNat 4 = true → addr.toNat % 4 = 0 → inWindow addr.toNat = true → cx.sp.firmware = false →
            Raises (.wakea a) s cx .perm cx.sp.mask addr 0 cx.sp.pc 0)
        ∧ (canonicalRange addr.toNat 4 = true → addr.toNat % 4 = 0 → inWindow addr.toNat = false ∨ cx.sp.firmware = true →
            ∃ t g, exec (.wakea a) s = .next t ∧ RegsOnly walked t cx g (s.weight cx.core 23) ∧ cx.grp.KeepsAll g))

/-- R430, R431, R433, R435, R443 to R445: the reader-section and grace-period instructions.

R432 to R434, R445: a requested grace period starts with the groups in a reader section as its holding set; a group whose accesses are done, one that has
left its core for good among them, leaves it; with none left the tide counts it, the queued one is next, and the GPWAITs it reaches go on. -/
def Obligations.TideResults : Prop :=
  (
  (∀ (s : State) (cx : Cx), Admits s cx {} →
    (cx.grp.depth = 15 → Raises .rdenter s cx .perm cx.sp.mask 0 0 cx.sp.pc 0)
    ∧ (cx.grp.depth ≠ 15 → ∃ t g, exec .rdenter s = .next t ∧ cx.grp.KeepsAll g
        ∧ Issued (if cx.grp.depth = 0 ∧ (s.core cx.core).graceSeen < s.graceStarts then
              (s.acquire cx.core cx.quad 4).modCore cx.core fun c => { c with graceSeen := s.graceStarts }
            else s) t { cx with grp := { cx.grp with depth := cx.grp.depth + 1 } } g (s.weight cx.core 27) Split.retire)
    ∧ (cx.grp.depth = 0 → Raises .rdexit s cx .perm cx.sp.mask 0 0 cx.sp.pc 0)
    ∧ (cx.grp.depth ≠ 0 → ∃ t g, exec .rdexit s = .next (if cx.grp.depth = 1 then t.quiesce cx.gid else t) ∧ cx.grp.KeepsAll g
        ∧ Issued s t { cx with grp := { cx.grp with depth := cx.grp.depth - 1 } } g (s.weight cx.core 27) Split.retire)
    ∧ (∃ t g, exec .qpoint s = .next (t.quiesce cx.gid) ∧ RegsOnly s t cx g (s.weight cx.core 27) ∧ cx.grp.KeepsAll g))
  ∧ (∀ (s : State) (gid : Nat) (n : GroupName), s.groupName gid = some n →
      s.quiesce gid = if ∃ g, s.grace = some g ∧ g.started = true ∧ n ∈ g.holding then
        { s with quiescent := s.quiescent ++ [{ group := gid, name := n }] } else s)
  ∧ (∀ (b : BitVec 6) (s : State) (cx : Cx), Admits s cx { gw := [b.toNat], memory := true } →
      (s.drained cx = false → ∃ g, exec (.gpstart b) s = .next { s with groups := s.groups.put cx.gid g }
        ∧ g = cx.grp.modTag cx.sp.tag fun sp =>
            { sp with
              state := .parked, windows := sp.windows.filter fun w => w.tag != storeTag, parkOn := [storeTag]
              drainTo := if s.storesLeft cx.gid then some (sp.drainTo.getD (s.core cx.core).taken) else sp.drainTo })
      ∧ (s.drained cx = true → ∃ t g, exec (.gpstart b) s = .next t
        ∧ Issued (if s.grace = none then { s with grace := some {} } else { s with graceQueued := true }) t cx g
            (s.weight cx.core 27) Split.retire
        ∧ (g.greg b.toNat = s.tide + if s.grace = none then 1 else 2)
        ∧ cx.grp.KeepsG g [b.toNat] ∧ cx.grp.KeepsV g 0 0 ∧ cx.grp.KeepsM g [] ∧ cx.grp.KeepsJ g [] ∧ g.fflags = cx.grp.fflags))
  ∧ (∀ (a : BitVec 6) (s : State) (cx : Cx), Admits s cx { gr := [a.toNat], ends := true } →
      (cx.grp.depth ≠ 0 → Raises (.gpwait a) s cx .perm cx.sp.mask 0 0 cx.sp.pc 0)
      ∧ (cx.grp.depth = 0 → ∃ t g, exec (.gpwait a) s = .next t ∧ cx.grp.KeepsAll g
        ∧ if (cx.grp.greg a.toNat).toNat ≤ s.tide.toNat then
            Issued (s.acquire cx.core cx.quad 4) t cx g (s.weight cx.core 27) Split.retire
          else Issued s t cx g (s.weight cx.core 27) (Split.waits (.grace (cx.grp.greg a.toNat)))))
  ∧ ∀ (a b : BitVec 6) (s : State) (cx : Cx), Admits s cx { gr := [a.toNat], gw := [b.toNat] } →
      let reached := (cx.grp.greg a.toNat).toNat ≤ s.tide.toNat
      ∃ t g, exec (.gppoll a b) s = .next t
        ∧ Issued (if reached then s.acquire cx.core cx.quad 4 else s) t cx g (s.weight cx.core 27) Split.retire
        ∧ (g.greg b.toNat = if reached then 1 else 0)
        ∧ cx.grp.KeepsG g [b.toNat] ∧ cx.grp.KeepsV g 0 0 ∧ cx.grp.KeepsM g [] ∧ cx.grp.KeepsJ g [] ∧ g.fflags = cx.grp.fflags)
  ∧ (
  (∀ (s : State) (g : Grace), s.grace = some g → g.started = false →
    ∃ hs : List GroupName, exec .gpStart s
        = .next ({ s with grace := some { started := true, holding := hs }, graceStarts := s.graceStarts + 1 } : State).settleGrace
      ∧ ∀ n, n ∈ hs ↔ ∃ p ∈ s.groups, p.2.depth ≠ 0 ∧ p.2.state ≠ .exited ∧ s.groupName p.1 = some n)
  ∧ (∀ (s : State) (x : Nat) (q : Quiescence), s.quiescent[x]? = some q →
      let leaves := fun (done : Prop) =>
        (¬ done → exec (.quiescentRecord x) s = .next s)
        ∧ (done → ∀ r, s.grace = some r → exec (.quiescentRecord x) s
            = .next ({ s with
                grace := some { r with holding := r.holding.filter fun y => y != q.name }
                quiescent := s.quiescent.filter fun y => y.name != q.name } : State).settleGrace)
      (∀ (g : Group) (t : Team), q.left = none → s.groups.look q.group = some g → s.teams.look g.team = some t →
        leaves ((∀ p ∈ (s.core t.core).sluice, p.2.group = q.group → p.2.pend = 0 ∧ p.2.fault = 0)
          ∧ (∀ e ∈ t.savedSluice, e.group ≠ q.group) ∧ s.storesAcked t.core q.group = true ∧ s.peerStoresAcked q.group = true))
      ∧ ∀ (core before : Nat) (peers : List Nat), q.left = some (core, before, peers) →
        leaves ((∀ f ∈ (s.core core).inflight, f.group = q.group → before ≤ f.serial) ∧ ∀ p ∈ peers, s.peerReqs.look p = none))
  ∧ ∀ (s : State) (g : Grace), s.grace = some g → g.started = true →
    (g.holding ≠ [] → s.settleGrace = s)
    ∧ (g.holding = [] →
      let u := { s with tide := s.tide + 1, grace := if s.graceQueued then some {} else none, graceQueued := false }
      u.OnlyGroups s.settleGrace ∧ u.Releases s.settleGrace fun w => ∃ t : DWord, w = .grace t ∧ t.toNat ≤ (s.tide + 1).toNat))

/-! ### Copies and the matrix engine -/

/-- R341 to R344, R357: CPY.LD, CPY.ST, CPY.SC and CPY.PF. A request that fails a check traps; an accepted one takes the lowest free slot with its
layout, coordinates and signal, joins the group's open set, and leaves memory and registers as they are; the core's reuse entries of the
pages that a CPY.ST writes die (R251).

R342, R345, R70: landings. A unit of a CPY.LD whose bytes are there reaches the target's scratchpad, zero where it is out of bounds; the
in-bounds bytes of one of a CPY.ST reach memory, no other byte changes, and the unit has landed at once, or, where it has written a line
that the directory tracks, once the invalidations are acknowledged; a copy with no unit left frees its slot, gives its team its time, and
leaves its batch.

R351 to R353: CPY.SEAL makes the open set a batch, of the copies that still run, and a seal that leaves the whole team's sets empty updates τ and
the stage depth; CPY.WAITN passes, as an acquire at team scope, with at most n batches unfinished, and waits otherwise. -/
def Obligations.CopyResults : Prop :=
  (
  ∀ p ∈ [(CopyKind.load, Instr.cpyLd), (.store, Instr.cpySt), (.scale, Instr.cpySc), (.prefetch, Instr.cpyPf)],
    ∀ (a b : BitVec 6) (o : BitVec 4) (s u : State) (cx : Cx) (bs : List Byte), wellFormed 64 (p.2 a b o) = true →
    Admits s cx { gr := a.toNat :: regRun b.toNat 4, memory := true } →
    s.readRecord cx cx.sp.firmware (cx.grp.greg a.toNat) 64 64 (cx.grp.greg a.toNat) true = .bytes u bs →
    (∀ c addr aux, copyChecks u cx p.1 a.toNat b.toNat (layoutOf bs) = .inl (c, addr, aux) →
      exec (p.2 a b o) s = .next (u.trapAll cx c addr aux))
    ∧ ∀ target sig slot (left : List Nat), copyChecks u cx p.1 a.toNat b.toNat (layoutOf bs) = .inr (target, sig) →
      u.engineWaits cx (uniformScope o) = false → (uniformScope o = some 5 → cx.grp.postedFault = none) →
      slot < 128 → (u.core cx.core).copies.look slot = none → (∀ k < slot, ((u.core cx.core).copies.look k).isSome) →
      left = (if p.1 = .store ∨ p.1 = .prefetch then (layoutOf bs).inUnits (coordsOf cx.grp b.toNat)
        else List.range ((layoutOf bs).size / 16)) → left ≠ [] →
      ∃ (t : State) (r : CopyReq), exec (p.2 a b o) s = .next t ∧ (t.core cx.core).copies = (u.core cx.core).copies.put slot r
        ∧ r = { r with
            kind := p.1, group := cx.gid, split := cx.sp.tag, splitIndex := cx.k, lanes := cx.sp.mask, firmware := cx.sp.firmware, pc := cx.sp.pc
            team := cx.uid, placement := cx.team.placement, asid := cx.asid, accepted := s.time.toNat, layout := layoutOf bs
            coord := coordsOf cx.grp b.toNat, localAddr := (cx.grp.greg (b.toNat + 2)).toNat % 2 ^ 32, target := target, signal := sig
            left := left, failedAt := none, answered := [], written := [] }
        ∧ t.mem = s.mem
        ∧ ((∀ h id band, sig ≠ .barrier h id band) → ∃ g, cx.grp.KeepsAll g
          ∧ Issued ((if p.1 = .store then ({ u with uid := u.uid + 1 } : State).killBox cx (layoutOf bs) (coordsOf cx.grp b.toNat)
                else { u with uid := u.uid + 1 }).modCore cx.core fun c => { c with copies := c.copies.put slot r }) t
              { cx with grp := { cx.grp with copySet := cx.grp.copySet ++ [r.serial] } } g (s.weight cx.core 24)
              (fun sp => { sp.retire with drainArmed := false })))
  ∧ (
  (∀ (s : State) (core slot lo hi u j n va pa : Nat) (r : CopyReq) (tm : Team) (bs : List Byte), (s.core core).copies.look slot = some r →
    r.kind = .load → r.signal = .none → r.failedAt = none → r.live s = true → s.teams.look r.target = some tm →
    (r.left.filter fun x => lo ≤ 16 * x && 16 * x < hi) = [u] → (r.left.filter fun x => x != u) ≠ [] → j + n ≤ 16 →
    r.layout.parts r.coord u = (if n = 0 then [] else [(16 * u + j, va, n)]) →
    (n ≠ 0 → s.engineXlate (some core) r.asid va false = .ok pa ∧ (∀ d, s.paKind pa ≠ .peer d)
      ∧ s.homeReady (.core core) pa false = true ∧ ∀ k < n, s.physPoisoned (pa + k) 1 = false) →
    bs = (List.range 16).map (fun k => if j ≤ k ∧ k < j + n then s.physByte (pa + (k - j)) else 0) →
    ∃ t, exec (.copyLanding core slot lo hi) s = .next t ∧ t.teams = s.teams.put r.target (tm.scratchWrite (r.local_ u) bs)
      ∧ (t.core core).copies = (s.core core).copies.put slot { r with left := r.left.filter fun x => x != u }
      ∧ t.mem = s.mem ∧ t.groups = s.groups)
  ∧ (∀ (s : State) (core slot lo hi u j n va pa : Nat) (r : CopyReq) (tm : Team), (s.core core).copies.look slot = some r →
    r.kind = .store → r.signal = .none → r.failedAt = none → s.teams.look r.target = some tm →
    (r.left.filter fun x => lo ≤ 16 * x && 16 * x < hi) = [u] → (r.left.filter fun x => x != u) ≠ [] →
    r.written.look u = none → r.layout.parts r.coord u = [(16 * u + j, va, n)] → j + n ≤ 16 →
    (∀ k < n, tm.scratchPoisoned (r.local_ u + j + k) 1 = false) →
    s.engineXlate (some core) r.asid va true = .ok pa → (∀ d, s.paKind pa ≠ .peer d) → s.homeReady (.core core) pa true = true →
    ∃ t, exec (.copyLanding core slot lo hi) s = .next t
      ∧ (Memory.wf s.mem = true →
          t.physBytes pa n = (List.range n).map (fun k => Memory.byte tm.scratch (r.local_ u + j + k))
          ∧ ∀ a, (∀ k < n, s.redirect a ≠ s.redirect (pa + k)) → t.physByte a = s.physByte a)
      ∧ (t.core core).copies = (s.core core).copies.put slot (if s.tracked (s.redirect pa / 128) = true then
            { r with written := r.written.put u [s.redirect pa / 128] }
          else { r with left := r.left.filter fun x => x != u })
      ∧ t.teams = s.teams ∧ t.groups = s.groups)
  ∧ (∀ (s : State) (core slot lo hi u : Nat) (r : CopyReq) (lines : List Nat), (s.core core).copies.look slot = some r →
    r.kind = .store → r.signal = .none → (r.left.filter fun x => lo ≤ 16 * x && 16 * x < hi) = [u] →
    (r.left.filter fun x => x != u) ≠ [] → r.written.look u = some lines →
    exec (.copyLanding core slot lo hi) s = .next (if s.acksOwed core lines = true then s
      else s.modCore core fun c => { c with copies := c.copies.upd slot fun q => { q with left := q.left.filter fun x => x != u } }))
  ∧ ∀ (s : State) (core slot lo hi : Nat) (r : CopyReq) (tm : Team) (g : Group), (s.core core).copies.look slot = some r → r.left = [] →
    r.signal = .none → r.live s = true → s.teams.look r.team = some tm → s.groups.look r.group = some g →
    let took : Rat := ((s.time.toNat - r.accepted : Nat) : Rat)
    ∃ t g', exec (.copyLanding core slot lo hi) s = .next t ∧ (t.core core).copies = (s.core core).copies.del slot
      ∧ t.teams = s.teams.put r.team { tm with lambda := some (match tm.lambda with
          | some x => x + (took - x) / 8
          | none => took) }
      ∧ t.groups.look r.group = some g' ∧ g.KeepsAll g' ∧ t.mem = s.mem
      ∧ g'.copyBatches = (g.copyBatches.map fun b => ({ open_ := b.open_.filter fun n => n != r.serial } : Batch)).filter
          fun b => b.open_ != [])
  ∧ (
  (∀ (s : State) (cx : Cx) (open_ : List Nat) (tm : Team), Admits s cx {} → Map.sorted s.groups = true → s.teams.look cx.uid = some tm →
    cx.grp.copyBatches.length < 16 →
    open_ = cx.grp.copySet.filter (fun n => (s.core cx.core).copies.any fun r => r.2.serial == n) →
    let quiet := ∀ p ∈ s.teamGroups cx.uid, p.1 ≠ cx.gid → p.2.copySet = []
    let tm' := { tm with
      lastQuiet := some s.time.toNat
      tau := match tm.lastQuiet, tm.tau with
        | none, x => x
        | some w, none => some ((s.time.toNat - w : Nat) : Rat)
        | some w, some x => some (x + (((s.time.toNat - w : Nat) : Rat) - x) / 8) }
    ∃ t g, exec .cpySeal s = .next t ∧ cx.grp.KeepsAll g
      ∧ Issued (if quiet then { s with teams := s.teams.put cx.uid { tm' with cdepth := stageDepth cx.kern.launch tm' } } else s) t
          { cx with grp := { cx.grp with
              copySet := [], copyBatch := cx.grp.copyBatch + 1
              copyBatches := cx.grp.copyBatches ++ if open_ = [] then [] else [{ open_ := open_ }] } } g (s.weight cx.core 24) Split.retire)
  ∧ (∀ (l : Launch) (t : Team) (lam tau : Rat), t.lambda = some lam → t.tau = some tau → 0 < tau →
      (stageDepth l t : Int) = min (max ((lam / tau).ceil + 1) (l.dmin + 1)) (l.dmax + 1))
  ∧ ∀ (n : BitVec 4) (s : State) (cx : Cx), Admits s cx { ends := true } →
    ∃ t g, exec (.cpyWaitn n) s = .next t ∧ cx.grp.KeepsAll g
      ∧ if cx.grp.copyBatches.length ≤ n.toNat then Issued (s.acquire cx.core cx.quad 2) t cx g (s.weight cx.core 24) Split.retire
        else Issued s t cx g (s.weight cx.core 24) (Split.waits (.copies n.toNat)))

/-- R358, R359, R366, R371, R372, R376, R379, R380: MRES claims a free engine, with scale store and marks cleared, and says whether its team holds it;
MREL gives it up; MBQ marks a quarter; MFENCE seals the open set; MWAIT waits for batches. Only the holder may use the engine.

R361, R362, R364, R368, R370, R371, R377, R378, R381, R382: the operations that enter the engine queue. A full queue holds them back; otherwise each
enters with its operands, and all but the drains join the group's open set. An MMA that waited for a release or drain enters with the
quarters that it claimed before.

R368, R374, R378, R381, R382, R371, R49, R50: the oldest operation of an engine queue completes. MZERO clears its tile, MFILL writes its elements, MMA
gives each of its tile's elements the accumulated value, MDRAIN writes its lanes of a register; other elements keep theirs. -/
def Obligations.MatrixResults : Prop :=
  (
  (∀ (k : BitVec 3) (s : State) (cx : Cx), wellFormed 64 (.mres k) = true → Admits s cx {} →
    let c := s.core cx.core
    let mine := c.hold = .free ∨ c.hold = .held cx.uid
    ∃ t g, exec (.mres k) s = .next t
      ∧ Issued (if c.hold = .free then
          s.modCore cx.core fun c => { c with hold := .held cx.uid, marks := [], scale := [], scalePoison := [] } else s)
          t cx g (s.weight cx.core 25) Split.retire
      ∧ Bits.rd g.m k.toNat 0 = (if mine then 0xFFFFFFFF else 0) ∧ cx.grp.KeepsM g [k.toNat] ∧ cx.grp.KeepsG g [] ∧ cx.grp.KeepsV g 0 0
      ∧ cx.grp.KeepsJ g [] ∧ g.fflags = cx.grp.fflags)
  ∧ (∀ (s : State) (cx : Cx), Admits s cx {} → (s.core cx.core).hold = .held cx.uid →
    ∃ t g, exec .mrel s = .next t ∧ cx.grp.KeepsAll g
      ∧ Issued (s.modCore cx.core fun c => { c with marks := [], hold := if c.matrixQ = [] then .free else .releasing cx.uid }) t cx g
          (s.weight cx.core 25) Split.retire)
  ∧ (∀ (a : BitVec 6) (s : State) (cx : Cx), Admits s cx { vw := regRun a.toNat 8 } → (s.core cx.core).hold = .held cx.uid →
    ∃ t g n, exec (.mbq a) s = .next t ∧ cx.grp.KeepsAll g
      ∧ Issued (s.modCore cx.core fun c => { c with marks := c.marks.put (cx.grp.index % 4) (cx.gid, a.toNat) }) t cx g n Split.retire
      ∧ n = (if cx.grp.narrowSources (regRun a.toNat 8) then (s.weight cx.core 14 + 1) / 2 else s.weight cx.core 14)
          * Bits.popcount cx.sp.mask)
  ∧ (∀ (s : State) (cx : Cx) (open_ : List Nat), Admits s cx {} → cx.grp.matBatches.length < 16 →
    open_ = cx.grp.matSet.filter (fun n => (s.core cx.core).matrixQ.any fun e => e.serial == n) →
    ∃ t g, exec .mfence s = .next t ∧ cx.grp.KeepsAll g
      ∧ Issued s t { cx with grp := { cx.grp with
          matSet := [], matBatches := cx.grp.matBatches ++ if open_ = [] then [] else [{ open_ := open_ }] } } g (s.weight cx.core 25)
          Split.retire)
  ∧ (∀ (n : BitVec 4) (s : State) (cx : Cx), Admits s cx { ends := true } →
    ∃ t g, exec (.mwait n) s = .next t ∧ cx.grp.KeepsAll g
      ∧ if cx.grp.matBatches.length ≤ n.toNat then Issued (s.acquire cx.core cx.quad 2) t cx g (s.weight cx.core 25) Split.retire
        else Issued s t cx g (s.weight cx.core 25) (Split.waits (.matrix n.toNat)))
  ∧ ∀ (i : Instr) (u : Uses) (s : State) (cx : Cx) (a b v : BitVec 6) (x y : BitVec 3) (o : BitVec 4),
    (i, u) ∈ [(Instr.mrel, ({} : Uses)), (.mzero a, { gr := [a.toNat], memory := true }), (.mbq a, { vw := regRun a.toNat 8 })
      , (.mma x y a b o, { gr := [a.toNat, b.toNat], memory := true }), (.mfill v a, { vr := [v.toNat, a.toNat], memory := true })
      , (.mdrain o v a x, { vr := [a.toNat], vw := [v.toNat], memory := true })
      , (.mdrainRaw o v a x, { vr := [a.toNat], vw := [v.toNat], memory := true })] →
    Admits s cx u → (s.core cx.core).hold ≠ .held cx.uid → Raises i s cx .matrixNotHeld cx.sp.mask 0 0 cx.sp.pc 0)
  ∧ (
  ∀ (s : State) (cx : Cx), (s.core cx.core).hold = .held cx.uid → (s.core cx.core).matrixQ.length < 64 →
    let queued := fun (u : State) (op : MatrixOp) => ({ u with uid := u.uid + 1 } : State).modCore cx.core fun c =>
      { c with matrixQ := c.matrixQ ++ [{ serial := u.uid, group := cx.gid, team := cx.uid, op := op }] }
    let joined := { cx with grp := { cx.grp with matSet := cx.grp.matSet ++ [s.uid] } }
    let narrow := fun (rs : List Nat) => (if cx.grp.narrowSources rs then (s.weight cx.core 14 + 1) / 2 else s.weight cx.core 14)
      * Bits.popcount cx.sp.mask
    (∀ a : BitVec 6, Admits s cx { gr := [a.toNat], memory := true } →
      let tile := (cx.grp.greg a.toNat).toNat
      (tile < 512 → tile < cx.kern.launch.acc → ∃ t g, exec (.mzero a) s = .next t ∧ cx.grp.KeepsAll g
        ∧ Issued (queued s (.zero tile)) t joined g (s.weight cx.core 25) Split.retire)
      ∧ (512 ≤ tile ∨ cx.kern.launch.acc ≤ tile → Raises (.mzero a) s cx .perm cx.sp.mask (cx.grp.greg a.toNat) 0 cx.sp.pc 0))
    ∧ (∀ (v a : BitVec 6), Admits s cx { vr := [v.toNat, a.toNat], memory := true } →
      (∀ l ∈ Bits.lanes cx.sp.mask, (cx.grp.vlane a.toNat l).toNat < 2 ^ 21 ∧ (cx.grp.vlane a.toNat l).toNat / 4096 < cx.kern.launch.acc) →
      ∃ t g, exec (.mfill v a) s = .next t ∧ cx.grp.KeepsAll g
        ∧ Issued (queued s (.fill ((Bits.lanes cx.sp.mask).map fun l => ((cx.grp.vlane a.toNat l).toNat, cx.grp.vlane v.toNat l)))) t joined g
            (narrow [v.toNat, a.toNat]) Split.retire)
    ∧ (∀ (l : BitVec 4) (d a : BitVec 6) (f : BitVec 3) (i : Instr) (slot : Option Word), Admits s cx { vr := [a.toNat], vw := [d.toNat], memory := true } →
      (i, slot) ∈ [(Instr.mdrainRaw l d a f, none), (.mdrain l d a f, some (cx.slotWord f.toNat))] →
      (∀ w, slot = some w → slotValid w = true ∧ slotFmt w ∈ [0, 1, 7, 8]) → (l = 0 ∨ cx.sp.windows.length < 4) →
      (∀ k ∈ Bits.lanes cx.sp.mask, (cx.grp.vlane a.toNat k).toNat < 2 ^ 21 ∧ (cx.grp.vlane a.toNat k).toNat / 4096 < cx.kern.launch.acc) →
      ∃ t g n, exec i s = .next t ∧ cx.grp.KeepsAll g
        ∧ Issued (queued s (.drain cx.gid cx.sp.tag d.toNat n slot
              ((Bits.lanes cx.sp.mask).map fun k => (k, (cx.grp.vlane a.toNat k).toNat)))) t cx g (narrow [a.toNat])
            (fun sp => sp.retire.openWindow (drainTag s.uid) l.toNat false))
    ∧ ∀ (x y : BitVec 3) (a b : BitVec 6) (o : BitVec 4) (kind : AccKind) (tile off offA offB : Nat) (marks : List (Nat × Nat)),
      Admits s cx { gr := [a.toNat, b.toNat], memory := true } →
      let sa := cx.slotWord x.toNat
      let sb := cx.slotWord y.toNat
      let qb := quarterBytes (slotFmt sa) (slotFmt sb)
      mmaSlotOk cx.kern.launch sa = true → mmaSlotOk cx.kern.launch sb = true → accKind (slotFmt sa) (slotFmt sb) = some kind →
      (cx.grp.greg b.toNat).toNat = tile → tile < 512 → tile < cx.kern.launch.acc →
      (kind = .fp64 → tile % 2 = 0 ∧ tile + 1 < cx.kern.launch.acc) →
      mmaAddress cx (slotFmt sa) (slotFmt sb) (cx.grp.greg a.toNat) = some (off, offA, offB) →
      (∀ c, cx.sp.claimed = some c → s.engineWaits cx (uniformScope o) = false → (uniformScope o = some 5 → cx.grp.postedFault = none) →
        ∃ t g, exec (.mma x y a b o) s = .next t ∧ cx.grp.KeepsAll g
          ∧ Issued (queued s (.mma sa sb off offA offB tile c.quarters c.poison)) t joined g (s.weight cx.core 25)
              (fun sp => { sp.retire with drainArmed := false, claimed := none }))
      ∧ (cx.sp.claimed = none → (s.core cx.core).fourMarks = some marks →
      (∀ mk ∈ marks, overlap (regRun mk.2 (quarterRegs qb)) (s.pending cx.core mk.1 fun _ => true).1 = false
        ∧ (1024 < qb → mk.2 + 15 < cx.kern.launch.vregs)) →
      s.engineWaits cx (uniformScope o) = false → (uniformScope o = some 5 → cx.grp.postedFault = none) →
      ∃ t g qs, exec (.mma x y a b o) s = .next t ∧ cx.grp.KeepsAll g
        ∧ qs = marks.map (fun mk => ((s.groups.look mk.1).map fun g => g.quarter mk.2 qb).getD ([], []))
        ∧ Issued (queued (s.modCore cx.core fun c => { c with marks := [] })
              (.mma sa sb off offA offB tile (qs.map Prod.fst) (qs.map Prod.snd))) t joined g (s.weight cx.core 25)
            (fun sp => { sp.retire with drainArmed := false })))
  ∧ (
  (∀ (s : State) (core : Nat) (e : MatrixEntry) (rest : List MatrixEntry) (tm : Team), (s.core core).matrixQ = e :: rest →
    s.teams.look e.team = some tm →
    ∃ t, exec (.matrixOpComplete core) s = .next t ∧ (t.core core).matrixQ = (rest.filter fun x => x.serial != e.serial) ∧ t.mem = s.mem
      ∧ (∀ tile, e.op = .zero tile → ∃ tm', t.teams = s.teams.put e.team tm'
          ∧ ∀ x, tm'.accWord x = if x / 4096 = tile then 0 else tm.accWord x)
      ∧ (∀ xs, e.op = .fill xs → (xs.map Prod.fst).Nodup → ∃ tm', t.teams = s.teams.put e.team tm'
          ∧ (∀ x ∈ xs, tm'.accWord x.1 = x.2) ∧ ∀ x, (∀ y ∈ xs, y.1 ≠ x) → tm'.accWord x = tm.accWord x)
      ∧ (∀ a b off sa sb tile qs bad, e.op = .mma a b off sa sb tile qs bad → slotFmt a ≠ 9 → ∃ tm', t.teams = s.teams.put e.team tm'
          ∧ (∀ m < 64, ∀ n < 64, ∃ x p, (tile * 4096 + 64 * m + n, x, p) ∈ mmaResults (s.core core) tm a b off sa sb tile qs bad
              ∧ tm'.accWord (tile * 4096 + 64 * m + n) = BitVec.ofNat 32 x)
          ∧ ∀ x, x / 4096 ≠ tile → tm'.accWord x = tm.accWord x)
      ∧ (∀ gid tag d n slot elems g, e.op = .drain gid tag d n slot elems → s.groups.look gid = some g → d < 64 → (elems.map Prod.fst).Nodup →
          t.teams = s.teams ∧ ∃ g', t.groups.look gid = some g' ∧ g.KeepsV g' d 1 ∧ g.KeepsG g' [] ∧ g.KeepsM g' [] ∧ g.KeepsJ g' []
            ∧ (∀ x ∈ elems, x.1 < 32 → g'.vlane d x.1 = drainValue slot (tm.accWord x.2))
            ∧ ∀ l, (∀ x ∈ elems, x.1 ≠ l) → g'.vlane d l = g.vlane d l))
  ∧ (∀ (a b : Word) (c : Nat) (ab : List ((Nat × Nat × Nat × Nat) × (Nat × Nat × Nat × Nat))), slotFmt a ∈ [7, 8] → slotFmt b ∈ [7, 8] →
      c < 2 ^ 32 →
      let v := fun (f : Nat) (x : Nat) => if f = 7 then (BitVec.ofNat 8 x).toInt else ((x % 256 : Nat) : Int)
      ((mmaElement a b c ab : Nat) : Int)
        = ((c : Int) + (ab.map fun p => v (slotFmt a) p.1.1 * v (slotFmt b) p.2.1).sum) % 2 ^ 32)
  ∧ (∀ (a b : Word) (c : Nat) (x y : Nat × Nat × Nat × Nat) (rest : List ((Nat × Nat × Nat × Nat) × (Nat × Nat × Nat × Nat))),
      slotFmt a = 9 → slotFmt b = 9 →
      mmaElement a b c ((x, y) :: rest) = mmaElement a b (fp64.fma false false x.1 y.1 c).1 rest ∧ mmaElement a b c [] = c)
  ∧ (∀ w : Word, drainValue none w = w) ∧ ∀ (f w : Word),
    (slotFmt f = 7 → (drainValue (some f) w).toNat = (max (-128) (min 127 w.toInt) % 256).toNat)
    ∧ (slotFmt f = 8 → (drainValue (some f) w).toNat = (max 0 (min 255 w.toInt)).toNat))

/-! ### Pages, translations and polders -/

/-- R427 to R429: TLBI drops, on every core and chiplet, exactly the translations that its range and ASID cover, once the accesses they translated
are performed; PMIG posts a request; PCLASS reads a page's state, of a page that is not present B alone. The walks of PMIG and PCLASS
count as the system agent's (R396).

R426, R419: PUBL exchanges, for each page of its record, the leaf and its twin, and drops the pages' translations and the L1 lines of both
frames (R83); a page that cannot be published traps, with its address, before any exchange. It waits for a migration of a page, and for its
turn among the PUBLs, whose order is that in which their checks have passed (DESIGN CHOICE, log entry 26). -/
def Obligations.PageInstructions : Prop :=
  (
  (∀ (a : BitVec 6) (s : State) (cx : Cx),
    let x := (cx.grp.greg a.toNat).toNat
    ∀ p ∈ [(Instr.tlbiPage a, [a.toNat], some cx.asid, x / 65536 * 65536, x / 65536 * 65536 + 65536)
      , (.tlbi2m a, [a.toNat], some cx.asid, x / 2 ^ 21 * 2 ^ 21, x / 2 ^ 21 * 2 ^ 21 + 2 ^ 21)
      , (.tlbi1g a, [a.toNat], some cx.asid, x / 2 ^ 30 * 2 ^ 30, x / 2 ^ 30 * 2 ^ 30 + 2 ^ 30)
      , (.tlbiAsid a, [a.toNat], some x, 0, 2 ^ 64), (.tlbiAll, [], none, 0, 2 ^ 64)],
    let covers := fun (e : TlbEntry) => (∀ y, p.2.2.1 = some y → e.asid = y)
      ∧ e.vpage * 2 ^ e.bits < p.2.2.2.2 ∧ p.2.2.2.1 < (e.vpage + 1) * 2 ^ e.bits
    Admits s cx { gr := p.2.1, firmware := true } →
    (p.1 = .tlbiAsid a → 65536 ≤ x → Raises p.1 s cx .perm cx.sp.mask (cx.grp.greg a.toNat) 0 cx.sp.pc 0)
    ∧ ((p.1 = .tlbiAsid a → x < 65536) → s.accessesOut (fun y va _ => y.any (fun z => p.2.2.1.all fun w => z == w)
        && (decide (va / 65536 * 65536 < p.2.2.2.2) && decide (p.2.2.2.1 < (va / 65536 + 1) * 65536))) = false →
      ∃ u t g, exec p.1 s = .next t ∧ Issued u t cx g (s.weight cx.core 28) Split.retire ∧ cx.grp.KeepsAll g
        ∧ (∀ c e, (e ∈ (u.core c).tlb ↔ e ∈ (s.core c).tlb ∧ ¬ covers e) ∧ (e ∈ (u.core c).walkTlb ↔ e ∈ (s.core c).walkTlb ∧ ¬ covers e)
            ∧ (e ∈ (u.chip c).tlb ↔ e ∈ (s.chip c).tlb ∧ ¬ covers e))
        ∧ u = { s with cores := u.cores, chips := u.chips, quads := u.quads }))
  ∧ (∀ (a b : BitVec 6) (s : State) (cx : Cx), Admits s cx { gr := [a.toNat, b.toNat] } →
    let va := cx.grp.greg a.toNat
    let n := (cx.grp.greg b.toNat).toNat
    let named := canonical va.toNat = true ∧ (inWindow va.toNat = false ∨ cx.sp.firmware = true)
    let tier := n ≤ 1 ∨ (0x40 ≤ n ∧ n < 0x80)
    let m := (cx.asid, va.toNat / 65536, n)
    (¬ named → Raises (.pmig a b) s cx .perm cx.sp.mask va 0 cx.sp.pc 0)
    ∧ (named → ¬ tier → Raises (.pmig a b) s cx .perm cx.sp.mask (cx.grp.greg b.toNat) 0 cx.sp.pc 0)
    ∧ (named → tier → ∃ t g, exec (.pmig a b) s = .next t ∧ cx.grp.KeepsAll g
        ∧ Issued (if s.canMigrate cx.asid (va.toNat / 65536) = true ∧ m ∉ s.pmigs then
              { s.walkTouch cx.asid va.toNat with pmigs := s.pmigs ++ [m] }
            else s.walkTouch cx.asid va.toNat) t cx g (s.weight cx.core 28) Split.retire))
  ∧ (∀ (a b : BitVec 6) (s : State) (cx : Cx), Admits s cx { gr := [a.toNat], gw := [b.toNat] } →
    let va := cx.grp.greg a.toNat
    (canonical va.toNat = false → Raises (.pclass a b) s cx .noncanon cx.sp.mask va 0 cx.sp.pc 0)
    ∧ (canonical va.toNat = true → inWindow va.toNat = true → cx.sp.firmware = false →
        Raises (.pclass a b) s cx .perm cx.sp.mask va 0 cx.sp.pc 0)
    ∧ (canonical va.toNat = true → inWindow va.toNat = false ∨ cx.sp.firmware = true →
      ∃ t g, exec (.pclass a b) s = .next t ∧ RegsOnly (s.walkTouch cx.asid va.toNat) t cx g (s.weight cx.core 28)
        ∧ (g.greg b.toNat = s.classWord (s.walk cx.ctx va.toNat) va.toNat (s.bounceBit cx.ctx va.toNat))
        ∧ cx.grp.KeepsG g [b.toNat] ∧ cx.grp.KeepsV g 0 0 ∧ cx.grp.KeepsM g [] ∧ cx.grp.KeepsJ g [] ∧ g.fflags = cx.grp.fflags))
  ∧ (∀ (s : State) (c : Ctx) (v at_ : Nat) (entry : DWord), s.walk c v = .absent 4 entry at_ → s.bounceBit c v = entry.getLsbD 5)
  ∧ (∀ (s : State) (w : WalkEnd) (v : Nat) (b : Bool), (∀ pte bits at_, w ≠ .leaf pte bits at_) → s.classWord w v b = if b then 0x20 else 0)
  ∧ ∀ (s : State) (pte : DWord) (bits v : Nat) (at_ : Nat) (b : Bool), s.rangeKind (leafFrame pte + v % 2 ^ bits) = .device →
    let w := s.classWord (.leaf pte bits at_) v b
    w.getLsbD 0 = true ∧ w.getLsbD 6 = pte.getLsbD 6 ∧ w.getLsbD 7 = pte.getLsbD 7
    ∧ w.extractLsb' 3 2 = (if bits = 30 then 2 else if bits = 21 then 1 else 0)
    ∧ ((s.classes.look ((leafFrame pte + v % 2 ^ bits) / 65536) = none → w.extractLsb' 8 2 = 0)
      ∧ ∀ r, s.classes.look ((leafFrame pte + v % 2 ^ bits) / 65536) = some r → w.extractLsb' 8 2 = (match r.cls with
          | .priv _ _ => 1
          | .readOnly => 2
          | .shared => 3)))
  ∧ (
  (∀ (a : BitVec 6) (s u : State) (cx : Cx) (bs : List Byte) (base count : Nat) (pages : List Nat),
    Admits s cx { gr := [a.toNat], ends := true, memory := true } →
    s.readRecord cx cx.sp.firmware (cx.grp.greg a.toNat) 16 16 (cx.grp.greg a.toNat) = .bytes u bs →
    base = Memory.toNat (bs.take 8) → count = Memory.toNat ((bs.drop 8).take 8) → pages = (List.range count).map (fun k => base / 65536 + k) →
    let walked := pages.foldl (fun s p => s.walkTouch cx.asid (p * 65536)) u
    let line := if cx.waiter ∈ walked.publLine then walked.publLine else walked.publLine ++ [cx.waiter]
    let inFrame := fun (pa : Nat) => pages.any fun p =>
      match walked.publishable cx.asid p with
      | some (pte, _, twin) => pa / 65536 == leafFrame pte / 65536 || pa / 65536 == leafFrame twin / 65536
      | none => false
    (base % 65536 ≠ 0 ∨ 2 ^ 56 ≤ base ∨ count = 0 ∨ 512 < count →
      exec (.publ a) s = .next (u.trapAll cx .perm (cx.grp.greg a.toNat)))
    ∧ (base % 65536 = 0 → base < 2 ^ 56 → 0 < count → count ≤ 512 →
      (∀ pre p post, pages = pre ++ p :: post → (∀ q ∈ pre, (walked.publishable cx.asid q).isSome) → walked.publishable cx.asid p = none →
        exec (.publ a) s = .next (walked.trapAll cx .perm (BitVec.ofNat 64 (p * 65536))))
      ∧ ((∀ p ∈ pages, (walked.publishable cx.asid p).isSome) →
          (∃ p ∈ pages, walked.migration cx.asid p ≠ none) ∨ line.head? ≠ some cx.waiter →
        ∃ g, exec (.publ a) s = .next { walked with publs := line, groups := walked.groups.put cx.gid g } ∧ cx.grp.KeepsAll g
          ∧ g = cx.grp.modTag cx.sp.tag fun sp =>
            { sp with state := .parked, windows := sp.windows.filter fun w => w.tag != publTag, parkOn := [publTag] })
      ∧ ((∀ p ∈ pages, (walked.publishable cx.asid p).isSome ∧ walked.migration cx.asid p = none) → line.head? = some cx.waiter →
        walked.releaseWaits cx 5 = false → cx.grp.postedFault = none → walked.accessesOut (fun _ _ pa => inFrame pa) = false →
        ∃ t g w, exec (.publ a) s = .next (t.publDone line) ∧ w.mem = (pages.foldl (fun s p => s.swapTwin cx.asid p) walked).mem
          ∧ Issued w t cx g (s.weight cx.core 28) Split.retire ∧ cx.grp.KeepsAll g
          ∧ (∀ c e, e ∈ (t.core c).tlb →
              ¬ (e.asid = cx.asid ∧ e.vpage * 2 ^ e.bits < base + 65536 * count ∧ base < (e.vpage + 1) * 2 ^ e.bits))
          ∧ ∀ c l, l ∈ (t.core c).l1 → inFrame (128 * l.1) = false)))
  ∧ ∀ (s : State) (asid page : Nat) (pte twin : DWord) (at_ : Nat), s.publishable asid page = some (pte, at_, twin) → Memory.wf s.mem = true →
    (∀ i < 8, ∀ j < 8, s.redirect (at_ + i) ≠ s.redirect (at_ + 256 + j)) → s.Reaches .system at_ 8 → s.Reaches .system (at_ + 256) 8 →
    (s.swapTwin asid page).physRead at_ 8 = (twin ||| 0x80).toNat
    ∧ (s.swapTwin asid page).physRead (at_ + 256) 8 = (pte &&& ~~~ 0x80).toNat
    ∧ ∀ a, (∀ i < 8, s.redirect a ≠ s.redirect (at_ + i) ∧ s.redirect a ≠ s.redirect (at_ + 256 + i)) →
        (s.swapTwin asid page).physByte a = s.physByte a)

/-- R385, R390, R392, R393, R405 to R407: PDEF defines, changes or removes a polder and moves polder 0's set, whose drain its split awaits; PRESIZE
gives a polder a new set; PSTAT reads one. -/
def Obligations.PolderInstructions : Prop :=
  (∀ (a : BitVec 6) (s u v : State) (cx : Cx) (bs gs : List Byte) (grant : BitVec 4096), Admits s cx { gr := [a.toNat], firmware := true, memory := true } →
    s.readRecord cx true (cx.grp.greg a.toNat) 32 32 (cx.grp.greg a.toNat) = .bytes u bs →
    let d := polderDescOf bs
    (d.valid = true → u.readRecord cx true (BitVec.ofNat 64 d.grantAddr) 512 64 (BitVec.ofNat 64 d.grantAddr) = .bytes v gs
      ∧ grant = shareMap gs) → (d.valid = false → v = u ∧ grant = 0) →
    (v.pdefOk d grant = false → exec (.pdef a) s = .next (v.trapAll cx .perm (cx.grp.greg a.toNat)))
    ∧ (v.pdefOk d grant = true → ∃ t g, exec (.pdef a) s = .next t ∧ cx.grp.KeepsAll g
      ∧ Issued (v.definePolder d grant) t cx g (s.weight cx.core 28) (fun sp =>
          if (v.definePolder d grant).zero.state = .resizing then
            { sp.retire with
              state := .parked, parkOn := [zeroTag], windows := sp.retire.windows.filter fun w => w.tag != zeroTag }
          else sp.retire)))
  ∧ (∀ (s : State) (d : PolderDesc) (grant had : BitVec 4096), had = ((s.polders.look d.id).map Polder.grant).getD 0 → d.id ≠ 0 →
    let t := s.definePolder d grant
    let set := (s.zero.current ||| (had &&& ~~~ grant)) &&& ~~~ (grant &&& ~~~ had)
    t.zero.current = set ∧ (set ≠ s.zero.current → t.zero.state = .resizing)
    ∧ (d.valid = false → t.polders.look d.id = none)
    ∧ (d.valid = true → s.polders.look d.id = none → t.polders.look d.id = some
        { state := .empty, owner := d.owner, near := d.near, isNear := d.isNear, repl := d.repl, wpol := d.wpol, assoc := d.assoc
          line := d.line, grant := grant, current := 0 })
    ∧ (∀ p, d.valid = true → s.polders.look d.id = some p →
        t.polders.look d.id = some { p with owner := d.owner, wpol := d.wpol, repl := d.repl, grant := grant })
    ∧ (∀ k, k ≠ 0 → k ≠ d.id → t.polders.look k = s.polders.look k) ∧ t = { s with polders := t.polders })
  ∧ (∀ (a b : BitVec 6) (s u : State) (cx : Cx) (bs : List Byte) (p : Polder), Admits s cx { gr := [a.toNat, b.toNat], ends := true, memory := true } →
    let x := (cx.grp.greg a.toNat).toNat
    let caddr := Memory.toNat ((bs.drop 0x200).take 8)
    let write : ResizeWrite :=
      { asid := cx.asid, addr := BitVec.ofNat 64 caddr, value := BitVec.ofNat 32 (Memory.toNat ((bs.drop 0x208).take 4)), pc := cx.sp.pc
        lanes := cx.sp.mask, kernel := cx.team.kernel, team := cx.team.linear, group := cx.grp.index, split := cx.k, core := cx.core
        firmware := cx.sp.firmware }
    0 < x → x ≤ 255 → s.polders.look x = some p → u.polders = s.polders → p.owner = cx.asid ∨ cx.sp.firmware = true →
    s.readRecord cx cx.sp.firmware (cx.grp.greg b.toNat) 576 64 (cx.grp.greg b.toNat) = .bytes u bs →
    caddr < 2 ^ 56 → caddr % 4 = 0 → (∀ k < 52, bs.getD (0x20C + k) 0 = 0) → shareMap (bs.take 512) &&& ~~~ p.grant = 0 →
    (p.state = .resizing → ∃ t g, exec (.presize a b) s = .next t ∧ cx.grp.KeepsAll g
      ∧ Issued u t cx g (s.weight cx.core 28) (Split.waits (.resize x)))
    ∧ (p.state ≠ .resizing → shareMap (bs.take 512) ≠ p.current → ∃ t g, exec (.presize a b) s = .next t ∧ cx.grp.KeepsAll g
      ∧ Issued { u with polders := u.polders.put x { p with
            state := .resizing, old := if p.asZero then u.zero.current else p.current, oldSpread := p.asZero
            current := shareMap (bs.take 512), completion := some write } } t cx g
          (s.weight cx.core 28) Split.retire)
    ∧ (p.state ≠ .resizing → shareMap (bs.take 512) = p.current → ∃ t g, exec (.presize a b) s = .next (t.endResize x) ∧ cx.grp.KeepsAll g
      ∧ Issued { u with polders := u.polders.put x { p with
            state := .resizing, old := if p.asZero then u.zero.current else p.current, oldSpread := p.asZero
            current := p.current, completion := some write } } t cx g
          (s.weight cx.core 28) Split.retire))
  ∧ ∀ (a b : BitVec 6) (s : State) (cx : Cx), Admits s cx { gr := [a.toNat], gw := [b.toNat] } →
    let x := (cx.grp.greg a.toNat).toNat
    (255 < x → Raises (.pstat a b) s cx .perm cx.sp.mask (cx.grp.greg a.toNat) 0 cx.sp.pc 0)
    ∧ (x ≤ 255 → ∃ t g, exec (.pstat a b) s = .next t ∧ RegsOnly s t cx g (s.weight cx.core 28)
        ∧ (g.greg b.toNat = ((s.polders.look x).map fun p => BitVec.ofNat 64
            (Bits.popcount p.current * 2 ^ 48 + Bits.popcount p.grant * 2 ^ 32 + p.owner % 65536 * 2 ^ 16 + p.line * 2 ^ 14
              + p.assoc * 2 ^ 12 + p.wpol * 2 ^ 10 + p.isNear.toNat * 2 ^ 9 + p.repl * 2 ^ 7 + p.degraded.toNat * 2 ^ 6
              + (if p.state = .empty then 1 else if p.state = .active then 2 else 3))).getD 0)
        ∧ cx.grp.KeepsG g [b.toNat] ∧ cx.grp.KeepsV g 0 0 ∧ cx.grp.KeepsM g [] ∧ cx.grp.KeepsJ g [] ∧ g.fflags = cx.grp.fflags)

/-- R414 to R416: the pager's answers. A request that it resolves or fails is gone; a split parked at a fetch goes on, or traps PAGE; an installed page
holds the bytes given, under its new leaf.

R420 to R422: migration. The pager marks a page; the engines move its lines, each of which reads the same before and after; once all are moved the
page's leaf names the new frame; an abort moves them back, and poisons a line that cannot be read back. A line that goes to a peer is sent there
word by word. While a checkpoint runs, migrations wait (R491). -/
def Obligations.PagerAndMigration : Prop :=
  (
  (∀ (s : State) (asid page gid tag : Nat) (q : PageReq) (cx : Cx), s.openRequest asid page = some q → q.requesters = [.split gid tag] →
    s.cxByTag gid tag = some cx → cx.team.state = .resident → cx.sp.state = .faulted → s.faultTags cx.core gid tag = [] →
    let u := { s with pageReqs := s.pageReqs.filter fun q => !(q.asid == asid && q.page == page) }
    exec (.pagerResolved asid page) s = .next
      { u with groups := s.groups.put gid (cx.grp.modTag tag fun sp => { sp with state := .ready, idle := 0 }) }
    ∧ (s.owed cx.core gid tag = [] → cx.grp.res.look cx.k = some cx.sp →
        ∃ t, exec (.pagerFailed asid page) s = .next t ∧ Delivered u t cx .page cx.sp.mask cx.sp.faultAddr 0 cx.sp.pc 0 s.time))
  ∧ ∀ (s : State) (asid page leaf : Nat) (fill : List Byte) (c : Ctx) (entry : DWord) (at_ : Nat), s.ctxs.look asid = some c →
    s.openRequest asid page = none → s.walk c (page * 65536) = .absent 4 entry at_ → entry.getLsbD 5 = false →
    let pte : DWord := BitVec.ofNat 64 leaf
    pte.getLsbD 0 = true → pte.getLsbD 1 = true → pte.getLsbD 6 = false → s.leafOk pte 4 = true →
    (∀ k < 65536, ∀ d, s.paKind (leafFrame pte + k) ≠ .peer d) → s.Reaches .system at_ 8 → fill.length ≤ 65536 → Memory.wf s.mem = true → (∀ i < 8, ∀ j < 65536, s.redirect (at_ + i) ≠ s.redirect (leafFrame pte + j)) →
    ∃ t, exec (.pagerInstall asid page leaf fill) s = .next t ∧ t.physBytes (leafFrame pte) fill.length = fill
      ∧ t.physRead at_ 8 = pte.toNat
      ∧ (∀ a, (∀ i < 8, s.redirect a ≠ s.redirect (at_ + i)) → (∀ j < fill.length, s.redirect a ≠ s.redirect (leafFrame pte + j)) →
          t.physByte a = s.physByte a)
      ∧ t.groups = s.groups ∧ t.teams = s.teams)
  ∧ (
  (∀ (s : State) (asid page frame : Nat) (pte : DWord) (at_ : Nat), s.leafAt asid page = some (pte, at_) → pte.getLsbD 7 = false →
    pte.getLsbD 6 = false → s.migrations.length < 8 → s.checkpointing = false → s.rangeKind (frame * 65536) ≠ .nothing → frame < 2 ^ 36 →
    ∃ t, exec (.migrationStart asid page frame) s = .next t
      ∧ t.migrations = s.migrations ++ [{ asid := asid, page := page, frame := leafFrame pte / 65536, target := frame }]
      ∧ (∀ m, m ∈ t.pmigs ↔ m ∈ s.pmigs ∧ ¬ (m.1 = asid ∧ m.2.1 = page))
      ∧ t.groups = s.groups ∧ t.teams = s.teams)
  ∧ (∀ (s : State) (m : Migration), s.migrations = [m] → m.frame ≠ m.target → Memory.wf s.mem = true → s.checkpointing = false →
    (∀ k < 512, ∀ d, s.rangeKind (m.frame * 65536 + 128 * k) ≠ .peer d ∧ s.rangeKind (m.target * 65536 + 128 * k) ≠ .peer d) →
    (m.aborting = false → m.bound < 512 → ∃ t, exec (.migrateLine m.asid m.page true) s = .next t
      ∧ t.migrations = [{ m with bound := m.bound + 1 }] ∧ t.groups = s.groups
      ∧ ∀ a, (∀ k < 128, a ≠ m.target * 65536 + 128 * m.bound + k) → t.physByte a = s.physByte a)
    ∧ (m.aborting = true → 1 < m.bound → ∃ t, exec (.migrateLine m.asid m.page true) s = .next t
      ∧ t.migrations = [{ m with bound := m.bound - 1 }] ∧ t.groups = s.groups
      ∧ ∀ a, t.physByte a = s.physByte a)
    ∧ (m.aborting = true → 1 < m.bound → ∃ t, exec (.migrateLine m.asid m.page false) s = .next t
      ∧ t.migrations = [{ m with bound := m.bound - 1 }] ∧ t.groups = s.groups ∧ t.mem = s.mem
      ∧ ∀ a, (∃ k < 128, a = m.frame * 65536 + 128 * (m.bound - 1) + k) → t.physPoisoned a 1 = true))
  ∧ (∀ (s : State) (m : Migration) (d : Nat), s.migrations = [m] → s.checkpointing = false → m.aborting = false → m.bound < 512 →
    (∀ e, s.rangeKind (m.frame * 65536 + 128 * m.bound) ≠ .peer e) → s.rangeKind (m.target * 65536 + 128 * m.bound) = .peer d →
    ∃ t, exec (.migrateLine m.asid m.page true) s = .next t ∧ t.migrations = [{ m with bound := m.bound + 1 }] ∧ t.groups = s.groups
      ∧ t.mem = s.mem
      ∧ t.sent = s.sent ++ (List.range 16).map fun k =>
          .write d ((m.target * 65536 + 128 * m.bound + 8 * k) % 2 ^ 40)
            (((Memory.bytes s.mem (m.frame * 65536 + 128 * m.bound) 128).drop (8 * k)).take 8)
            (s.memPoison.contains ((m.frame * 65536 + 128 * m.bound) / 8 + k)))
  ∧ (∀ (s : State) (asid page : Nat) (readable : Bool), s.checkpointing = true →
    exec (.migrateLine asid page readable) s = .next s ∧ exec (.migrationFinish asid page) s = .next s)
  ∧ (∀ (s : State) (asid page : Nat) (m : Migration) (pte : DWord) (at_ : Nat), s.migration asid page = some m → m.bound = 512 → m.aborting = false →
    s.checkpointing = false → s.accessesOut (fun _ _ pa => pa / 65536 == m.frame) = false → s.leafAt asid page = some (pte, at_) → leafFrame pte / 65536 = m.frame →
    pte.getLsbD 6 = true →
    ∃ t : State, exec (.migrationFinish asid page) s = .next t.wakePubl ∧ (∀ x ∈ t.migrations, ¬ (x.asid = asid ∧ x.page = page))
      ∧ (s.rangeKind (m.frame * 65536) = .device → t.classes.look m.frame = none)
      ∧ (Memory.wf s.mem = true → s.Reaches .system at_ 8 → (∀ k < 8, (at_ + k) / 65536 ≠ m.frame) → m.target < 2 ^ 36 →
          t.physRead at_ 8 = (pte.extractLsb' 52 12 ++ BitVec.ofNat 36 m.target ++ (pte &&& ~~~ 0x40).extractLsb' 0 16 : DWord).toNat)
      ∧ (∀ c e, e ∈ (t.core c).tlb → ¬ (e.asid = asid ∧ e.vpage * 2 ^ e.bits < page * 65536 + 65536 ∧ page * 65536 < (e.vpage + 1) * 2 ^ e.bits))
      ∧ t.groups = s.groups)
  ∧ ∀ (s : State) (asid page : Nat) (m : Migration), s.migration asid page = some m →
    (0 < m.bound → exec (.migrationAbort asid page) s = .next { s with
      migrations := s.migrations.map fun x => if x.asid == asid && x.page == page then { x with aborting := true } else x })
    ∧ (m.bound = 0 → ∃ t, exec (.migrationAbort asid page) s = .next t ∧ (∀ x ∈ t.migrations, ¬ (x.asid = asid ∧ x.page = page))
        ∧ Report.migrationFailed page ∈ t.reports))

/-! ### Queues, regions and deferred releases -/

/-- R185 to R187, R200: QPOST puts an entry in its queue's next slot and advances the tail, or waits while the queue is full or a split that came
before it waits; QSTAT reads the queue; KABORT ends the issuing group's kernel with a code. A queue that the context may not name raises PERM.
That a tail word outside device memory raises PERM too is the model's choice (log entry 61). -/
def Obligations.QueueInstructions : Prop :=
  (∀ (a b : BitVec 6) (s : State) (cx : Cx), Admits s cx { gr := [a.toNat, b.toNat], ends := true, memory := true } →
    let id := (cx.grp.greg a.toNat).toNat
    let src := cx.grp.greg b.toNat
    let takes := fun (q : Queue) => id ≤ 1023 ∧ s.queues.look id = some q ∧ q.asid = cx.asid ∧ q.state ≠ .created ∧ q.poster = true
    let check := s.checkGlobal cx.core cx.asid cx.sp.firmware src.toNat 128 128 .read
    let waits := fun (u : State) (q : Queue) => ∃ g, exec (.qpost a b) s = .next { u with
        groups := u.groups.put cx.gid g
        queues := u.queues.put id { q with
          posts := if cx.waiter ∈ s.postLine q then s.postLine q else s.postLine q ++ [cx.waiter] } }
      ∧ g = cx.grp.modTag cx.sp.tag (Split.waits (.post id))
    ((¬ ∃ q, takes q) → Raises (.qpost a b) s cx .perm cx.sp.mask 0 0 cx.sp.pc 0)
    ∧ ∀ q, takes q →
      let first := s.postLine q = [] ∨ (s.postLine q).head? = some cx.waiter
      let walked := s.walkIf q.asid (q.entryAddr q.tail) 128 128
      (∀ c, check = .cause c → c ≠ .page → ∃ u, s.Translated u cx ∧ RaisesFrom (.qpost a b) s u cx c cx.sp.mask src 0 cx.sp.pc 0)
      ∧ ((∀ c, check ≠ .cause c) → s.releaseWaits cx 5 = false → cx.grp.postedFault = none →
        (2 ^ q.logsize ≤ (q.tail - q.head).toNat ∨ ¬ first → waits s q)
        ∧ ((q.tail - q.head).toNat < 2 ^ q.logsize → first →
          (∀ va, s.postFault q = some (.page, va) → waits (walked.pageRequest q.asid va .write (.post id)) q)
          ∧ (∀ c va, s.postFault q = some (c, va) → c ≠ .page →
              (s.postLine q = [] → ∃ u, s.Translated u cx
                ∧ RaisesFrom (.qpost a b) s u cx .perm cx.sp.mask (BitVec.ofNat 64 va) 0 cx.sp.pc 0)
              ∧ (s.postLine q ≠ [] → exec (.qpost a b) s
                  = .next ((walked.trapAll cx .perm (BitVec.ofNat 64 va)).postDone cx id (s.postLine q))))
          ∧ ∀ u bs, s.postFault q = none → s.readRecord cx cx.sp.firmware src 128 128 src = .bytes u bs →
              ∃ t g, exec (.qpost a b) s = .next (t.postDone cx id (s.postLine q)) ∧ cx.grp.KeepsAll g
                ∧ Issued (u.postEntry id q bs) t cx g (s.weight cx.core 27) Split.retire
                ∧ (s.postLine q = [] → t.postDone cx id (s.postLine q) = t))))
  ∧ (∀ (s v : State) (id : Nat) (q : Queue) (bs : List Byte) (pa tail : Nat), s.queues.look id = some q → bs.length = 128 →
      let slot := (q.ringBase.toNat + 128 * (q.tail.toNat % 2 ^ q.logsize)) % 2 ^ 64
      s.Maps q.asid slot 128 128 .write pa → v = (s.writeAs .system q.asid slot 128 bs).1 → v.Maps q.asid q.tailAddr.toNat 8 8 .write tail →
      let t := s.postEntry id q bs
      s.Stored v pa bs ∧ v.Stored t tail (Memory.ofNat 8 (q.tail + 1).toNat)
      ∧ t.QueuesAre (s.queues.put id { q with
          tail := q.tail + 1
          state := if q.state = .armed ∨ q.state = .running then (if q.tail + 1 = q.head then .armed else .running) else q.state })
      ∧ (∃ q', t.queues.look id = some q' ∧ q'.tailHit = q.tailHit) ∧ s.OnlyMemory t)
  ∧ (∀ (a b : BitVec 6) (s : State) (cx : Cx), Admits s cx { gr := [a.toNat], gw := [b.toNat] } →
      let id := (cx.grp.greg a.toNat).toNat
      ((¬ ∃ q, id ≤ 1023 ∧ s.queues.look id = some q ∧ q.asid = cx.asid) → Raises (.qstat a b) s cx .perm cx.sp.mask 0 0 cx.sp.pc 0)
      ∧ ∀ q, id ≤ 1023 → s.queues.look id = some q → q.asid = cx.asid →
        ∃ t g, exec (.qstat a b) s = .next t ∧ RegsOnly s t cx g (s.weight cx.core 27)
          ∧ (g.greg b.toNat = BitVec.ofNat 64 (
              q.prio * 2 ^ 53 + (s.kernels.filter fun k => k.2.queue == id).length * 2 ^ 48 + q.reason * 2 ^ 40
                + (match q.state with
                  | .created => 0
                  | .armed => 1
                  | .running => 2
                  | .draining => 3
                  | .suspended => 4
                  | .faulted => 5) * 2 ^ 32
                + (q.tail - q.head).toNat % 2 ^ 32))
          ∧ cx.grp.KeepsG g [b.toNat] ∧ cx.grp.KeepsV g 0 0 ∧ cx.grp.KeepsM g [] ∧ cx.grp.KeepsJ g [] ∧ g.fflags = cx.grp.fflags)
  ∧ (∀ (a : BitVec 6) (s : State) (cx : Cx), Admits s cx { gr := [a.toNat] } →
      ∃ t g, exec (.kabort a) s = .next (t.abortKernel cx.team.kernel ((cx.grp.greg a.toNat).setWidth 32))
        ∧ RegsOnly s t cx g (s.weight cx.core 27) ∧ cx.grp.KeepsAll g)
  ∧ ∀ (s : State) (kseq : Nat) (code : Word) (k : Kernel), s.kernels.look kseq = some k → Map.sorted s.teams = true →
      let t := s.abortKernel kseq code
      (∃ k', t.kernels.look kseq = some k' ∧ k'.nextTeam = k.launch.teams ∧ (k'.state = .aborting ∨ k'.state = .retiring)
        ∧ k'.completion = if k.state = .placing ∨ k.state = .running then code else k.completion)
      ∧ (∀ uid tm, t.teams.look uid = some tm → tm.kernel = kseq → tm.retired = true ∨ tm.state = .ending)
      ∧ t.mem = s.mem ∧ t.queues = s.queues ∧ t.ctxs = s.ctxs

/-- R170, R171, R446, R439 to R441: REGION writes its group's region slot and sets the region flag, which REGX clears; GPFREE puts an entry in the
spill area under the target it requests, or waits while the area is full; the tide machine moves an entry whose target is reached to the
release ring. -/
def Obligations.RegionsAndDeferral : Prop :=
  (∀ (a : BitVec 6) (n : BitVec 4) (s : State) (cx : Cx) (va : Nat), a.toNat + n.toNat ≤ 63 →
    Admits s cx { gr := regRun a.toNat (n.toNat + 1), ends := true, memory := true } →
    va = cx.ctx.regbase.toNat + cx.team.slot * 8192 + cx.grp.index * 256 →
    (∀ c, s.checkGlobal cx.core cx.asid true va 256 256 .write = .cause c → c ≠ .page →
      ∃ u, s.Translated u cx ∧ RaisesFrom (.region a n) s u cx c cx.sp.mask (BitVec.ofNat 64 va) 0 cx.sp.pc 0)
    ∧ ∀ pa pte bits, s.checkGlobal cx.core cx.asid true va 256 256 .write = .ok pa pte bits →
      (s.learn cx.core cx.asid va).homeReady (.core cx.core) pa true = true →
      ∃ w t g, exec (.region a n) s = .next t ∧ cx.grp.KeepsAll g
        ∧ Issued w t { cx with grp := { cx.grp with region := true } } g (s.weight cx.core 27) Split.retire
        ∧ State.OnlyMemory { s with cores := w.cores, chips := w.chips } w
        ∧ (Memory.wf s.mem = true → (∀ d, s.paKind pa ≠ .peer d) →
          w.physRead pa 8 = (cx.sp.pc + 4).toNat ∧ w.physRead (pa + 8) 1 = n.toNat + 16 * cx.grp.depth.toNat ∧ w.physRead (pa + 9) 1 = a.toNat
          ∧ (∀ k ≤ n.toNat, w.physRead (pa + 16 + 8 * k) 8 = (cx.grp.greg (a.toNat + k)).toNat)
          ∧ ∀ x, (∀ k < 256, s.redirect x ≠ s.redirect (pa + k)) → w.physByte x = s.physByte x))
  ∧ (∀ (s : State) (cx : Cx), Admits s cx {} →
      ∃ t g, exec .regx s = .next t ∧ cx.grp.KeepsAll g
        ∧ Issued s t { cx with grp := { cx.grp with region := false } } g (s.weight cx.core 27) Split.retire)
  ∧ (∀ (a b : BitVec 6) (s : State) (cx : Cx), Admits s cx { gr := [a.toNat, b.toNat], memory := true } →
      (s.spillways.look cx.asid = none → Raises (.gpfree a b) s cx .perm cx.sp.mask cx.ctx.spillbase 0 cx.sp.pc 0)
      ∧ ∀ (w : Spillway) (u : State) (bs : List Byte) (d : SpillDesc), s.spillways.look cx.asid = some w →
        s.readRecord cx true cx.ctx.spillbase 64 64 cx.ctx.spillbase = .bytes u bs → spillDescOf bs = some d →
        u.ringElsewhere cx.asid d = false → u.releaseWaits cx 4 = false →
        (2 ^ d.splog ≤ w.tail - w.head → ∃ t g, exec (.gpfree a b) s = .next t ∧ cx.grp.KeepsAll g
          ∧ Issued u t cx g (s.weight cx.core 27) fun sp => { Split.waits .spill sp with windows := cx.sp.windows })
        ∧ ∀ pa, w.tail - w.head < 2 ^ d.splog → u.Maps cx.asid (d.spbase + 32 * (w.tail % 2 ^ d.splog)) 32 32 .write pa →
          ∃ v t g, exec (.gpfree a b) s = .next t ∧ cx.grp.KeepsAll g ∧ Issued v t cx g (s.weight cx.core 27) Split.retire
            ∧ u.Stored v pa (Memory.ofNat 8 (cx.grp.greg a.toNat).toNat ++ Memory.ofNat 8 (cx.grp.greg b.toNat).toNat
                ++ Memory.ofNat 8 (s.tide + if s.grace = none then 1 else 2).toNat ++ Memory.ofNat 8 0)
            ∧ State.OnlyMemory (if s.grace = none then
                  { u with grace := some {}, spillways := u.spillways.put cx.asid { w with tail := w.tail + 1 } }
                else { u with graceQueued := true, spillways := u.spillways.put cx.asid { w with tail := w.tail + 1 } }) v)
  ∧ ∀ (s : State) (asid base entry ring headAt head : Nat) (w : Spillway) (d : SpillDesc), s.spillways.look asid = some w →
      w.stopped = false → w.starting = false → s.checkpointing = false → w.head < w.tail → s.Maps asid w.base.toNat 64 64 .read base →
      spillDescOf (s.physBytes base 64) = some d → s.Maps asid (d.spbase + 32 * (w.head % 2 ^ d.splog)) 32 32 .read entry →
      (s.tide.toNat < s.physRead (entry + 16) 8 → ∃ t, exec (.spillMove asid) s = .next t ∧ s.OnlyMemory t ∧ t.mem = s.mem)
      ∧ (s.physRead (entry + 16) 8 ≤ s.tide.toNat → s.Maps asid d.rrhead 8 8 .read headAt → head = s.physRead headAt 8 →
        w.ringHead ≤ head → head ≤ w.ringTail → w.ringTail - head < 2 ^ d.rrlog →
        s.Maps asid (d.rrbase + 16 * (w.ringTail % 2 ^ d.rrlog)) 16 16 .write ring →
        ∃ v t, exec (.spillMove asid) s = .next t ∧ s.Stored v ring (s.physBytes entry 16)
          ∧ ∀ tail, v.Maps asid d.rrtail 8 8 .write tail → v.Stored t tail (Memory.ofNat 8 (w.ringTail + 1))
            ∧ t.spillways = s.spillways.put asid { w with head := w.head + 1, ringTail := w.ringTail + 1, ringHead := head }
            ∧ State.OnlyMemory { s with spillways := t.spillways, groups := t.groups } t ∧ s.KeepsGroups t)

/-! ### The dispatcher, the placer and kernels -/

/-- R174, R175, R178, R179, R183, R193: the dispatcher. An arbitration takes nothing within 50 ns of the last take or during a checkpoint; else it
validates the heads and takes, of the queues with a ready head, the one of highest priority and then the next in rotation. A launch taken
enters the kernel table under the next sequence number, and the head word counts it. A write to a watched line brings the tail.

R180, R184, R194 to R196, R198, R199: kernels. The placer offers resources to the kernels by priority and age: the first whose band fits is
placed, with its teams' groups at the kernel's code; the others are passed over, and one passed over for 1 ms blocks those behind it. A
kernel with no team left writes its completion word and is gone. -/
def Obligations.DispatchAndKernels : Prop :=
  (
  (∀ (s : State), s.checkpointing = true ∨ (∃ t, s.lastTake = some t ∧ s.time.toNat < t + 50) → exec .dispatchArbitration s = .next s)
  ∧ (∀ (s u : State), s.checkpointing = false → (∀ t, s.lastTake = some t → t + 50 ≤ s.time.toNat) →
      u = s.queues.keys.foldl State.validateHead s → Map.sorted u.queues = true → (∀ p ∈ u.queues, p.1 < 1024 ∧ p.2.prio < 8) →
      (∀ p < 8, Bits.rd u.lastServed p 1023 < 1024) →
      ((∀ p ∈ u.queues, u.takeable p.1 p.2 = false) → exec .dispatchArbitration s = .next u)
      ∧ ∀ id q, u.queues.look id = some q → u.takeable id q = true →
        (∀ p ∈ u.queues, u.takeable p.1 p.2 = true → p.2.prio < q.prio ∨ (p.2.prio = q.prio
          ∧ (id + 1023 - Bits.rd u.lastServed q.prio 1023) % 1024 ≤ (p.1 + 1023 - Bits.rd u.lastServed q.prio 1023) % 1024)) →
        exec .dispatchArbitration s = .next (u.takeEntry id q))
  ∧ (∀ (s : State) (id : Nat) (q : Queue) (c : Ctx) (r : Reason), s.queues.look id = some q → s.pagerWait id = false →
      q.headUnwritten = false → q.state = .running → s.ctxs.look q.asid = some c → c.state = .active → s.headEnd id q = .fault r →
      ∃ u, State.OnlyMemory { s with fresh := u.fresh } u ∧ u.mem = s.mem ∧ s.validateHead id = { u with queues := s.queues.put id { q with
        state := .faulted
        reason := match r with
          | .type => 1
          | .reserved => 2
          | .wait => 3
          | .shape => 4
          | .record => 5
          | .fetch => 6
          | .tail => 7
          | .cwrite => 8 } })
  ∧ (∀ (s : State) (id : Nat) (q : Queue) (bs : List Byte) (l : Launch) (pa : Nat), s.queues.look id = some q → q.state = .running →
      s.headEnd id q = .launch bs l → s.Maps q.asid q.headAddr.toNat 8 8 .write pa →
      let t := s.takeEntry id q
      s.Stored t pa (Memory.ofNat 8 (q.head + 1).toNat)
      ∧ t.QueuesAre (s.queues.put id { q with
          head := q.head + 1, state := if q.tail = q.head + 1 then .armed else .running, headUnwritten := false })
      ∧ t.kernels = s.kernels.put s.nextSeq { launch := l, queue := id, asid := q.asid, completion := l.cval }
      ∧ State.OnlyMemory { s with
          kernels := t.kernels, nextSeq := s.nextSeq + 1, groups := t.groups
          lastServed := Bits.wr s.lastServed q.prio id, lastTake := some s.time.toNat } t
      ∧ s.KeepsGroups t)
  ∧ ∀ (s : State) (addr n id : Nat) (q : Queue), Map.sorted s.queues = true → s.queues.look id = some q → q.state ≠ .created →
      let word := s.watchedTail q
      let touched := if q.poster = true then addr < word + 8 ∧ word < addr + n
        else addr / 128 ≤ word / 128 ∧ word / 128 ≤ (addr + n - 1) / 128
      ∃ t, exec (.watchedLineWrite addr n) s = .next t ∧ State.OnlyMemory { s with pageReqs := t.pageReqs } t ∧ t.mem = s.mem
        ∧ (¬ touched → t.queues.look id = some q)
        ∧ (touched →
          (q.poster = true → q.state ≠ .faulted → t.queues.look id = some { q with state := .faulted, reason := 7, tailHit := false })
          ∧ ∀ pa, q.poster = false → q.state = .armed ∨ q.state = .running → s.Maps q.asid q.tailAddr.toNat 8 8 .read pa →
            s.paKind pa = .device →
            (q.head.toNat ≤ s.physRead pa 8 → s.physRead pa 8 ≤ q.head.toNat + 2 ^ q.logsize → t.queues.look id = some { q with
              tail := BitVec.ofNat 64 (s.physRead pa 8), tailPa := pa, tailHit := false
              state := if s.physRead pa 8 = q.head.toNat then .armed else .running })
            ∧ (s.physRead pa 8 < q.head.toNat ∨ q.head.toNat + 2 ^ q.logsize < s.physRead pa 8 →
              t.queues.look id = some { q with state := .faulted, reason := 7, tailHit := false })))
  ∧ (
  (∀ (s : State) (kseq : Nat) (k : Kernel) (rest : List (Nat × Kernel)), s.offerOrder = (kseq, k) :: rest → s.kernels.look kseq = some k →
      s.placeable k = true → s.wantsPlace kseq k = true →
      (∀ u, s.placeBand kseq k = some u → exec .placerOffer s
        = .next { u with kernels := u.kernels.upd kseq fun k => { k with passedSince := none, blocking := false } })
      ∧ (s.placeBand kseq k = none → k.blocking = true → exec .placerOffer s
        = .next { s with kernels := s.kernels.put kseq { k with passedSince := some (k.passedSince.getD s.time.toNat) } })
      ∧ (s.placeBand kseq k = none → k.blocking = false → rest = [] → exec .placerOffer s
        = .next { s with kernels := s.kernels.put kseq { k with passedSince := some (k.passedSince.getD s.time.toNat) } }))
  ∧ (∀ (s : State) (kseq o : Nat) (k : Kernel) (slots : List Nat) (pre post : List Nat), s.kernels.look kseq = some k →
      (∀ p ∈ s.teams, p.2.kernel = kseq → p.2.retired = true ∨ (p.2.state ≠ .saved ∧ p.2.state ≠ .reenqueued)) →
      s.freeSlots k.asid k.launch.bandSize = some slots → s.rectOrder k.launch = pre ++ o :: post →
      (∀ x ∈ pre, ∃ b < k.launch.bandSize, s.hasRoom (rectCore k.launch x b) k.launch = false) →
      (∀ b < k.launch.bandSize, s.hasRoom (rectCore k.launch o b) k.launch = true) → k.launch.vregs ≤ 64 →
      ∃ u, s.placeBand kseq k = some u ∧ u.uid = s.uid + k.launch.bandSize ∧ u.cursor = some (o / 12, o % 12) ∧ u.mem = s.mem
        ∧ (∃ k', u.kernels.look kseq = some k' ∧ k'.nextTeam = k.nextTeam + k.launch.bandSize)
        ∧ ∀ b < k.launch.bandSize, (∃ t, u.teams.look (s.uid + b) = some t
            ∧ t = { kernel := kseq, linear := k.nextTeam + b, slot := slots.getD b 0, core := rectCore k.launch o b
                    scratchBase := t.scratchBase, cdepth := k.launch.dmin + 1 }
            ∧ (b = 0 ∨ (∀ p ∈ s.teams, p.1 < s.uid) → t.scratchBase = s.spotOf (rectCore k.launch o b) k.launch))
          ∧ ∀ x < k.launch.groups, x < 32 → ∃ g, u.groups.look (32 * (s.uid + b) + x) = some g ∧ g.team = s.uid + b ∧ g.index = x
            ∧ g.res = [(0, { pc := k.launch.code, mask := BitVec.allOnes 32, tag := 0, age := s.slotNow (rectCore k.launch o b) })] ∧ g.state = .running ∧ g.depth = 0 ∧ g.region = false)
  ∧ (∀ (s : State) (kseq : Nat) (k : Kernel) (t : Nat), s.kernels.look kseq = some k → k.passedSince = some t →
      exec (.passOverTimeout kseq) s = .next (if t + 1000000 ≤ s.time.toNat then
        { s with kernels := s.kernels.put kseq { k with blocking := true } } else s))
  ∧ ∀ (s : State) (kseq : Nat) (k : Kernel) (q : Queue), s.kernels.look kseq = some k → s.queues.look k.queue = some q →
      (k.state ≠ .retiring ∨ (∃ p ∈ s.teams, p.2.kernel = kseq ∧ p.2.retired = false) → exec (.kernelDone kseq) s = .next s)
      ∧ (k.state = .retiring → (∀ p ∈ s.teams, p.2.kernel = kseq → p.2.retired = true) → k.silent = false →
        let gone := { s with
          kernels := s.kernels.del kseq
          queues := s.queues.put k.queue (if q.state = .draining ∧ (∀ p ∈ s.kernels, p.2.queue = k.queue → p.1 = kseq) then
            { q with state := .suspended } else q) }
        (k.launch.caddr = 0 → exec (.kernelDone kseq) s = .next gone)
        ∧ ∀ pa, k.launch.caddr ≠ 0 → s.Maps k.asid k.launch.caddr.toNat 4 4 .write pa →
          ∃ t, exec (.kernelDone kseq) s = .next t ∧ s.Stored t pa (Memory.ofNat 4 k.completion.toNat) ∧ gone.OnlyMemory t
            ∧ t.QueuesAre gone.queues))

/-- R182, R485 to R487, R200: the mailbox commands on queues. Each answers BAD_STATE, and changes nothing, in a state of the queue that R182 gives it
no row for. -/
def Obligations.QueueCommands : Prop :=
  (∀ (s : State) (p : List Byte) (q : Queue), s.Receives p [(0, 2), (2, 2)] → field p 0 2 ≤ 1023 → s.queues.look (field p 0 2) = some q →
    let id := field p 0 2
    let flying := ∃ k ∈ s.kernels, k.2.queue = id
    (q.asid ≠ field p 2 2 → ∀ i ∈ [Instr.qArm p, .qDrain p, .qSuspend p, .qResume p, .qSkip p, .qDestroy p], exec i s = .next (s.answer .perm))
    ∧ (q.asid = field p 2 2 →
      (q.state = .created → exec (.qArm p) s = .next ((s.rearm id).answer .ok))
      ∧ (q.state ≠ .created → exec (.qArm p) s = .next (s.answer .badState))
      ∧ (q.state = .armed ∨ q.state = .running ∨ q.state = .faulted →
          (flying → exec (.qDrain p) s
            = .next (({ s with queues := s.queues.put id { q with reason := 0, state := .draining } } : State).answer .ok))
          ∧ (¬ flying → exec (.qDrain p) s
            = .next (({ s with queues := s.queues.put id { q with reason := 0, state := .suspended } } : State).answer .ok)))
      ∧ (q.state = .created ∨ q.state = .draining ∨ q.state = .suspended → exec (.qDrain p) s = .next (s.answer .badState))
      ∧ (q.state = .created ∨ q.state = .suspended → exec (.qSuspend p) s = .next (s.answer .badState))
      ∧ (q.state ≠ .created → q.state ≠ .suspended → Map.sorted s.teams = true →
          ∃ t, exec (.qSuspend p) s = .next t
            ∧ t.queues = s.queues.put id { q with state := .suspended, reason := 0, suspending := true }
            ∧ t.mailbox = { s.mailbox with code := .background, background := some (.qsuspend id) } ∧ t.mem = s.mem ∧ s.KeepsGroups t
            ∧ ∀ uid tm k, s.teams.look uid = some tm → s.kernels.look tm.kernel = some k → k.queue = id → tm.state = .resident →
                tm.retired = false → ∃ tm', t.teams.look uid = some tm' ∧ (tm'.state = .saving ∨ tm'.state = .discarding))
      ∧ (q.state = .suspended → exec (.qResume p) s = .next ((s.rearm id).answer .ok))
      ∧ (q.state = .faulted → exec (.qResume p) s = .next (((s.rearm id).writeHead id).answer .ok))
      ∧ (q.state ≠ .suspended → q.state ≠ .faulted → exec (.qResume p) s = .next (s.answer .badState))
      ∧ (q.state = .faulted → exec (.qSkip p) s
          = .next ((((({ s with queues := s.queues.put id { q with head := q.head + 1 } } : State).rearm id).writeHead id).wakePosts id).answer .ok))
      ∧ (q.state ≠ .faulted → exec (.qSkip p) s = .next (s.answer .badState))
      ∧ (∃ t : State, exec (.qDestroy p) s = .next (((s.postLine q).foldl (fun (s : State) w => s.failPost id q.asid w) t).answer .ok)
          ∧ t.queues = s.queues.del id ∧ t.mem = s.mem ∧ t.ctxs = s.ctxs
          ∧ ∀ n k, s.kernels.look n = some k → k.queue = id → ∃ k', t.kernels.look n = some k' ∧ k'.silent = true ∧ k'.nextTeam = k.launch.teams)))
  ∧ (∀ (s : State) (id pa : Nat) (q : Queue), s.queues.look id = some q → q.poster = true → q.head.toNat ≤ q.tail.toNat →
      s.Maps q.asid q.tailAddr.toNat 8 8 .read pa → s.paKind pa = .device →
      (s.rearm id).queues = s.queues.put id { q with
        reason := 0, tailPa := pa, tailHit := false, state := if q.tail = q.head then .armed else .running }
      ∧ s.OnlyMemory (s.rearm id) ∧ (s.rearm id).mem = s.mem)
  ∧ (∀ (s : State) (id pa : Nat) (q : Queue), s.queues.look id = some q → q.poster = false → s.Maps q.asid q.tailAddr.toNat 8 8 .read pa →
      s.paKind pa = .device → q.head.toNat ≤ s.physRead pa 8 → s.physRead pa 8 ≤ q.head.toNat + 2 ^ q.logsize →
      (s.rearm id).queues = s.queues.put id { q with
        reason := 0, tail := BitVec.ofNat 64 (s.physRead pa 8), tailPa := pa, tailHit := false
        state := if s.physRead pa 8 = q.head.toNat then .armed else .running })
  ∧ (∀ (s : State) (id pa : Nat) (q : Queue), s.queues.look id = some q → s.Maps q.asid q.headAddr.toNat 8 8 .write pa →
      s.Stored (s.writeHead id) pa (Memory.ofNat 8 q.head.toNat)
      ∧ (s.writeHead id).QueuesAre (s.queues.put id { q with headUnwritten := false }) ∧ s.OnlyMemory (s.writeHead id))
  ∧ (∀ (s : State) (id : Nat) (q : Queue), s.queues.look id = some q → s.mailbox.background = some (.qsuspend id) →
      (s.teamsOn (fun k => k.queue == id) = true → exec (.qSuspendComplete id) s = .next s)
      ∧ (s.teamsOn (fun k => k.queue == id) = false → exec (.qSuspendComplete id) s = .next (({ s with
          queues := s.queues.put id { q with suspending := false } } : State).backgroundDone .ok)))
  ∧ (∀ (s : State) (p : List Byte) (c : Ctx) (d head tail : Nat), s.Receives p [(0, 2), (2, 2), (8, 8), (0x10, 8)] → field p 0 2 ≤ 1023 →
      s.queues.look (field p 0 2) = none → s.ctxs.look (field p 2 2) = some c → s.Maps (field p 2 2) (field p 8 8) 64 64 .read d →
      ∀ q, queueOf (field p 2 2) (s.physBytes d 64) (BitVec.ofNat 64 (field p 0x10 8)) = some q →
      s.Maps q.asid q.headAddr.toNat 8 8 .write head → s.Maps q.asid q.tailAddr.toNat 8 8 .write tail → s.paKind tail = .device →
      ∃ v, s.Stored v head (Memory.ofNat 8 (field p 0x10 8))
        ∧ (v.Maps q.asid q.tailAddr.toNat 8 8 .write tail → ∃ t, exec (.qCreate p) s = .next t
          ∧ v.Stored t tail (Memory.ofNat 8 (field p 0x10 8))
          ∧ t.QueuesAre (s.queues.put (field p 0 2) { q with tailPa := tail }) ∧ (s.answer .ok).OnlyMemory t))
  ∧ (∀ (asid : Nat) (bs : List Byte) (index : DWord) (q : Queue), queueOf asid bs index = some q →
      q.asid = asid ∧ q.head = index ∧ q.tail = index ∧ q.state = .created ∧ q.reason = 0 ∧ 1 ≤ q.maxk ∧ q.maxk ≤ 16 ∧ q.prio < 8
      ∧ 4 ≤ q.logsize ∧ q.logsize ≤ 15 ∧ q.ringBase.toNat % 4096 = 0 ∧ q.headAddr.toNat % 8 = 0 ∧ q.tailAddr.toNat % 8 = 0
      ∧ q.ringBase = BitVec.ofNat 64 (Memory.toNat (bs.take 8)))
  ∧ (∀ (s : State) (p : List Byte) (q : Queue), s.Receives p [(0, 2), (2, 2), (8, 128)] → field p 0 2 ≤ 1023 →
      s.queues.look (field p 0 2) = some q → q.asid = field p 2 2 →
      (q.state = .created → exec (.qPostHost p) s = .next (s.answer .badState))
      ∧ (q.state ≠ .created → q.poster = false → exec (.qPostHost p) s = .next (s.answer .perm))
      ∧ (q.state ≠ .created → q.poster = true → 2 ^ q.logsize ≤ (q.tail - q.head).toNat ∨ s.postLine q ≠ [] →
          exec (.qPostHost p) s = .next (s.answer .full))
      ∧ (q.state ≠ .created → q.poster = true → (q.tail - q.head).toNat < 2 ^ q.logsize → s.postLine q = [] → s.postFault q ≠ none →
          exec (.qPostHost p) s = .next ((s.walkIf q.asid (q.entryAddr q.tail) 128 128).answer .perm))
      ∧ (q.state ≠ .created → q.poster = true → (q.tail - q.head).toNat < 2 ^ q.logsize → s.postLine q = [] → s.postFault q = none →
          exec (.qPostHost p) s = .next ((s.postEntry (field p 0 2) q ((p.drop 8).take 128)).answer .ok
            (List.replicate 4 0 ++ Memory.ofNat 8 q.tail.toNat))))
  ∧ ∀ (s : State) (p : List Byte) (k : Kernel), s.Receives p [(0, 2), (8, 8), (0x10, 4)] → 0 < field p 8 8 → field p 8 8 < s.nextSeq →
      (s.kernels.look (field p 8 8) = none → exec (.kAbortHost p) s = .next (s.answer .badState))
      ∧ (s.kernels.look (field p 8 8) = some k →
        (k.state = .retiring → exec (.kAbortHost p) s = .next (s.answer .badState))
        ∧ (k.state ≠ .retiring → k.asid ≠ field p 0 2 → exec (.kAbortHost p) s = .next (s.answer .perm))
        ∧ (k.state ≠ .retiring → k.asid = field p 0 2 →
            exec (.kAbortHost p) s = .next ((s.abortKernel (field p 8 8) (BitVec.ofNat 32 (field p 0x10 4))).answer .ok)))

/-! ### Teams and contexts -/

/-- R156 to R161, R196, R197: a team retires when its groups have exited and its stores and engine work are complete; DISCARD stops a band that is
whole and discardable and, once its issued work is complete, re-enqueues it; SAVE stops a band and, once its work is complete, keeps it with
every register as it is; a restore puts it on the cores of a rectangle, with the registers, splits, barriers, scratchpad and tiles that its
save record holds. An event whose condition does not hold changes nothing. Where the record holds what R161 gives no layout for, that one core
takes part in the event, and how a retired slot-0 team goes with its band are the model's choices (log entries 23 and 62). -/
def Obligations.TeamEvents : Prop :=
  (∀ (s : State) (uid : Nat) (t : Team), s.teams.look uid = some t → Map.sorted s.teams = true → Map.sorted s.groups = true →
    let band := s.bandOfTeam t
    let ends := t.retired = false ∧ ((t.state = .ending ∧ s.stepsOpen uid = false)
        ∨ (t.state = .resident ∧ ∀ p ∈ s.groups, p.2.team = uid → p.2.state = .exited))
      ∧ s.teamStoresDone uid = true ∧ s.copiesOpen uid = false ∧ ∀ e ∈ (s.core t.core).matrixQ, e.team ≠ uid
    (¬ ends → exec (.teamRetire uid) s = .next s)
    ∧ (ends → ∃ u, exec (.teamRetire uid) s = .next u ∧ (∀ gid g, u.groups.look gid = some g → g.team ≠ uid)
        ∧ (∀ x, u.teams.look uid = some x → x.retired = true) ∧ u.mem = s.mem ∧ u.queues = s.queues ∧ u.ctxs = s.ctxs
        ∧ ∀ gid g, s.groups.look gid = some g → g.team ≠ uid → ∃ g', u.groups.look gid = some g' ∧ g.KeepsAll g')
    ∧ (t.state ≠ .discarding → s.bandDiscardable t = false → exec (.teamDiscard uid) s = .next s)
    ∧ (t.state ≠ .discarding → s.bandDiscardable t = true → ∃ u, exec (.teamDiscard uid) s = .next u ∧ u.groups = s.groups ∧ u.mem = s.mem
        ∧ ∀ p ∈ band, u.teams.look p.1 = some { p.2 with state := .discarding })
    ∧ (t.state = .discarding → (∃ p ∈ band, p.2.state ≠ .discarding ∨ s.teamQuiet p.1 = false) → exec (.teamDiscard uid) s = .next s)
    ∧ (t.state = .discarding → (∀ p ∈ band, p.2.state = .discarding ∧ s.teamQuiet p.1 = true) →
        ∃ u, exec (.teamDiscard uid) s = .next u ∧ u.mem = s.mem
          ∧ ∀ p ∈ band, (∀ gid g, u.groups.look gid = some g → g.team ≠ p.1)
            ∧ u.teams.look p.1 = some { p.2 with
              state := .reenqueued, placement := p.2.placement + 1, scratch := [], scratchPoison := [], acc := [], accPoison := []
              barriers := [] })
    ∧ (t.state ≠ .resident ∨ t.retired = true → exec (.teamSave uid) s = .next s)
    ∧ (t.state = .resident → t.retired = false → ∃ u, exec (.teamSave uid) s = .next { s with teams := u }
        ∧ (∀ p ∈ band, p.2.state = .resident → p.2.retired = false → u.look p.1 = some { p.2 with state := .saving })
        ∧ ∀ k, (∀ p ∈ band, p.1 = k → p.2.state ≠ .resident ∨ p.2.retired = true) → u.look k = s.teams.look k)
    ∧ (t.state ≠ .saving ∨ (∃ p ∈ band, p.2.retired = false ∧ (p.2.state ≠ .saving ∨ s.saveReady p.1 = false)) → exec (.teamSaveComplete uid) s = .next s)
    ∧ (t.state = .saving → (∀ p ∈ band, p.2.retired = true ∨ (p.2.state = .saving ∧ s.saveReady p.1 = true)) →
        ∃ u, exec (.teamSaveComplete uid) s = .next u ∧ s.KeepsGroups u
          ∧ (∀ p ∈ band, p.2.retired = true → u.teams.look p.1 = some { p.2 with state := .saved })
          ∧ ∀ p ∈ band, p.2.retired = false → ∃ x, u.teams.look p.1 = some x ∧ x.state = .saved ∧ x.scratch = p.2.scratch ∧ x.acc = p.2.acc
            ∧ x.barriers = p.2.barriers ∧ x.slot = p.2.slot ∧ (x.savedHold = true ↔ (s.core p.2.core).hold = .held p.1)
            ∧ x.lambda = none ∧ x.tau = none ∧ x.lastQuiet = none))
  ∧ (∀ (s : State) (uid : Nat) (t : Team) (k : Kernel), s.teams.look uid = some t → s.kernels.look t.kernel = some k →
      (s.discardable uid = true ↔ k.launch.restart = true ∧ t.state = .resident ∧ t.retired = false ∧ (∃ p ∈ s.groups, p.2.team = uid)
        ∧ ∀ p ∈ s.groups, p.2.team = uid → p.2.region = true ∧ p.2.exited = 0 ∧ ∀ sp ∈ p.2.splits, sp.state ≠ .stopped)
      ∧ (s.bandDiscardable t = true ↔ (s.bandOfTeam t).length = k.launch.bandSize ∧ ∀ p ∈ s.bandOfTeam t, s.discardable p.1 = true))
  ∧ (∀ (s : State) (uid o : Nat) (t : Team) (k : Kernel), s.teams.look uid = some t → s.kernels.look t.kernel = some k →
      Map.sorted s.teams = true →
      let band := s.bandOfTeam t
      let fits := s.placeable k = true ∧ o ∈ rectangles k.launch ∧ (∀ p ∈ band, p.2.state = .saved) ∧ s.restoreFits k band o = true
      (¬ fits → exec (.teamRestore uid o) s = .next s)
      ∧ (fits → (∀ p ∈ s.groups, ∀ sp ∈ p.2.splits, sp.state ≠ .faulted) → Map.sorted s.groups = true →
          (∀ v pa pte bits, s.checkSystem k.asid v 1 1 .read = .ok pa pte bits → ∀ d, s.paKind pa ≠ .peer d) →
        ∃ u, exec (.teamRestore uid o) s = .next u ∧ u.mem = s.mem
          ∧ (∀ gid g, s.groups.look gid = some g → (∀ p ∈ band, g.team ≠ p.1) →
              ∃ g', u.groups.look gid = some g' ∧ g.KeepsAll g' ∧ g'.team = g.team ∧ g'.index = g.index)
          ∧ ∀ p ∈ band, p.2.retired = false → ∀ c, s.ctxs.look k.asid = some c →
            let bytes := fun (off n : Nat) => (s.readPieces (.core 0) k.asid (c.savebase.toNat + 0xA00000 * p.2.slot + off) n).2
            (∃ x, u.teams.look p.1 = some x ∧ x.state = .resident
              ∧ x.core = o / 12 * 12 + (o % 12 / 4 + p.2.linear % k.launch.bandSize / k.launch.bandC) * 4 + o % 4
                  + p.2.linear % k.launch.bandSize % k.launch.bandC
              ∧ (∀ a < k.launch.scratch, Memory.byte x.scratch a = (bytes 0x82000 k.launch.scratch).getD a 0)
              ∧ (∀ e < 4096 * k.launch.acc,
                  (x.acc.lookD e 0).toNat = Memory.toNat (((bytes 0x102000 (16384 * k.launch.acc)).drop (4 * e)).take 4))
              ∧ (∀ b < 128, x.barriers.look b = barrierOfWord (BitVec.ofNat 64 (Memory.toNat (((bytes 0x81000 1024).drop (8 * b)).take 8))))
              ∧ x.slot = p.2.slot ∧ x.placement = p.2.placement + 1)
            ∧ ∀ gid g, s.groups.look gid = some g → g.team = p.1 → ∃ g', u.groups.look gid = some g' ∧ g'.team = g.team ∧ g'.index = g.index
                ∧ (g.withArea k.launch.vregs (bytes (0x1000 + 0x4000 * g.index) 8776) []).KeepsAll g'
                ∧ (let life := bytes (0x1000 + 0x4000 * g.index + 8776) 7608
                   g'.depth = BitVec.ofNat 4 (Memory.toNat ((life.drop 4101).take 1))
                   ∧ (g'.region = true ↔ Memory.toNat ((life.drop 4100).take 1) % 2 = 1)
                   ∧ ∀ i sp, g.res.look i = some sp → sp.state ≠ .waiting → ∃ sp', g'.res.look i = some sp' ∧ sp'.state = sp.state
                     ∧ sp'.pc.toNat = Memory.toNat ((life.drop (128 * i)).take 8)
                     ∧ (Memory.toNat ((life.drop (128 * i + 8)).take 4) = sp.mask.toNat → sp'.mask = sp.mask))))
  ∧ (∀ (g : Group) (vregs : Nat) (bs : List Byte) (bad : List Nat), bs.length = 8776 → vregs ≤ 64 →
      let word := fun (off n : Nat) => Memory.toNat ((bs.drop off).take n)
      let h := g.withArea vregs bs bad
      (∀ r < 64, ∀ l < 32, (h.vlane r l).toNat = if r < vregs then word (128 * r + 4 * l) 4 else (g.vlane r l).toNat)
      ∧ (∀ r < 64, (h.greg r).toNat = word (8192 + 8 * r) 8) ∧ (∀ k < 7, (Bits.rd h.m (k + 1) 0).toNat = word (8708 + 4 * k) 4)
      ∧ (∀ k < 8, (h.jreg k).toNat = word (8736 + 4 * k) 4) ∧ h.fflags.toNat = word 8768 8 % 32)
  ∧ (∀ (t : Team) (l : Launch), l.groups ≤ 32 → l.acc ≤ 512 → t.linear < 2 ^ 64 → t.kernel < 2 ^ 64 →
      let head := fun (off n : Nat) => Memory.toNat (((saveHeader t l).drop off).take n)
      (saveHeader t l).length = 4096 ∧ head 0 8 = t.linear ∧ head 8 8 = t.kernel ∧ head 0x13 1 = l.groups ∧ head 0x20 8 = l.acc
      ∧ (head 0x18 8 % 2 = 1 ↔ t.savedHold = true))
  ∧ ∀ (g : Group) (vregs : Nat) (m0 : List Byte), m0.length = 4 →
      let bytes := fun (off n : Nat) => Memory.toNat (((g.area vregs m0).drop off).take n)
      (∀ r < 64, ∀ l < 32, bytes (128 * r + 4 * l) 4 = if r < vregs then (g.vlane r l).toNat else 0)
      ∧ (∀ r < 64, bytes (8192 + 8 * r) 8 = (g.greg r).toNat)
      ∧ (∀ k < 7, bytes (8708 + 4 * k) 4 = (Bits.rd g.m (k + 1) 0).toNat) ∧ (∀ k < 8, bytes (8736 + 4 * k) 4 = (g.jreg k).toNat)
      ∧ bytes 8768 8 = g.fflags.toNat

/-- R141, R142, R163, R487: BIND gives a context a free slot and its registers, or a SUSPENDED one a slot again; SUSPEND stops it and, with its last team
saved or discarded, frees its slot; CLEAR ends FAULTED; DESTROY leaves nothing of it. Which free slot is taken is open (log entry 24). -/
def Obligations.ContextCommands : Prop :=
  (∀ (s : State) (p : List Byte), s.Receives p [(0, 2), (2, 2), (4, 1), (8, 8), (0x10, 8), (0x18, 8), (0x20, 8), (0x28, 8), (0x30, 8)] →
    let asid := field p 0 2
    let free := fun (k : Nat) => k < 32 ∧ ∀ x ∈ s.ctxs, x.2.slot ≠ some k
    let base := fun (off align : Nat) => field p off 8 % align = 0 ∧ inWindow (field p off 8) = true
    let valid := field p 2 2 ≤ 16383 ∧ 4 ≤ field p 4 1 ∧ field p 4 1 ≤ 16 ∧ field p 8 8 % 4096 = 0 ∧ field p 8 8 < 2 ^ 52
      ∧ s.paKind (field p 8 8) = .device ∧ base 0x10 64 ∧ base 0x18 65536 ∧ base 0x20 4096 ∧ base 0x28 2048
      ∧ (field p 0x30 8 = 0 ∨ base 0x30 64)
    (asid = 0 → exec (.ctxBind p) s = .next (s.answer .badDesc))
    ∧ (0 < asid → s.ctxs.look asid = none → ¬ valid → exec (.ctxBind p) s = .next (s.answer .badDesc))
    ∧ (0 < asid → s.ctxs.look asid = none → valid → (∀ k, ¬ free k) → exec (.ctxBind p) s = .next (s.answer .noSlot))
    ∧ (0 < asid → s.ctxs.look asid = none → valid → (∃ k, free k) → ∃ k c, free k
        ∧ exec (.ctxBind p) s = .next (({ s with
            ctxs := s.ctxs.put asid c, fresh := s.fresh + 1
            spillways := if c.spillbase = 0 then s.spillways.del asid else s.spillways.put asid { base := c.spillbase } } : State).answer .ok
              [BitVec.ofNat 8 k])
        ∧ c = {
            slot := some k, maxteams := field p 2 2 + 1, tqsize := BitVec.ofNat 64 (2 ^ field p 4 1)
            ptbase := BitVec.ofNat 64 (field p 8 8), tqbase := BitVec.ofNat 64 (field p 0x10 8), savebase := BitVec.ofNat 64 (field p 0x18 8)
            regbase := BitVec.ofNat 64 (field p 0x20 8), stkbase := BitVec.ofNat 64 (field p 0x28 8)
            spillbase := BitVec.ofNat 64 (field p 0x30 8), state := .active, traph := 0, tqhead := 0, tqtail := 0, tqlost := 0 })
    ∧ ∀ c, 0 < asid → s.ctxs.look asid = some c →
        (c.state ≠ .suspended → exec (.ctxBind p) s = .next (s.answer .badState))
        ∧ (c.state = .suspended → (∀ k, ¬ free k) → exec (.ctxBind p) s = .next (s.answer .noSlot))
        ∧ (c.state = .suspended → (∃ k, free k) → ∃ k, free k ∧ exec (.ctxBind p) s = .next (({ s with
            fresh := s.fresh + 1
            ctxs := s.ctxs.put asid { c with
              slot := some k, state := if c.wasFaulted then .faulted else .active, wasFaulted := false } } : State).answer .ok
                [BitVec.ofNat 8 k])))
  ∧ (∀ (s : State) (p : List Byte), s.Receives p [(0, 2)] →
      let asid := field p 0 2
      (s.ctxs.look asid = none → ∀ i ∈ [Instr.ctxSuspend p, .ctxClear p, .ctxDestroy p], exec i s = .next (s.answer .badState))
      ∧ ∀ c, s.ctxs.look asid = some c →
        (c.state ≠ .active → c.state ≠ .faulted → exec (.ctxSuspend p) s = .next (s.answer .badState))
        ∧ (c.state = .active ∨ c.state = .faulted → Map.sorted s.teams = true → ∃ t, exec (.ctxSuspend p) s = .next t
          ∧ t.ctxs = s.ctxs.put asid { c with state := .suspending, wasFaulted := decide (c.state = .faulted) }
          ∧ t.mailbox = { s.mailbox with code := .background, background := some (.suspend asid) } ∧ t.mem = s.mem ∧ s.KeepsGroups t
          ∧ ∀ uid tm k, s.teams.look uid = some tm → s.kernels.look tm.kernel = some k → k.asid = asid → tm.state = .resident →
              tm.retired = false → ∃ tm', t.teams.look uid = some tm' ∧ (tm'.state = .saving ∨ tm'.state = .discarding))
        ∧ (c.state = .faulted → exec (.ctxClear p) s
            = .next (({ s with ctxs := s.ctxs.put asid { c with state := .active } } : State).answer .ok))
        ∧ (c.state ≠ .faulted → exec (.ctxClear p) s = .next (s.answer .badState))
        ∧ ∃ t, exec (.ctxDestroy p) s = .next t ∧ t.mailbox = (s.answer .ok).mailbox ∧ t.ctxs.look asid = none ∧ t.spillways.look asid = none
          ∧ (∀ k, k ≠ asid → t.ctxs.look k = s.ctxs.look k) ∧ (∀ k ∈ t.kernels, k.2.asid ≠ asid) ∧ (∀ q ∈ t.queues, q.2.asid ≠ asid)
          ∧ (∀ q ∈ t.pageReqs, q.asid ≠ asid) ∧ (∀ q ∈ t.pubs, q.2.asid ≠ asid) ∧ (∀ q ∈ t.colls, q.2.asid ≠ asid)
          ∧ ∀ c, (t.core c).tlb = (s.core c).tlb)
  ∧ ∀ (s : State) (asid : Nat) (c : Ctx), s.ctxs.look asid = some c →
      (s.mailbox.background ≠ some (.suspend asid) ∨ s.teamsOn (fun k => k.asid == asid) = true → exec (.ctxSuspendComplete asid) s = .next s)
      ∧ (s.mailbox.background = some (.suspend asid) → s.teamsOn (fun k => k.asid == asid) = false → c.state = .suspending →
        exec (.ctxSuspendComplete asid) s = .next (({ s with
          ctxs := s.ctxs.put asid { c with state := .suspended, slot := none } } : State).backgroundDone .ok))

/-- R150, R242, R316: a SECDED check. Each error found is reported; a corrected one changes nothing else; an uncorrectable one poisons the data it
hit, or drops the entry of a structure whose contents lie elsewhere. No register's value changes. -/
def Obligations.SoftErrors : Prop :=
  ∀ (s u : State) (site : ErrorSite), u = { s with reports := s.reports ++ [.softError site true] } →
    exec (.softErrorDetected site false) s = .next { s with reports := s.reports ++ [.softError site false] }
    ∧ (∀ gid g, site = .control [gid] → s.groups.look gid = some g → g.splits ≠ [] → (s.teams.look g.team).isSome →
        ∃ t g', exec (.softErrorDetected site true) s = .next t ∧ t.groups.look gid = some g' ∧ g'.splits.length = g.splits.length
          ∧ ∀ sp ∈ g'.splits, sp.state = .stopped ∨ (sp.state = .parked ∧ ∃ x, sp.pendingTrap = some x ∧ x.cause = .softError ∧ x.stop = true))
    ∧ (∀ gs, site ≠ .control gs → ∃ t, exec (.softErrorDetected site true) s = .next t ∧ t.reports = u.reports ∧ t.mem = s.mem ∧ s.KeepsGroups t
        ∧ t.ctxs = s.ctxs ∧ t.kernels = s.kernels ∧ t.queues = s.queues)
    ∧ (∀ a, site = .memory a → ∃ t, exec (.softErrorDetected site true) s = .next t ∧ t = { u with memPoison := t.memPoison }
        ∧ t.physPoisoned a 1 = true ∧ ∀ b, s.redirect b / 8 ≠ s.redirect a / 8 → t.physPoisoned b 1 = s.physPoisoned b 1)
    ∧ (∀ gid g r, site = .group gid r → r < 64 → s.groups.look gid = some g → exec (.softErrorDetected site true) s
        = .next { u with groups := s.groups.put gid { g with gPoison := g.gPoison ||| BitVec.twoPow 64 r } })
    ∧ (∀ gid g k, site = .mask gid k → k < 8 → s.groups.look gid = some g → exec (.softErrorDetected site true) s
        = .next { u with groups := s.groups.put gid { g with mPoison := g.mPoison ||| BitVec.twoPow 8 k } })
    ∧ (∀ gid g k, site = .rejoin gid k → k < 8 → s.groups.look gid = some g → exec (.softErrorDetected site true) s
        = .next { u with groups := s.groups.put gid { g with jPoison := g.jPoison ||| BitVec.twoPow 8 k } })
    ∧ (∀ q n gid g t r, site = .vector q n → n < 2048 → Map.sorted s.groups = true → s.groups.look gid = some g →
        s.teams.look g.team = some t → 4 * t.core + g.index % 4 = q → r < 64 →
        ∃ w g', exec (.softErrorDetected site true) s = .next w ∧ w.groups.look gid = some g'
          ∧ g'.vPoison.getLsbD r = (g.vPoison.getLsbD r || decide (Bits.rd g.names r 2048 = n)))
    ∧ (∀ x off t, site = .scratch x off → s.teams.look x = some t → ∃ t', exec (.softErrorDetected site true) s
        = .next { u with teams := s.teams.put x t' } ∧ t' = { t with scratchPoison := t'.scratchPoison } ∧ t'.scratchPoisoned off 1 = true)
    ∧ (∀ x e t, site = .tile x e → s.teams.look x = some t → ∃ t', exec (.softErrorDetected site true) s
        = .next { u with teams := s.teams.put x t' } ∧ t' = { t with accPoison := t'.accPoison }
        ∧ ∀ y, y ∈ t'.accPoison ↔ y = e ∨ y ∈ t.accPoison)
    ∧ (∀ c off, site = .scale c off → ∃ t, exec (.softErrorDetected site true) s = .next t ∧ t = { u with cores := t.cores }
        ∧ ∀ y, y ∈ (t.core c).scalePoison ↔ y = off / 2 ∨ y ∈ (s.core c).scalePoison)
    ∧ (∀ c k, site = .tlb c k → exec (.softErrorDetected site true) s
        = .next (u.modCore c fun x => { x with tlb := x.tlb.eraseIdx k }))
    ∧ (∀ c k, site = .walkTlb c k → exec (.softErrorDetected site true) s
        = .next (u.modCore c fun x => { x with walkTlb := x.walkTlb.eraseIdx k }))
    ∧ (∀ c k, site = .sharedTlb c k → exec (.softErrorDetected site true) s
        = .next (u.modChip c fun x => { x with tlb := x.tlb.eraseIdx k }))
    ∧ ∀ c line, site = .l1Tag c line → exec (.softErrorDetected site true) s = .next (u.modCore c fun x => { x with l1 := x.l1.del line })

/-! ### Home classes, the directory, banks and shares -/

/-- R396, R397: the class of a device page as a core's access leaves it; an access that needs a reclassification waits for it, and no reuse entry of
the page stays; one that comes while it is under way waits behind those that came before, and is served after them. A reclassification leaves
the page SHARED, with one directory entry without sharers at each home and no bank line; an idle SHARED page without sharers is UNOWNED
again. How the line of those held is kept is the model's choice (log entry 16).

R387 to R389, R398 to R401: lookups and writes in polders, and the directory. A hit stamps its line; a miss puts the line into its placement
share and its bank among the sharers; a write leaves the sharers that R398 gives and asks the others to invalidate, which the home counts
by acknowledgement or notice, for an entry that it has given up too; quiet siblings merge. No byte of memory changes (log entry 13: banks hold
no data); that an entry describes the lines of its region at its home is the model's reading (log entry 25).

R403, R404, R392, R390, R393 to R395: generations and stamps, retention sleep, the end of a resize, and the failure of a share. -/
def Obligations.HomesAndBanks : Prop :=
  (
  (∀ (core addr polder : Nat) (write : Bool) (s : State), s.paKind addr = .device → s.reachable (.core core) addr = true →
    s.redirect addr / 128 ∉ s.hostLines →
    let page := s.redirect addr / 65536
    let served := fun (r : ClassRec) => exec (.homeAccess core addr polder write) s = .next { s with
      classes := s.classes.put page r
      agenda := s.agenda ++ [if write then .dirWrite core addr polder 0 else .dirFill core addr polder 0] }
    let waits := fun (r : ClassRec) => exec (.homeAccess core addr polder write) s = .next { s with
      classes := s.classes.put page r, again := s.again ++ [.homeAccess core addr polder write] }
    let become := fun (c : PageClass) => served { cls := c, stamp := s.time.toNat / 2000 }
    (s.classes.look page = none → become (.priv (.core core) write))
    ∧ (∀ r, s.classes.look page = some r → r.held = true →
        waits { r with line := if .core core ∈ r.line then r.line else r.line ++ [.core core] })
    ∧ (∀ r x rest, s.classes.look page = some r → r.held = false → r.cls = .shared → s.heldLine r = x :: rest →
        (x = .core core → served { cls := .shared, stamp := s.time.toNat / 2000, line := rest, turn := s.cycles })
        ∧ (x ≠ .core core → exec (.homeAccess core addr polder write) s
          = .next { s with again := s.again ++ [.homeAccess core addr polder write] }))
    ∧ ∀ r, s.classes.look page = some r → r.held = false → s.heldLine r = [] →
      (∀ w, r.cls = .priv (.core core) w → become (.priv (.core core) (w || write)))
      ∧ (∀ o, r.cls = .priv o false → o ≠ .core core → write = false → become .readOnly)
      ∧ (r.cls = .readOnly → write = false → become .readOnly)
      ∧ (r.cls = .shared → become .shared)
      ∧ ((∃ o w, r.cls = .priv o w ∧ o ≠ .core core ∧ (w = true ∨ write = true)) ∨ (r.cls = .readOnly ∧ write = true) →
        ∃ t, exec (.homeAccess core addr polder write) s = .next t
          ∧ t = { s with
              classes := s.classes.put page { r with held := true, line := [.core core] }, quads := t.quads
              again := s.again ++ [.homeAccess core addr polder write] }
          ∧ ∀ q, ∀ e ∈ (t.quad q).reuse, page ∉ e.pages))
  ∧ (∀ (page : Nat) (s : State), (∀ r, s.classes.look page = some r → r.held = false) → exec (.reclassifyComplete page) s = .next s)
  ∧ (∀ (page : Nat) (s : State) (r : ClassRec), s.classes.look page = some r → r.held = true →
      ∃ t, exec (.reclassifyComplete page) s = .next t
        ∧ t = { s with
            classes := s.classes.put page { cls := .shared, stamp := s.time.toNat / 2000, line := r.line, turn := s.cycles }
            banks := t.banks, homes := t.homes, agenda := t.agenda }
        ∧ (∀ b, ∀ l ∈ (t.bank b).lines, l.number * t.bytesOf l / 65536 ≠ page)
        ∧ ∀ line, line / 512 = page → s.homeOf line ∈ s.stores → ∃ e, t.dirEntry line = some (page * 512, e) ∧ e.lines = 512 ∧ e.sharers = .shared [] ∧ e.awaiting = [])
  ∧ ∀ (page : Nat) (s : State),
      let idle := ∃ r, s.classes.look page = some r ∧ r.cls = .shared ∧ r.held = false ∧ r.stamp + 1024 ≤ s.time.toNat / 2000
        ∧ ∀ e ∈ s.pageEntries page, e.sharers.banks = [] ∧ e.awaiting = []
      (¬ idle → exec (.pageClassIdle page) s = .next s)
      ∧ (idle → ∃ t, exec (.pageClassIdle page) s = .next t
        ∧ t = { s with classes := s.classes.del page, homes := t.homes } ∧ t.pageEntries page = []))
  ∧ (
  (∀ (core addr polder hint : Nat) (s : State),
    let x := fun (p : Polder) => addr / (64 * 2 ^ p.line)
    (s.polderInUse polder = none → exec (.dirFill core addr polder hint) s = .next s ∧ ∀ k, exec (.dirWrite core addr polder k) s = .next s)
    ∧ ∀ p, s.polderInUse polder = some p → p.line < 2 →
      (∀ u k l, s.lookup polder p (core / 12) (x p) = (u, some k) → u.findLine polder k (x p) = some l →
        exec (.dirFill core addr polder hint) s = .next { u with
          banks := u.banks.put (k / 8) { u.bank (k / 8) with lines := (u.bank (k / 8)).lines.map fun y =>
              if y = l then { y with stamp := (u.bank (k / 8)).generation, oldest := false } else y } })
      ∧ (∀ u k, s.lookup polder p (core / 12) (x p) = (u, none) → u.place p (core / 12) (x p) = some k →
        (s.awaited (p.dirLines (x p)) ≠ [] → exec (.dirFill core addr polder hint) s = .next { u with
          agenda := s.agenda ++ (s.awaited (p.dirLines (x p))).map (fun w => .invalAck w.1 w.2) ++ [.dirFill core addr polder hint] })
        ∧ (s.awaited (p.dirLines (x p)) = [] → ∃ t, exec (.dirFill core addr polder hint) s = .next t ∧ t.mem = s.mem ∧ t.groups = s.groups
            ∧ t.classes = s.classes ∧ (t.findLine polder k (x p)).isSome = true
            ∧ (s.tracked (addr / 128) = true → ∃ at_ e, t.dirEntry (addr / 128) = some (at_, e) ∧ k / 8 ∈ e.sharers.banks)))
      ∧ (∀ k kind, s.place p (core / 12) (x p) = some k → s.awaited (p.dirLines (x p)) = [] →
        ∃ t, exec (.dirWrite core addr polder kind) s = .next t ∧ t.mem = s.mem ∧ t.groups = s.groups ∧ t.classes = s.classes
          ∧ ∀ u h, s.lookup polder p (core / 12) (x p) = (u, some h) → kind = 0 → p.wpol = 0 →
              ∃ l, t.findLine polder h (x p) = some l ∧ l.dirty = true))
  ∧ (∀ (s : State) (line at_ : Nat) (e : DirEntry) (k : WriteKind), s.tracked line = true → s.dirEntry line = some (at_, e) →
      let told := match k with
        | .forwarded _ => e.sharers.banks
        | .owns b => e.sharers.banks.filter fun c => c != b
        | .through b => e.sharers.banks.filter fun c => c != b
      ∃ at' e' pre, (s.dirWrite line k).dirEntry line = some (at', e')
        ∧ e'.awaiting = e.awaiting ++ told.filter (fun b => !e.awaiting.contains b)
        ∧ e'.sharers = (match k with
          | .owns b => .owned b
          | .through b => .shared [b]
          | .forwarded _ => .shared [])
        ∧ (s.dirWrite line k).agenda = s.agenda ++ pre ++ told.map (fun b => .invalAck b line)
        ∧ ((s.home (s.homeOf line)).dir.length + 10 ≤ 262144 → pre = []))
  ∧ (∀ (b : Nat) (bs : List Nat) (o : Nat) (v : BitVec 64),
      (b ∉ bs → bs.length < 4 → Sharers.add (.shared bs) b = .shared (bs ++ [b])) ∧ (b ∈ bs → Sharers.add (.shared bs) b = .shared bs)
      ∧ (b ∉ bs → 4 ≤ bs.length → ∃ w, Sharers.add (.shared bs) b = .coarse w ∧ ∀ g < 64, w.getLsbD g = decide (∃ c ∈ b :: bs, c / 8 = g))
      ∧ (Sharers.add (.owned o) b = if o = b then .owned o else .shared [o, b])
      ∧ ∃ w, Sharers.add (.coarse v) b = .coarse w ∧ ∀ g < 64, w.getLsbD g = (v.getLsbD g || decide (b / 8 = g)))
  ∧ (∀ (bank line : Nat) (s : State), s.dirEntry line = none → s.leavingEntry line = none →
      exec (.evictionNotice bank line) s = .next s ∧ exec (.invalAck bank line) s = .next s ∧ exec (.dirMerge line) s = .next s)
  ∧ (∀ (bank line at_ : Nat) (s : State) (e : DirEntry), s.leavingEntry line = some (at_, e) → bank ∈ e.awaiting →
      (s.home (s.homeOf line)).leaving.look at_ = some e →
      let h := s.home (s.homeOf line)
      let rest := e.awaiting.filter fun c => c != bank
      let left := { h with leaving := if rest = [] then h.leaving.del at_ else h.leaving.put at_ { e with awaiting := rest } }
      exec (.evictionNotice bank line) s = .next { s with homes := s.homes.put (s.homeOf line) left }
      ∧ ∃ t, exec (.invalAck bank line) s = .next t ∧ t = { s with banks := t.banks, homes := t.homes } ∧ t.home (s.homeOf line) = left
        ∧ (∀ l ∈ (t.bank bank).lines, t.inRegion (s.homeOf line) at_ e.lines l = false) ∧ ∀ c, c ≠ bank → t.bank c = s.bank c)
  ∧ (∀ (bank line at_ : Nat) (s : State) (e : DirEntry), s.dirEntry line = some (at_, e) → s.leavingEntry line = none →
      let h := s.home (s.homeOf line)
      let put := fun (e' : DirEntry) => s.homes.put (s.homeOf line) { h with dir := h.dir.put at_ e' }
      (bank ∈ e.awaiting →
        exec (.evictionNotice bank line) s = .next { s with homes := put { e with awaiting := e.awaiting.filter fun c => c != bank } }
        ∧ ∃ t, exec (.invalAck bank line) s = .next t ∧ t = { s with banks := t.banks, homes := t.homes }
          ∧ (∃ e', t.dirEntry line = some (at_, e') ∧ e' = { e with awaiting := e.awaiting.filter fun c => c != bank })
          ∧ (∀ l ∈ (t.bank bank).lines, t.inRegion (s.homeOf line) at_ e.lines l = false) ∧ ∀ c, c ≠ bank → t.bank c = s.bank c)
      ∧ (bank ∉ e.awaiting → exec (.invalAck bank line) s = .next s
        ∧ exec (.evictionNotice bank line) s = .next (if s.bankHolds bank (s.homeOf line) at_ e.lines = true then s else
            { s with homes := put { e with sharers := e.sharers.remove bank } })))
  ∧ ∀ (s : State) (line size : Nat) (x y e : DirEntry) (at_ : Nat), s.dirEntry line = some (at_, e) → size = e.lines →
      let h := s.home (s.homeOf line)
      let base := at_ / (2 * size) * (2 * size)
      let quiet := fun (e : DirEntry) => 50 ≤ ageOf h.generation e.conflict e.conflictOldest ∧ e.awaiting = [] ∧ ∀ b, e.sharers ≠ .owned b
      h.dir.look base = some x → h.dir.look (base + size) = some y →
      (¬ (size < 512 ∧ x.lines = size ∧ y.lines = size ∧ quiet x ∧ quiet y) → exec (.dirMerge line) s = .next s)
      ∧ (size < 512 → x.lines = size → y.lines = size → quiet x → quiet y →
        ∃ m, exec (.dirMerge line) s = .next
            { s with homes := s.homes.put (s.homeOf line) { h with dir := (h.dir.del (base + size)).put base m } }
          ∧ m.lines = 2 * size ∧ m.awaiting = [] ∧ (∀ b, m.sharers ≠ .owned b) ∧ m.sharers = x.sharers.union y.sharers))
  ∧ (
  (∀ (bank : Nat) (s : State) (b : Bank), bank < 512 → s.banks.look bank = some b →
    let due := b.asleep = none ∧ (s.time.toNat / 2000 + 65536 - b.generation % 65536) % 65536 ≠ 0
    let g := (b.generation + 1) % 65536
    (¬ due → exec (.generationTick bank) s = .next s)
    ∧ (due → exec (.generationTick bank) s = .next { s with
        banks := s.banks.put bank { b with generation := g }
        agenda := s.agenda ++ if g % 8192 = 0 then [.stampSweep bank] else [] })
    ∧ exec (.stampSweep bank) s = .next { s with banks := s.banks.put bank { b with lines := b.lines.map fun l =>
        if l.oldest = true ∨ 16384 ≤ (b.generation + 65536 - l.stamp) % 65536 then { l with oldest := true } else l } }
    ∧ (b.asleep = none → exec (.bankSleep bank) s = .next { s with banks := s.banks.put bank { b with asleep := some s.time.toNat } }
        ∧ exec (.bankWake bank) s = .next s)
    ∧ ∀ at_, b.asleep = some at_ → exec (.bankSleep bank) s = .next s
        ∧ exec (.bankWake bank) s = .next { s with banks := s.banks.put bank { b with
            asleep := none, generation := (b.generation + (s.time.toNat - at_) / 2000) % 65536
            lines := if 65536000 ≤ s.time.toNat - at_ then b.lines.map fun l => { l with oldest := true } else b.lines } })
  ∧ (∀ (h : Nat) (s : State) (x : Home), s.homes.look h = some x →
      let g := (x.generation + 1) % 65536
      (x.generation % 65536 = s.time.toNat / 2000 % 65536 → exec (.generationTick (512 + h)) s = .next s)
      ∧ (x.generation % 65536 ≠ s.time.toNat / 2000 % 65536 → exec (.generationTick (512 + h)) s = .next { s with
          homes := s.homes.put h { x with generation := g }
          agenda := s.agenda ++ if g % 8192 = 0 then [.stampSweep (512 + h)] else [] }))
  ∧ (∀ (id : Nat) (s : State) (p : Polder), s.polders.look id = some p →
      (p.state ≠ .resizing → exec (.polderDrainComplete id) s = .next s)
      ∧ (p.state = .resizing → p.completion = none → ∃ t, exec (.polderDrainComplete id) s = .next t
        ∧ t = { s with banks := t.banks, homes := t.homes, polders := t.polders, groups := t.groups } ∧ s.KeepsGroups t
        ∧ t.polders = s.polders.put id { p with old := 0, oldSpread := false, state := if id ≠ 0 ∧ p.current = 0 then .empty else .active }
        ∧ ∀ b, ∀ l ∈ (t.bank b).lines, s.mustLeave id p l = false ∧ (l.polder = id → p.current.getLsbD l.share = true))
      ∧ ∀ w pa, p.state = .resizing → p.completion = some w → w.addr ≠ 0 →
        s.Maps w.asid w.addr.toNat 4 4 .write pa → ∃ t, exec (.polderDrainComplete id) s = .next t
          ∧ s.Stored t pa (Memory.ofNat 4 w.value.toNat)
          ∧ t.polders = s.polders.put id
              { p with old := 0, oldSpread := false, completion := none, state := if id ≠ 0 ∧ p.current = 0 then .empty else .active }
          ∧ State.OnlyMemory { s with banks := t.banks, homes := t.homes, polders := t.polders, groups := t.groups } t ∧ s.KeepsGroups t)
  ∧ ∀ (share : Nat) (s : State),
      (4096 ≤ share ∨ s.shareFault.getLsbD share = true → exec (.shareFailure share) s = .next s)
      ∧ (share < 4096 → s.shareFault.getLsbD share = false → ∃ t, exec (.shareFailure share) s = .next t
        ∧ t = { s with
            banks := t.banks, homes := t.homes, polders := t.polders, shareFault := s.shareFault ||| BitVec.twoPow 4096 share
            config := t.config, flash := t.flash, xmssNext := t.xmssNext
            reports := s.reports ++ [.shareFailed share] }
        ∧ (s.xmssNext < 2 ^ 20 → t.config.fencedShares = s.config.fencedShares ||| BitVec.twoPow 4096 share)
        ∧ (∀ l ∈ (t.bank (share / 8)).lines, l.share ≠ share)
        ∧ ∀ id p, t.polders.look id = some p → p.grant.getLsbD share = false ∧ p.current.getLsbD share = false ∧ p.old.getLsbD share = false
          ∧ ∀ p0, s.polders.look id = some p0 → p0.current.getLsbD share = true → p.degraded = true))

/-! ### Links and ports -/

/-- R448 to R455: the links. A DATA flit that arrives intact in SEQ order is delivered once and acknowledged; a damaged one, or one under maps
that disagree, brings a NAK; an ACK frees the flit on both planes; a NAK has the flits from the one it names sent again, in order and before
any new one, and the eighth in a row fails the link. A swap takes the SHADOW half at both ends, or ends in SWFAIL after 10 µs. A failed link
leaves its pair on the other plane, on its relay, or DOWN, which stops every context. That a swap asked for in REPLAY waits is the model's
choice (log entry 6).

R17, R454 to R457, R471: comb sources, retuned rings, scale-up ports and LSTAT. A source that stops fails every link it feeds; retuned rings fail
the links of their position and lock after 40 µs; a port that goes DOWN leaves every mask; LSTAT reads a link or a port. -/
def Obligations.LinksAndPorts : Prop :=
  (
  (∀ (f : Flit) (type : Nat), type ≤ 5 → flitIntact (flitBytes f type) = true ∧ flitHeader (flitBytes f type) / 2 ^ 52 = f.seq % 4096
      ∧ flitHeader (flitBytes f type) / 2 ^ 48 % 16 = type)
  ∧ (∀ (s : State) (link seq : Nat) (payload received : List Byte) (l : Link) (p : Pair), l = s.link link → p = s.pair (link / 2) →
      validPair (link / 2) = true → s.carries link = true → seq < 4096 → p.nextSeq = seq → l.replay.length < 256 → l.rxOld = none →
      l.toSend = [] → l.swap = false → seq ∉ l.oldFlits → (∀ t < 36, (s.pair (36 * (link / 2 / 36) + t)).resend = []) →
      (∀ r ∈ s.relayed, r.1 ≠ link / 2 / 36) →
      let agree := s.txEntry link = s.rxEntry link
      let sent : State := { s with
        links := s.links.put link { l with replay := l.replay ++ [{ seq := seq, payload := payload }] } }
      (agree → p.expect = seq → p.early = [] → exec (.linkData link seq payload (flitBytes { seq := seq, payload := payload } 1)) s
        = .next { sent with
          pairs := s.pairs.put (link / 2)
            { p with nextSeq := (seq + 1) % 4096, expect := (seq + 1) % 4096, delivered := p.delivered + 1 }
          agenda := s.agenda ++ [.linkAck link seq] })
      ∧ (flitIntact received = false ∨ ¬ agree → l.replay = [] → p.expect = seq → p.early = [] → exec (.linkData link seq payload received) s
        = .next { sent with
          pairs := s.pairs.put (link / 2) { p with nextSeq := (seq + 1) % 4096 }
          agenda := s.agenda ++ [.linkNak link seq] }))
  ∧ (∀ (s : State) (link seq : Nat) (payload received : List Byte), validPair (link / 2) = false ∨ s.carries link = false →
      exec (.linkData link seq payload received) s = .next s)
  ∧ (∀ (s : State) (link key : Nat) (payload received : List Byte) (l : Link), l = s.link link → validPair (link / 2) = true →
      s.carries link = true →
      (l.toSend = [] → 256 ≤ l.replay.length ∨ (l.swap = true ∧ l.swapWait = false) →
        exec (.linkData link key payload received) s = .next s)
      ∧ ∀ x rest, l.toSend = x :: rest → (key ≠ x → exec (.linkData link key payload received) s = .next s)
        ∧ (key = x → (∃ f ∈ l.replay, f.key = key) → ∃ t, exec (.linkData link key payload received) s = .next t
          ∧ (t.link link).toSend = rest ∧ (t.link link).replay = l.replay ∧ t.mem = s.mem ∧ t.groups = s.groups))
  ∧ (∀ (s : State) (link seq : Nat) (p : Pair), link < 4096 → validPair (link / 2) = true → p = s.pair (link / 2) →
      (s.link link).swapWait = false → (s.link (otherPlane link)).swapWait = false →
      ∃ t, exec (.linkAck link seq) s = .next { s with
          links := t, pairs := s.pairs.put (link / 2) { p with resend := p.resend.filter fun n => n != seq } }
        ∧ ∀ x, (x = link ∨ x = otherPlane link → ∃ l, t.look x = some l
            ∧ l.replay = (s.link x).replay.filter (fun f => f.key != seq) ∧ l.resent = (s.link x).resent.filter (fun n => n != seq)
            ∧ l.toSend = (s.link x).toSend.filter (fun n => n != seq)
            ∧ l.state = if (s.link x).state = .replay ∧ (∀ n ∈ (s.link x).resent, n = seq) then .up else (s.link x).state)
          ∧ (x ≠ link → x ≠ otherPlane link → t.look x = s.links.look x))
  ∧ (∀ (s : State) (link key : Nat), link < 4096 → validPair (link / 2) = true → (s.link link).swapWait = true →
      (s.link (otherPlane link)).swapWait = false → (s.link link).state = .replay → (∀ n ∈ (s.link link).resent, n = key) →
      ∃ t, exec (.linkAck link key) s = .next t ∧ (t.link link).swapWait = false ∧ (t.link link).state = .remap
        ∧ t.agenda = s.agenda ++ [.mapSwap link])
  ∧ (∀ (s : State) (link seq n : Nat) (l l' : Link) (again : List Nat), link < 4096 → validPair (link / 2) = true → l = s.link link → l.state.failed = false →
      n = (if l.naks ≠ 0 ∧ l.nakSeq = seq then l.naks + 1 else 1) →
      again = (l.replay.dropWhile fun f => !(f.key == seq
        || (f.pair.isNone && decide (seq < 4096) && decide ((f.seq + 4096 - seq) % 4096 < 2048)))).map Flit.key →
      l' = { l with
        nakSeq := seq, naks := n, replays := min 65535 (l.replays + 1), state := if l.state = .up then .replay else l.state
        resent := again, toSend := again } →
      exec (.linkNak link seq) s = .next (if 8 ≤ n ∧ l'.state = .replay then ({ s with links := s.links.put link l' } : State).failLink link
        else { s with links := s.links.put link l' }))
  ∧ (∀ (s : State) (link : Nat) (l : Link), l = s.link link →
      let old := (List.range 36).map (s.laneEntry (link / 2 % 36) (link % 2) 0)
      let loads := fun (t : State) (port : Nat) =>
        (∀ c, 1 ≤ c → c < 36 → t.laneEntry port (link % 2) 0 c = s.laneEntry port (link % 2) 1 c)
        ∧ ∀ q plane half c, plane < 2 → half < 2 → c < 64 → ¬ (q = port ∧ plane = link % 2 ∧ half = 0) →
          t.laneEntry q plane half c = s.laneEntry q plane half c
      (l.swap = true ∨ l.state = .down ∨ validPair (link / 2) = false → exec (.linkctlSwap link) s = .next s)
      ∧ (l.swap = false → l.state = .replay → validPair (link / 2) = true → exec (.linkctlSwap link) s = .next { s with
          links := s.links.put link { l with swap := true, swapWait := true } })
      ∧ (l.swap = false → l.state ≠ .replay → l.state ≠ .down → validPair (link / 2) = true → exec (.linkctlSwap link) s = .next { s with
          links := s.links.put link { l with
            swap := true, swapWait := false, swapSeq := (s.pair (link / 2)).nextSeq, swapAt := s.time.toNat
            oldFlits := l.replay.map Flit.key, before := none, state := if l.state = .up then .remap else l.state }
          agenda := s.agenda ++ [.mapSwap link] })
      ∧ (l.swap = false ∨ l.swapWait = true →
          exec (.mapSwap link) s = .next s ∧ exec (.mapAck link) s = .next s ∧ exec (.mapAckTimeout link) s = .next s)
      ∧ (l.swap = true → l.swapWait = false →
          (∃ t, exec (.mapSwap link) s = .next t ∧ loads t (link / 2 % 36)
            ∧ t = { s with
              laneMaps := t.laneMaps, links := s.links.put link { l with rxOld := some old }, agenda := s.agenda ++ [.mapAck link] })
          ∧ (∃ t, exec (.mapAck link) s = .next t ∧ loads t (link / 2 / 36)
            ∧ t = { s with
              laneMaps := t.laneMaps
              links := s.links.put link { l with
                swap := false, rxOld := none, before := some (s.txEntry link, (l.rxOld.getD old).getD (colourOf (link / 2)) 0), naks := 0
                state := if l.state = .down then .down else .up } })
          ∧ (s.time.toNat < l.swapAt + 10000 → exec (.mapAckTimeout link) s = .next s)
          ∧ (l.swapAt + 10000 ≤ s.time.toNat → exec (.mapAckTimeout link) s = .next { s with
              links := s.links.put link { l with swap := false, swfail := true, state := if l.state = .remap then .up else l.state }
              reports := s.reports ++ [.swapFailed link] }))
      ∧ exec (.linkctlSwfailClear link) s
        = .next (if l.swfail = true then { s with links := s.links.put link { l with swfail := false } } else s))
  ∧ (∀ (s : State) (link frelay : Nat) (l o : Link) (p : Pair), l = s.link link → o = s.link (otherPlane link) → p = s.pair (link / 2) →
      frelay = p.route.toNat / 2 ^ 16 % 64 → validPair (link / 2) = true →
      let relays := s.relayOk (link / 2) frelay = true
      let gone := { l with naks := 0, swap := false, swapWait := false, toSend := [], resent := [] }
      let kept := { p with resend := p.resend ++ (l.replay.map Flit.key).filter fun x => !p.resend.contains x }
      let ends := fun (t : State) => exec (.linkFailure link) s = .next (t.recordConfig fun c =>
        { c with colours := c.colours ||| BitVec.twoPow 128 (64 * (link % 2) + colourOf (link / 2)) })
      (l.state.failed = true → ends s)
      ∧ (l.state.failed = false → o.state.failed = false → p.route.toNat / 2 ^ 8 % 4 = 0 ∨ ¬ relays → ends { s with
            links := s.links.put link { gone with state := .half }
            pairs := s.pairs.put (link / 2)
              { kept with route := setRoute p.route (if link % 2 = 0 then 2 else 1) (p.route.toNat / 4 % 64) } })
      ∧ (l.state.failed = false → o.state.failed = false → p.route.toNat / 2 ^ 8 % 4 ≠ 0 → relays → ends { s with
            links := s.links.put link { gone with state := .relay }
            pairs := s.pairs.put (link / 2) { kept with route := setRoute p.route 3 frelay } })
      ∧ (l.state.failed = false → o.state.failed = true → relays → ends { s with
            links := (s.links.put link { gone with state := .relay }).put (otherPlane link) { o with state := .relay }
            pairs := s.pairs.put (link / 2) { kept with route := setRoute p.route 3 frelay } })
      ∧ (l.state.failed = false → o.state.failed = true → ¬ relays → p.down = false → ∃ t, exec (.linkFailure link) s = .next t
          ∧ (t.pair (link / 2)).down = true ∧ (t.link link).state = .down ∧ (t.link (otherPlane link)).state = .down
          ∧ Report.partFailed ∈ t.reports ∧ t.groups = s.groups
          ∧ ∀ asid c, s.ctxs.look asid = some c → ∃ c', t.ctxs.look asid = some c' ∧ c'.state ≠ .active))
  ∧ (∀ (r : BitVec 32) (mode relay : Nat), mode < 4 → relay < 64 →
      let x := (setRoute r mode relay).toNat
      x % 4 = mode ∧ x / 4 % 64 = relay ∧ x / 256 = r.toNat / 256)
  ∧ ∀ (s : State) (k value : Nat),
      let l := fun (plane : Nat) (x : LinkState) => { s.link (2 * k + plane) with state := x, naks := 0 }
      let r : BitVec 32 := BitVec.ofNat 32 value &&& 0x3F03FF
      let fits := validPair k = true ∧ value / 2 ^ 8 % 4 < 2 ∧ value / 4 % 64 < 34 ∧ value / 2 ^ 16 % 64 < 34
      let ok := fits ∧ s.pairInService k = true
      (¬ fits → exec (.routeWrite k value) s = .next s)
      ∧ (fits → s.pairInService k = false → exec (.routeWrite k value) s = .next { s with pairs := s.pairs.put k { s.pair k with route := r } })
      ∧ (∀ a b, ok → s.lit (2 * k) = true → s.lit (2 * k + 1) = true → (value % 4, a, b) ∈ [(0, LinkState.up, LinkState.up), (1, .up, .half), (2, .half, .up), (3, .relay, .relay)] →
        (value % 4 = 3 → s.relayOk k (value / 4 % 64) = true) → exec (.routeWrite k value) s
        = .next { s with
          pairs := s.pairs.put k { s.pair k with route := r, down := false }
          links := (s.links.put (2 * k) (l 0 a)).put (2 * k + 1) (l 1 b) })
      ∧ (ok → value % 4 = 3 → s.relayOk k (value / 4 % 64) = false → ∃ t, exec (.routeWrite k value) s = .next t ∧ (t.pair k).down = true
          ∧ Report.partFailed ∈ t.reports))
  ∧ (
  (∀ (s : State) (plane source : Nat), (2 ≤ plane ∨ 11 ≤ source → exec (.combSourceFailure plane source) s = .next s)
      ∧ (plane < 2 → source < 11 → (∀ k, (s.pair k).down = false) → ∃ t, exec (.combSourceFailure plane source) s = .next t
        ∧ 11 * plane + source ∈ t.failedSources ∧ t.groups = s.groups
        ∧ (∀ k, k < 1296 → validPair k = true → (s.laneEntry (k / 36) plane 0 (colourOf k)).getLsbD 15 = true →
            (s.laneEntry (k / 36) plane 0 (colourOf k)).toNat / 256 % 16 = source → (t.link (2 * k + plane)).state.failed = true)))
  ∧ (∀ (s : State) (plane spare position : Nat), plane < 2 → spare = 9 ∨ spare = 10 → position < 9 → (∀ k, (s.pair k).down = false) →
      ∃ t, exec (.ringRetune plane spare position) s = .next t ∧ t.groups = s.groups
        ∧ t.relocking = (s.relocking.filter fun r => !(r.1 == plane && r.2.1 == spare)) ++ [(plane, spare, position, s.time.toNat)]
        ∧ (∀ r, r ∈ t.steered ↔ r ∈ s.steered ∧ ¬ (r.1 = plane ∧ (r.2.1 = spare ∨ r.2.2 = position)))
        ∧ ∀ k, k < 1296 → validPair k = true → colourOf k / 4 = position → (t.link (2 * k + plane)).state.failed = true)
  ∧ (∀ (s : State) (plane spare position at_ : Nat), s.relocking = [(plane, spare, position, at_)] →
      exec (.ringLock plane spare position) s = .next (if s.time.toNat < at_ + 40000 then s
        else { s with relocking := [], steered := s.steered ++ [(plane, spare, position)] }))
  ∧ (∀ (s : State) (plane source : Nat), exec (.ageingInterrupt plane source) s = .next { s with reports := s.reports ++ [.ageing plane source] })
  ∧ (∀ (s : State) (port : Nat), s.portPresent port = false → exec (.portUp port) s = .next s)
  ∧ (∀ (s : State) (port : Nat), port < 20 → s.portPresent port = true →
      (s.ports.look port = none ∨ s.ports.look port = some .training → exec (.portUp port) s = .next { s with ports := s.ports.put port .up })
      ∧ (s.ports.look port = some .up ∨ s.ports.look port = some .replay ∨ s.ports.look port = some .down → exec (.portUp port) s = .next s)
      ∧ (s.ports.look port = some .replay → exec (.linkAck (4096 + port) 0) s = .next { s with ports := s.ports.put port .up })
      ∧ (s.ports.look port = some .up → exec (.linkNak (4096 + port) 0) s = .next { s with
          ports := s.ports.put port .replay, portReplays := s.portReplays.put port (min 65535 (s.portReplays.lookD port 0 + 1)) })
      ∧ ∃ m, exec (.portDown port) s = .next { s with ports := s.ports.put port .down, portMasks := m }
        ∧ ∀ d < 64, ∃ x, m.look d = some x ∧ ∀ k < 20, x.getLsbD k = ((s.portMask d).getLsbD k && decide (k ≠ port)))
  ∧ (∀ (s : State) (device granule : Nat),
      let serves := fun (k : Nat) => k < 20 ∧ (s.portMask device).getLsbD k = true ∧ s.portPresent k = true
      ((∀ k, ¬ serves k) → s.portOf device granule = none)
      ∧ ((∃ k, serves k) → ∃ k, s.portOf device granule = some k ∧ serves k))
  ∧ ∀ (a b : BitVec 6) (s : State) (cx : Cx), Admits s cx { gr := [a.toNat], gw := [b.toNat] } →
      let n := (cx.grp.greg a.toNat).toNat
      let i := n % 64
      let j := n / 64 % 64
      let plane := n / 2 ^ 12 % 2
      let reads := fun (w : Nat) => ∃ t g, exec (.lstat a b) s = .next t ∧ RegsOnly s t cx g (s.weight cx.core 28)
        ∧ (g.greg b.toNat = BitVec.ofNat 64 w)
        ∧ cx.grp.KeepsG g [b.toNat] ∧ cx.grp.KeepsV g 0 0 ∧ cx.grp.KeepsM g [] ∧ cx.grp.KeepsJ g [] ∧ g.fflags = cx.grp.fflags
      let link := n < 2 ^ 13 ∧ i < 34 ∧ j < 34 ∧ i ≠ j
      let port := 2 ^ 15 ≤ n ∧ n < 2 ^ 15 + 20
      (link →
        let k := 36 * i + j
        let l := s.link (2 * k + plane)
        let e := (s.laneEntry i plane 0 ((j + 36 - i) % 36)).toNat
        reads (l.replays * 2 ^ 48 + (s.pair k).route.toNat / 4 % 64 * 2 ^ 34 + (s.pair k).route.toNat % 4 * 2 ^ 32 + e / 256 % 16 * 2 ^ 28
          + e % 256 * 2 ^ 20 + (j + 36 - i) % 36 * 2 ^ 14 + (match l.state with
            | .up => 0
            | .replay => 1
            | .remap => 2
            | .half => 3
            | .relay => 4
            | .down => 5)))
      ∧ (port → reads (s.portReplays.lookD i 0 * 2 ^ 48 + Config.deviceNumber.toNat * 2 ^ 32 + (match s.ports.lookD i .training with
            | .up => 0
            | .replay => 1
            | .down => 5
            | .training => 6)))
      ∧ (¬ link → ¬ port → Raises (.lstat a b) s cx .perm cx.sp.mask (cx.grp.greg a.toNat) 0 cx.sp.pc 0))

/-! ### Master cycles, clamps, droop and the register space -/

/-- R4, R213, R223, R224, R473 to R476, R478, R481: a master cycle. What firmware has set of the accounts takes effect, every core's account decays, its
pulse is counted, PAT and CLR take effect where the cycle number is a multiple of 16, and the next cycle is a pulse by EFF and the stretch
window; the splits that are examined are READY on a core whose quadrants issue, those that issue have been found ready, and the arbiter's
choice has no candidate before it. No register and no byte of memory changes. The examination before the choice is the model's order of
steps (log entry 1). -/
def Obligations.MasterCycles : Prop :=
  (∀ (ns : Nat) (s u : State), s.Ordered → u = s.curWrites.foldl State.applyCurrent s → ∃ t, exec (.masterCycle ns) s = .next t
      ∧ t.cycles = s.cycles + 1 ∧ t.time = s.time + BitVec.ofNat 64 ns ∧ s.KeepsGroups t ∧ (∃ l, t.agenda = s.agenda ++ s.again ++ l)
      ∧ t = { s with
          cycles := t.cycles, time := t.time, cores := t.cores, groups := t.groups, publs := t.publs, agenda := t.agenda, again := []
          wtabs := u.wtabs, curWrites := [], probeQ := t.probeQ, picking := true, issueQ := [], probed := false }
      ∧ (∀ c, ∃ l1 w, (∀ e ∈ l1, e ∈ (s.core c).l1) ∧ (∀ x ∈ w, x ∈ (s.core c).sluiceWait)
          ∧ t.core c = { (u.core c).cycle (s.cycles + 1) with l1 := l1, sluiceWait := w })
      ∧ ∀ p ∈ t.probeQ, ∃ g sp tm, t.groups.look p.1 = some g ∧ g.res.look p.2 = some sp ∧ t.teams.look g.team = some tm
          ∧ tm.state = .resident ∧ g.state = .running ∧ sp.state = .ready
          ∧ (t.core tm.core).pulsed = true ∧ (t.core tm.core).halving % 2 = 0)
  ∧ (∀ (s : State), ∀ p ∈ s.arbitrated.issueQ, ∃ cx, s.cxOf p.1 p.2 = some cx ∧ cx.canIssue = true ∧ cx.sp.ready = true)
  ∧ (∀ (s : State), s.Ordered → s.KeepsGroups s.arbitrated
      ∧ s.arbitrated = { s with picking := false, probed := false, issueQ := s.arbitrated.issueQ, groups := s.arbitrated.groups })
  ∧ (∀ (n : Nat) (x y : CoreSt), y = x.cycle n →
      let pulse := x.swallow = false ∧ y.eff.getLsbD (n % 16) = true
      y.account = x.account - x.account / 2 ^ x.dk ∧ y.pulses = (if x.pulsed then x.pulses + 1 else x.pulses)
      ∧ (n % 16 ≠ 0 → y.eff = x.eff)
      ∧ (n % 16 = 0 → x.ckpat ≠ 0 → Bits.popcount y.eff = Bits.popcount x.ckpat - min x.clr (Bits.popcount x.ckpat - 1)
          ∧ (∀ k < 16, y.eff.getLsbD k = true → x.ckpat.getLsbD k = true)
          ∧ ∀ k < 16, ∀ j < k, y.eff.getLsbD k = true → x.ckpat.getLsbD j = true → y.eff.getLsbD j = true)
      ∧ (y.pulsed = true ↔ pulse)
      ∧ (pulse → y.swallow = decide (x.stretch ≠ 0) ∧ y.stretch = x.stretch - 1 ∧ y.halving = x.halving - 1)
      ∧ (¬ pulse → y.swallow = false ∧ y.stretch = x.stretch ∧ y.halving = x.halving)
      ∧ y = { x with
          account := y.account, pulses := y.pulses, eff := y.eff, pulsed := y.pulsed, swallow := y.swallow, stretch := y.stretch
          halving := y.halving })
  ∧ (∀ (charged : Bool) (cs : List Candidate) (c : Candidate), bestOf charged cs = some c →
      c ∈ cs ∧ ∀ d ∈ cs, d.before charged c = false)
  ∧ ∀ (charged : Bool) (a b : Candidate),
      (2048 ≤ a.ready → b.ready < 2048 → a.before charged b = true)
      ∧ (2048 ≤ b.ready → b.ready < a.ready → a.before charged b = true)
      ∧ (a.ready < 2048 → b.ready < 2048 →
        (b.prio < a.prio → a.before charged b = true)
        ∧ (b.prio = a.prio → charged = true → a.charge < b.charge → a.before charged b = true)
        ∧ (b.prio = a.prio → charged = false ∨ a.charge = b.charge → a.last < b.last → a.before charged b = true))

/-- R2, R472, R474 to R480, R482: the limits and alarms. A limit exceeded raises CLR of its cores in service by 1, a thermal trip or an unanswered
canary sets it to 15, and 10 µs without a condition lower it by 1; firmware is told where a count rises. A droop alarm opens both windows. A
register write takes values within their fields and ignores any other, and what it writes to reserved bits; one of CURCFG or WTAB takes effect
at the next cycle. -/
def Obligations.PowerEvents : Prop :=
  (∀ (s : State) (chip : Nat), chip < 16 →
      let on := fun (t : State) (f : CoreSt → CoreSt) =>
        ∀ c, t.core c = if c / 12 = chip ∧ s.inService c = true then f (s.core c) else s.core c
      let rises := ∃ c, c / 12 = chip ∧ s.inService c = true ∧ (s.core c).clr < 15
      let limit := fun (t : State) => t = { s with cores := t.cores, chips := t.chips, reports := t.reports }
        ∧ (rises → t.reports = s.reports ++ [.limit chip]) ∧ (¬ rises → t.reports = s.reports)
      (∃ t, exec (.currentLimitExceeded chip) s = .next t ∧ limit t ∧ t.chips = s.chips
        ∧ on t fun x => { x with clr := min 15 (x.clr + 1), clampAt := s.time.toNat })
      ∧ (∃ t, exec (.thermalTrip chip) s = .next t ∧ limit t ∧ t.chips = s.chips.put chip { s.chip chip with trip := true }
        ∧ on t fun x => { x with clr := 15, clampAt := s.time.toNat })
      ∧ ((s.chip chip).trip = false → exec (.thermalClear chip) s = .next s)
      ∧ ((s.chip chip).trip = true → ∃ t, exec (.thermalClear chip) s = .next t
        ∧ t = { s with cores := t.cores, chips := s.chips.put chip { s.chip chip with trip := false } }
        ∧ on t fun x => { x with clampAt := s.time.toNat })
      ∧ (let due := (s.chip chip).canary = true ∧ (s.chip chip).canaryClamp = false ∧ (s.chip chip).canaryAt + 20000 ≤ s.time.toNat
        (¬ due → exec (.canaryTimeout chip) s = .next s)
        ∧ (due → ∃ t, exec (.canaryTimeout chip) s = .next t ∧ limit t
          ∧ t.chips = s.chips.put chip { s.chip chip with canaryClamp := true } ∧ on t fun x => { x with clr := 15, clampAt := s.time.toNat }))
      ∧ ∀ mv, ∃ t, exec (.railVoltageChange chip mv) s = .next t
        ∧ t = { s with
            cores := t.cores, chips := s.chips.put chip { s.chip chip with rail := mv, canary := false, canaryClamp := false } }
        ∧ on t fun x => if (s.chip chip).canaryClamp then { x with clampAt := s.time.toNat } else x)
  ∧ (∀ (s : State), ∃ t, exec .powerLimitExceeded s = .next t
      ∧ t = { s with cores := t.cores, reports := t.reports }
      ∧ (let rises := ∃ c, s.inService c = true ∧ (s.core c).clr < 15
         (rises → t.reports = s.reports ++ [.limit 16]) ∧ (¬ rises → t.reports = s.reports))
      ∧ ∀ c, t.core c = if s.inService c = true then { s.core c with clr := min 15 ((s.core c).clr + 1), clampAt := s.time.toNat } else s.core c)
  ∧ (∀ (s : State) (core temperature : Nat),
      let x := s.core core
      let chip := s.chip (core / 12)
      (s.inService core = false → exec (.canaryWarning core temperature) s = .next s ∧ exec (.droopAlarm core) s = .next s)
      ∧ (s.inService core = true → ∃ t, exec (.canaryWarning core temperature) s = .next t
        ∧ t = { s with
          chips := s.chips.put (core / 12) { chip with canary := true, canaryAt := if chip.canary then chip.canaryAt else s.time.toNat }
          config := t.config, flash := t.flash, xmssNext := t.xmssNext, reports := s.reports ++ [.canary (core / 12)] }
        ∧ (s.xmssNext < 2 ^ 20 → t.config.ageing = s.config.ageing ++
            [{ core := core, rail := chip.rail, pattern := Bits.popcount x.eff, temperature := temperature, time := s.time.toNat }]))
      ∧ (s.inService core = true → exec (.droopAlarm core) s = .next (if x.drEnable = true ∧ x.pulsed = true then
          { s with
            cores := s.cores.put core { x with
              drCount := min (2 ^ 32 - 1) (x.drCount + 1), droop := true, stretch := 6, halving := 64 } } else s))
      ∧ exec (.droopWindowEnd core) s = .next (if x.droop = true ∧ x.stretch = 0 ∧ x.halving = 0 then
          { s with cores := s.cores.put core { x with droop := false } } else s)
      ∧ exec (.clampRelax core) s = .next (if x.clr ≠ 0 ∧ chip.trip = false ∧ chip.canaryClamp = false ∧ x.clampAt + 10000 ≤ s.time.toNat then
          { s with cores := s.cores.put core { x with clr := x.clr - 1, clampAt := s.time.toNat } } else s))
  ∧ (∀ (s : State) (v : Nat), v < 2 ^ 64 →
      let plim := v / 2 ^ 32 % 2 ^ 12
      let ilim := v % 2 ^ 13
      let limit := v % 2 ^ 48
      (1 ≤ plim → plim ≤ 2400 → 1 ≤ ilim → ilim ≤ 5000 → exec (.mgmtRegWrite 0x408 v) s = .next { s with plim := plim, ilim := ilim })
      ∧ (plim = 0 ∨ 2400 < plim ∨ ilim = 0 ∨ 5000 < ilim → exec (.mgmtRegWrite 0x408 v) s = .next s)
      ∧ (limit = 0 ∨ 2 ^ 20 ≤ limit → exec (.mgmtRegWrite 0x410 v) s = .next { s with wdlim := limit })
      ∧ (0 < limit → limit < 2 ^ 20 → exec (.mgmtRegWrite 0x410 v) s = .next s)
      ∧ ∀ off ∈ [0, 8, 16, 24, 0x100, 0x400, 0x401, 0x418], exec (.mgmtRegWrite off v) s = .next s)
  ∧ (∀ (s : State) (port plane colour v : Nat), port < 34 → plane < 2 → 1 ≤ colour → colour ≤ 35 → v < 2 ^ 64 →
      let off := 0x30000 + 0x800 * port + 0x400 * plane + 8 * colour
      let ok := v / 2 ^ 8 % 16 ≤ 10 ∧ (v / 2 ^ 15 % 2 = 1 ↔ v % 256 ≠ 0)
      exec (.mgmtRegWrite off v) s = .next s
      ∧ (¬ ok → exec (.mgmtRegWrite (off + 0x200) v) s = .next s)
      ∧ (ok → exec (.mgmtRegWrite (off + 0x200) v) s = .next (s.setLaneEntry port plane 1 colour (BitVec.ofNat 16 v &&& 0x8FFF)))
      ∧ (∀ x q pl half c, pl < 2 → half < 2 → c < 64 → (s.setLaneEntry port plane 1 colour x).laneEntry q pl half c =
          if q = port ∧ pl = plane ∧ half = 1 ∧ c = colour then x else s.laneEntry q pl half c))
  ∧ ∀ (s : State) (c v : Nat), c < 192 → v < 2 ^ 64 →
      let x := s.core c
      let write := fun (o : Nat) => exec (.mgmtRegWrite (0x10000 + 0x100 * c + o) v) s
      (s.inService c = false → ∀ o ∈ [0, 8, 16, 24, 32], write o = .next s)
      ∧ (s.inService c = true →
        (∀ o ∈ [0, 8, 16], write o = .next { s with curWrites := s.curWrites ++ [(c, o, v)] })
        ∧ (v % 2 ^ 16 ≠ 0 → write 24 = .next { s with cores := s.cores.put c { x with ckpat := BitVec.ofNat 16 v } })
        ∧ (v % 2 ^ 16 = 0 → write 24 = .next { s with cores := s.cores.put c x })
        ∧ (300 ≤ v % 2 ^ 10 → v % 2 ^ 10 ≤ 1000 →
          write 32 = .next { s with cores := s.cores.put c { x with drEnable := v / 2 ^ 16 % 2 == 1, drLevel := v % 2 ^ 10 } })
        ∧ (v % 2 ^ 10 < 300 ∨ 1000 < v % 2 ^ 10 → write 32 = .next { s with cores := s.cores.put c x }))
      ∧ (let dk := v / 2 ^ 52 % 16
         let y := if 2 ≤ dk ∧ dk ≤ 10 then { x with dk := dk, ctgt := v / 2 ^ 28 % 2 ^ 24 } else x
         s.applyCurrent (c, 0, v) = { s with cores := s.cores.put c y })
      ∧ (∃ w, s.applyCurrent (c, 8, v) = { s with wtabs := s.wtabs.put c w } ∧ w.toNat % 2 ^ 64 = v
          ∧ w.toNat / 2 ^ 64 = (s.wtab c).toNat / 2 ^ 64)
      ∧ ∃ w, s.applyCurrent (c, 16, v) = { s with wtabs := s.wtabs.put c w } ∧ w.toNat / 2 ^ 64 = v
          ∧ w.toNat % 2 ^ 64 = (s.wtab c).toNat % 2 ^ 64

/-! ### Peers, publish and subscribe, and collectives -/

/-- R458: an access of a peer is translated through its export context and performed at its home, which answers it; with no export context it is
answered PERM; a cause other than PAGE, a malformed entry's PERM among them, answers it with that cause and writes a trap record; a leaf in the
peer range is a PEER_FAULT. At a page that is not present it waits with a page request, but for a write that bounces (R417). -/
def Obligations.InboundAccesses : Prop :=
  (∀ (s : State) (device addr size code : Nat) (data : List Byte), addr < 2 ^ 40 → code ≤ 17 → 
    addr % 65536 + (if code = 0 then size else if code = 1 then data.length else if code < 13 then 4 else 8) ≤ 65536 →
    s.checkpointing = false → s.inReset = false →
    let i : Instr := .inboundPeerAccess device addr size code data
    let kind : AccessKind := if code = 0 then .read else if code = 1 then .write else .atomic
    (s.exports_.look device = none → exec i s = .next { s with sent := s.sent ++ [.reply device (.inr .perm)] })
    ∧ ∀ asid c, s.exports_.look device = some asid → s.ctxs.look asid = some c →
      let w := s.walkTouch asid addr
      let a : Inbound := { device := device, addr := addr, size := size, code := code, data := data }
      let waits := fun (t : State) =>
        t.mem = s.mem ∧ t.sent = s.sent ∧ t.inbound = s.inbound.put s.uid a
          ∧ ∃ q ∈ t.pageReqs, q.asid = asid ∧ q.page = addr / 65536 ∧ .inbound s.uid ∈ q.requesters
      (∀ (cause : Cause),
        (s.walk c addr = .malformed ∧ cause = .perm)
          ∨ (∃ pte bits at_, s.walk c addr = .leaf pte bits at_ ∧ s.useLeaf pte bits addr kind = .cause cause)
          ∨ (∃ pte bits at_ pa d, s.walk c addr = .leaf pte bits at_ ∧ s.useLeaf pte bits addr kind = .ok pa pte bits
              ∧ s.rangeKind pa = .peer d ∧ cause = .peerFault) →
        ∃ u, exec i s = .next { u with sent := u.sent ++ [.reply device (.inr cause)] }
          ∧ u = w.trapRecord asid
              { time := s.time, aux := BitVec.ofNat 64 device, addr := BitVec.ofNat 64 addr, cause := cause }
          ∧ ∀ d, u.ctxs.look asid = some d → d.state = c.state)
      ∧ (∀ (pte : DWord) (bits at_ pa : Nat), s.walk c addr = .leaf pte bits at_ →
        s.useLeaf pte bits addr kind = .ok pa pte bits → (∀ d, s.rangeKind pa ≠ .peer d) →
        s.Reaches (.peer device) pa (if code = 0 then size else if code = 1 then data.length else atomicSize (code - 2)) →
        w.homeReady (.peer device) pa (code != 0) = true →
        (code = 0 → ∃ t, exec i s = .next t
          ∧ t.sent = s.sent ++ [.reply device (.inl (s.physBytes pa size)) (s.physPoisoned pa size)] ∧ t.mem = s.mem
          ∧ State.OnlyMemory { s with sent := t.sent } t)
        ∧ (code = 1 → ∃ t, exec i s = .next t ∧ t.sent = s.sent ++ [.reply device (.inl [])] ∧ s.Stored t pa data
          ∧ State.OnlyMemory { s with sent := t.sent } t)
        ∧ ∀ p ∈ atomicOps, ∀ x y, code = p.1 + 2 → x = Memory.toNat (data.take 8) → y = Memory.toNat ((data.drop 8).take 8) →
          x < 2 ^ (8 * p.2.1) → y < 2 ^ (8 * p.2.1) → s.physPoisoned pa p.2.1 = false →
          let old := s.physRead pa p.2.1
          ∃ t, exec i s = .next t ∧ t.sent = s.sent ++ [.reply device (.inl (Memory.ofNat p.2.1 old))]
            ∧ (∀ v, p.2.2.2 old x y = some v → s.Stored t pa (Memory.ofNat p.2.1 v)) ∧ (p.2.2.2 old x y = none → t.mem = s.mem)
            ∧ State.OnlyMemory { s with sent := t.sent } t)
      ∧ ∀ (level : Nat) (entry : DWord) (at_ : Nat), s.walk c addr = .absent level entry at_ →
          (code ≠ 1 ∨ level ≠ 4 ∨ w.bounceWrite asid addr entry at_ data = none → ∃ t, exec i s = .next t ∧ waits t)
          ∧ ∀ u, code = 1 → level = 4 → w.bounceWrite asid addr entry at_ data = some u →
              exec i s = .next { u with sent := u.sent ++ [.reply device (.inl [])] })
  ∧ ∀ (s : State) (p : List Byte), s.Receives p [(0, 1), (2, 2)] →
      let d := field p 0 1
      let asid := field p 2 2
      (63 < d → exec (.exportDevice p) s = .next (s.answer .badDesc))
      ∧ (d ≤ 63 → asid = 0 → exec (.exportDevice p) s = .next (({ s with exports_ := s.exports_.del d } : State).answer .ok))
      ∧ (d ≤ 63 → asid ≠ 0 → s.ctxs.look asid = none → exec (.exportDevice p) s = .next (s.answer .badState))
      ∧ (d ≤ 63 → asid ≠ 0 → (s.ctxs.look asid).isSome →
          exec (.exportDevice p) s = .next (({ s with exports_ := s.exports_.put d asid } : State).answer .ok))

/-- R459, R460: a peer's reply ends its request and gives its lanes their values, under the bytes that a load took from its group's own store
queue (R69); it ends the wait of a split that reads for itself; a failed posted store leaves a record and has the group's next
system-scope release or fence trap; a reply to a request that has ended, and a timeout before 2 ms, change nothing. -/
def Obligations.PeerReplies : Prop :=
  (∀ (s : State) (x : Nat) (ok : Bool) (data : List Byte), s.peerReqs.look x = none →
      exec (.peerReply x ok data) s = .next s ∧ exec (.peerTimeout x) s = .next s)
  ∧ (∀ (s : State) (x : Nat) (r : PeerReq), s.peerReqs.look x = some r → s.time.toNat < r.sent + 2000000 →
      exec (.peerTimeout x) s = .next s)
  ∧ (∀ (s : State) (x tag : Nat) (r : PeerReq) (data : List Byte) (e : SluiceEntry) (g : Group), s.peerReqs.look x = some r → r.tag = some tag →
      r.coll = none → r.psub = none → (s.portOf r.device (r.vaddr.toNat / 256)).isSome → (s.core r.core).sluice.look tag = some e →
      s.groups.look e.group = some g → (∀ q ∈ e.reqs, q.err = none ∧ q.bad = false) → (e.reqs.map LaneReq.lane).Nodup → e.fault = 0 →
      e.landing = [] → e.reuse = none → e.access.acquire = none → r.lanes &&& ~~~ e.pend = 0 →
      let v := fun (q : LaneReq) => e.access.peerValue q.own data
      let left := e.pend &&& ~~~ r.lanes
      ∃ t g', exec (.peerReply x true data) s = .next t ∧ t.groups = s.groups.put e.group g' ∧ t.peerReqs = s.peerReqs.del x
        ∧ (∀ d n, e.access.dest = .vec d n →
            (∀ q ∈ e.reqs, r.lanes.getLsbD q.lane = true → ∀ k < n, d + k < 64 → g'.vlane (d + k) q.lane = BitVec.ofNat 32 (v q / 2 ^ (32 * k)))
            ∧ (∀ l k, r.lanes.getLsbD l = false → g'.vlane k l = g.vlane k l) ∧ g.KeepsV g' d n ∧ g.KeepsG g' [])
        ∧ (∀ d, e.access.dest = .grp d →
            (∀ q, e.reqs = [q] → d < 64 → r.lanes.getLsbD q.lane = true → g'.greg d = BitVec.ofNat 64 (v q))
            ∧ g.KeepsG g' [d] ∧ g.KeepsV g' 0 0)
        ∧ g.KeepsM g' [] ∧ g.KeepsJ g' [] ∧ g'.fflags = g.fflags
        ∧ (left ≠ 0 → ∃ e', (t.core r.core).sluice.look tag = some e' ∧ e'.pend = left)
        ∧ (left = 0 → (t.core r.core).sluice.look tag = none ∧ g'.res = (g.modTag e.split (Split.answered tag)).res)
        ∧ t = { s with groups := t.groups, cores := t.cores, peerReqs := t.peerReqs, fresh := t.fresh })
  ∧ (∀ (s : State) (x gid tag : Nat) (r : PeerReq) (data : List Byte) (g : Group), s.peerReqs.look x = some r → r.tag = none → r.entry = none →
      r.waiter = some (gid, tag) → r.coll = none → r.psub = none → (s.portOf r.device (r.vaddr.toNat / 256)).isSome →
      s.groups.look gid = some g → data.length = r.bytes →
      exec (.peerReply x true data) s = .next { s with
        peerReqs := s.peerReqs.del x
        groups := s.groups.put gid (g.modTag tag fun sp =>
          ({ sp with peerRead := sp.peerRead ++ [(r.vaddr, .inl data)] } : Split).answered peerTag) })
  ∧ (∀ (a : Access) (own : List (Nat × Byte)) (data bs : List Byte),
      (∀ n signed, a.op = .load n signed → (own.map Prod.fst).Nodup → bs.length = n →
        (∀ k < n, (∀ p ∈ own, p.1 ≠ k) → bs.getD k 0 = data.getD k 0) → (∀ p ∈ own, p.1 < n → bs.getD p.1 0 = p.2) →
        a.peerValue own data =
          if signed = true ∧ n < 4 then
            (match a.dest with
             | .grp _ => sext64 n (Memory.toNat bs)
             | _ => sext32 n (Memory.toNat bs))
          else Memory.toNat bs)
      ∧ ∀ k, a.op = .atomic k → a.peerValue own data = Memory.toNat (data.take (if k < 11 then 4 else 8)))
  ∧ (∀ (s : State) (x tag : Nat) (r : PeerReq) (e : SluiceEntry), s.peerReqs.look x = some r → r.tag = some tag →
      (s.core r.core).sluice.look tag = some e → e.pend &&& ~~~ r.lanes ≠ 0 → s.time.toNat ≥ r.sent + 2000000 →
      ∃ t, exec (.peerTimeout x) s = .next t ∧ s.KeepsGroups t ∧ t.mem = s.mem ∧ t.peerReqs = s.peerReqs.del x
        ∧ (t.core r.core).sluice.look tag = some { e with
            pend := e.pend &&& ~~~ r.lanes
            reqs := e.reqs.map fun q => if r.lanes.getLsbD q.lane = true then { q with err := some true } else q })
  ∧ ∀ (s : State) (x : Nat) (r : PeerReq) (f : InFlight) (g : Group) (tm : Team), s.peerReqs.look x = some r → r.tag = none → r.entry = some f →
      r.coll = none → r.psub = none → s.groups.look f.group = some g → s.teams.look g.team = some tm → g.postedFault = none →
      let fails := fun (t : State) (timedOut : Bool) =>
        s.KeepsGroups t ∧ t.peerReqs = s.peerReqs.del x ∧ (∃ g', t.groups.look f.group = some g' ∧ g'.postedFault = some (timedOut, r.device))
        ∧ ∃ u, u = ({ s with peerReqs := s.peerReqs.del x } : State).trapRecord r.asid
              { time := s.time, cause := if timedOut then .peerTimeout else .peerFault, aux := BitVec.ofNat 64 r.device, addr := r.vaddr
                pc := r.pc, lanes := r.lanes, core := r.core, kernel := tm.kernel, team := tm.linear, group := g.index }
            ∧ t = { u with groups := t.groups }
      ((s.portOf r.device (r.vaddr.toNat / 256)).isSome → ∃ t, exec (.peerReply x false []) s = .next t ∧ fails t false)
      ∧ (r.sent + 2000000 ≤ s.time.toNat → ∃ t, exec (.peerTimeout x) s = .next t ∧ fails t true)

/-- R461, R462, R469, R470: PUBDEF installs a region with version 2; a write to its bytes joins every subscriber's queue; the publish engine writes an odd
version, the bytes, and at a batch's end the even version; PUBV ends a batch; PSUB asks a publisher, whose answer ends its wait. -/
def Obligations.PublishSubscribe : Prop :=
  (∀ (a : BitVec 6) (s : State) (cx : Cx), Admits s cx { gr := [a.toNat], ends := true, memory := true } →
    let x := cx.grp.greg a.toNat
    ((¬ ∃ r, x.toNat < 256 ∧ s.pubs.look x.toNat = some r ∧ r.asid = cx.asid) → Raises (.pubv a) s cx .perm cx.sp.mask x 0 cx.sp.pc 0)
    ∧ ∀ (r : PubRegion) (pa bits : Nat) (pte : DWord), x.toNat < 256 → s.pubs.look x.toNat = some r → r.asid = cx.asid →
      s.releaseWaits cx 5 = false → cx.grp.postedFault = none →
      s.checkSystem cx.asid r.vaddr.toNat 8 8 .atomic = .ok pa pte bits → (∀ d, s.paKind pa ≠ .peer d) →
      (s.walkTouch cx.asid r.vaddr.toNat).homeReady (.core cx.core) pa true = true →
      ∃ u w t g v, exec (.pubv a) s = .next t ∧ v = BitVec.ofNat 64 (s.physRead pa 8) + 2
        ∧ s.Stored u pa (Memory.ofNat 8 v.toNat) ∧ State.OnlyMemory s u
        ∧ w = { u with pubs := w.pubs } ∧ (∀ k, k ≠ x.toNat → w.pubs.look k = u.pubs.look k)
        ∧ (∀ q, u.pubs.look x.toNat = some q → w.pubs.look x.toNat = some { q with
            subs := q.subs.map fun y => { y with ends := y.ends ++ [(y.queue.length, v)] } })
        ∧ Issued w t cx g (s.weight cx.core 28) Split.retire ∧ cx.grp.KeepsAll g)
  ∧ (∀ (a : BitVec 6) (s : State) (cx : Cx) (r : PubRegion) (k : Cause), Admits s cx { gr := [a.toNat], ends := true, memory := true } →
      let x := cx.grp.greg a.toNat
      x.toNat < 256 → s.pubs.look x.toNat = some r → r.asid = cx.asid → s.releaseWaits cx 5 = false → cx.grp.postedFault = none →
      s.checkSystem cx.asid r.vaddr.toNat 8 8 .atomic = .cause k → k ≠ .page →
      ∃ u, State.OnlyMemory s u ∧ u.mem = s.mem ∧ RaisesFrom (.pubv a) s u cx k cx.sp.mask r.vaddr 0 cx.sp.pc 0)
  ∧ (∀ (s : State) (id k : Nat) (r : PubRegion) (c : Ctx) (pa : Nat) (b : Byte) (pte : DWord) (bits at_ : Nat), s.pubs.look id = some r →
      s.ctxs.look r.asid = some c → k < r.pages →
      let t := s.physWrite pa [b]
      t.walk c (r.base.toNat + 65536 * k) = .leaf pte bits at_ →
      (leafFrame pte + (r.base.toNat + 65536 * k) % 2 ^ bits) / 65536 = pa / 65536 →
      (∀ j < k, ∀ e n m, t.walk c (r.base.toNat + 65536 * j) = .leaf e n m →
        (leafFrame e + (r.base.toNat + 65536 * j) % 2 ^ n) / 65536 ≠ pa / 65536) →
      t.pubs.look id = some { r with subs := r.subs.map fun x => { x with queue := x.queue ++ [(65536 * k + pa % 65536, b)] } })
  ∧ (∀ (s : State) (region n : Nat) (r : PubRegion) (x : Subscriber), s.pubs.look region = some r → r.subs[n]? = some x →
      let puts := fun (va : DWord) (bs : List Byte) (m : PeerMessage) (x' : Subscriber) =>
        (x.device ≠ Config.deviceNumber.toNat → exec (.publishForward region n) s = .next { s with
          sent := s.sent ++ [m], pubs := s.pubs.put region { r with subs := r.subs.set n x' } })
        ∧ (x.device = Config.deviceNumber.toNat → ∀ pa, s.EngineMaps x.asid va.toNat bs.length true pa →
            ∃ u, exec (.publishForward region n) s
                = .next { u with pubs := u.pubs.upd region fun (q : PubRegion) => { q with subs := q.subs.set n x' } }
              ∧ s.Stored u pa bs ∧ State.OnlyMemory s u)
      (∀ v rest, x.ends = (0, v) :: rest →
        puts x.copy (Memory.ofNat 8 v.toNat) (.copyVersion x.device x.copy v) { x with version := v, ends := rest })
      ∧ ((∀ v rest, x.ends ≠ (0, v) :: rest) → ∀ o b rest, x.queue = (o, b) :: rest →
        (x.version.toNat % 2 = 0 → puts x.copy (Memory.ofNat 8 (x.version + 1).toNat) (.copyVersion x.device x.copy (x.version + 1))
          { x with version := x.version + 1 })
        ∧ (x.version.toNat % 2 = 1 → puts (x.copy + BitVec.ofNat 64 (65536 + o)) [b]
            (.copyByte x.device (x.copy + BitVec.ofNat 64 (65536 + o)) b)
            { x with queue := rest, ends := x.ends.map fun e => (e.1 - 1, e.2) }))
      ∧ (x.ends = [] → x.queue = [] → exec (.publishForward region n) s = .next s)
      ∧ (∀ va k, s.forwardOne x = some (.wait va k) →
          exec (.publishForward region n) s = .next ((s.walkTouch x.asid va).pageRequest x.asid va k (.publish region)))
      ∧ ∀ va c, s.forwardOne x = some (.fault c va) →
          ∃ u, u = (s.walkTouch x.asid va).trapRecord x.asid { time := s.time, addr := BitVec.ofNat 64 va, cause := c }
            ∧ exec (.publishForward region n) s
                = .next { u with pubs := u.pubs.upd region fun (q : PubRegion) => { q with subs := q.subs.eraseIdx n } })
  ∧ (∀ (a b : BitVec 6) (s : State) (cx : Cx), Admits s cx { gr := [a.toNat, b.toNat], ends := true, memory := true } →
    let x := cx.grp.greg a.toNat
    let copy := cx.grp.greg b.toNat
    let named := copy = 0 ∨ (copy.toNat % 65536 = 0 ∧ copy.toNat < 2 ^ 56)
    (2 ^ 14 ≤ x.toNat → Raises (.psub a b) s cx .perm cx.sp.mask x 0 cx.sp.pc 0)
    ∧ (x.toNat < 2 ^ 14 → ¬ named → Raises (.psub a b) s cx .perm cx.sp.mask copy 0 cx.sp.pc 0)
    ∧ (x.toNat < 2 ^ 14 → named → ∃ t g, exec (.psub a b) s = .next t ∧ cx.grp.KeepsAll g
        ∧ Issued { s with
            peerReqs := s.peerReqs.put s.uid
              { device := x.toNat / 256, sent := s.time.toNat, core := cx.core, tag := none, lanes := cx.sp.mask, pc := cx.sp.pc
                vaddr := copy, asid := cx.asid, psub := some (cx.gid, cx.sp.tag), bytes := x.toNat % 256 }
            uid := s.uid + 1 } t cx g (s.weight cx.core 28) (fun sp =>
              { sp with state := .parked, parkOn := [peerTag], windows := sp.windows.filter fun w => w.tag != peerTag })))
  ∧ (∀ (s u : State) (x : Nat) (r : PeerReq) (cx : Cx) (accepted : Bool), s.peerReqs.look x = some r → r.psub = some (cx.gid, cx.sp.tag) →
      s.cxByTag cx.gid cx.sp.tag = some cx →
      let woken := fun (v : State) (f : Split → Split) => { v with
        peerReqs := s.peerReqs.del x, groups := s.groups.put cx.gid (cx.grp.modTag cx.sp.tag fun sp => f (sp.answered peerTag)) }
      let refused : Host.Outcome State Fault Refusal := .next (State.trapAll (woken s id) { cx with sp := cx.sp.answered peerTag } .perm
        (BitVec.ofNat 64 (r.bytes + 256 * r.device)))
      (r.device ≠ Config.deviceNumber.toNat → exec (.psubAnswer x accepted) s = if accepted then .next (woken s Split.retire) else refused)
      ∧ (r.device = Config.deviceNumber.toNat → s.pubs.look r.bytes = none → exec (.psubAnswer x accepted) s = refused)
      ∧ ∀ (q : PubRegion), r.device = Config.deviceNumber.toNat → s.pubs.look r.bytes = some q →
        let rest := q.subs.filter fun y => !(y.device == r.device && y.asid == r.asid)
        let gone : State := { s with peerReqs := s.peerReqs.del x }
        let bytes := gone.regionBytes q
        let now := bytes.1.regionVersion q
        (r.vaddr = 0 → u = { s with pubs := s.pubs.put r.bytes { q with subs := rest } } →
          exec (.psubAnswer x accepted) s = .next (woken u Split.retire))
        ∧ (r.vaddr ≠ 0 → 63 ≤ rest.length ∨ s.copyPresent r.asid r.vaddr r.bytes = false → exec (.psubAnswer x accepted) s = refused)
        ∧ (r.vaddr ≠ 0 → rest.length < 63 → s.copyPresent r.asid r.vaddr r.bytes = true →
          u = { now.1 with pubs := now.1.pubs.put r.bytes { q with subs := rest ++ [{
            device := r.device, copy := r.vaddr, asid := r.asid, queue := bytes.2, version := 0
            ends := [(bytes.2.length, now.2)] }] } } →
          exec (.psubAnswer x accepted) s = .next (woken u Split.retire)))
  ∧ (∀ (s : State) (q : PubRegion) (c : Ctx) (frame : Nat → Nat), s.ctxs.look q.asid = some c →
      (∀ k < q.pages, ∃ pte bits at_, s.walk c (q.base.toNat + 65536 * k) = .leaf pte bits at_
        ∧ frame k = leafFrame pte + (q.base.toNat + 65536 * k) % 2 ^ bits ∧ s.Reaches .system (frame k) 65536) →
      (s.regionBytes q).2 = ((List.range q.pages).flatMap fun k =>
          (List.range 65536).map fun j => (65536 * k + j, s.physByte (frame k + j)))
        ∧ State.OnlyMemory s (s.regionBytes q).1 ∧ (s.regionBytes q).1.mem = s.mem)
  ∧ (∀ (s : State) (q : PubRegion) (pa : Nat), s.Maps q.asid q.vaddr.toNat 8 8 .read pa →
      (s.regionVersion q).2 = BitVec.ofNat 64 (s.physRead pa 8) ∧ State.OnlyMemory s (s.regionVersion q).1 ∧ (s.regionVersion q).1.mem = s.mem)
  ∧ ∀ (s : State) (p : List Byte), s.Receives p [(0, 1), (1, 1), (2, 2), (8, 64)] →
      let id := field p 0 1
      let asid := field p 2 2
      let base := field p 8 8
      let pages := field p 0x10 8
      let vaddr := field p 0x18 8
      (1 < field p 1 1 → exec (.pubDef p) s = .next (s.answer .badDesc))
      ∧ (field p 1 1 = 0 → ∀ r, s.pubs.look id = some r →
          exec (.pubDef p) s = .next (if r.asid = asid then ({ s with pubs := s.pubs.del id } : State).answer .ok else s.answer .perm))
      ∧ (field p 1 1 = 0 → s.pubs.look id = none → exec (.pubDef p) s = .next (s.answer .badState))
      ∧ (field p 1 1 = 1 → ∀ r, s.pubs.look id = some r →
          exec (.pubDef p) s = .next (s.answer (if r.asid = asid then .badState else .perm)))
      ∧ (field p 1 1 = 1 → s.pubs.look id = none → s.ctxs.look asid = none → exec (.pubDef p) s = .next (s.answer .perm))
      ∧ (field p 1 1 = 1 → s.pubs.look id = none → (s.ctxs.look asid).isSome → base % 65536 = 0 → 1 ≤ pages → pages < 4096 →
          base + 65536 * pages ≤ 2 ^ 56 → vaddr % 8 = 0 → vaddr < base ∨ base + 65536 * pages ≤ vaddr → field p 0x20 40 = 0 →
          ∀ pa, s.Maps asid vaddr 8 8 .write pa → s.rangeKind pa = .device →
            ∃ u r, exec (.pubDef p) s = .next (({ u with pubs := u.pubs.put id r } : State).answer .ok)
              ∧ r = { asid := asid, base := BitVec.ofNat 64 base, pages := pages, vaddr := BitVec.ofNat 64 vaddr }
              ∧ s.Stored u pa (Memory.ofNat 8 2) ∧ State.OnlyMemory s u)

/-- R464 to R468: COLL queues the step of its descriptor that comes next; the engine's step sends one chunk and receives another, which the first
N − 1 steps of an all-reduce add to SRC; the step word and, after the last step, the completion word follow.

R466, R487: CREFORM starts a failed shadow-mode collective again over a ring without the failed rank; CABORT ends it, with the lowest failed
position in its completion word. Neither acts on a collective that is not failed, is in direct mode, or is another context's. -/
def Obligations.CollectiveResults : Prop :=
  (
  (∀ (a b : BitVec 6) (s u v : State) (cx : Cx) (bs ring : List Byte) (key bits : Nat) (pte : DWord) (c : Collective),
    Admits s cx { gr := [a.toNat, b.toNat], memory := true } →
    let at_ := cx.grp.greg a.toNat
    let step := (cx.grp.greg b.toNat).toNat
    let rings : DWord := BitVec.ofNat 64 (field bs 0x10 8)
    s.readRecord cx cx.sp.firmware at_ 64 64 at_ = .bytes u bs →
    (rings.toNat % 64 ≠ 0 → exec (.coll a b) s = .next (u.trapAll cx .perm at_))
    ∧ (rings.toNat % 64 = 0 → u.readRecord cx cx.sp.firmware rings 64 64 rings = .bytes v ring →
      v.checkGlobal cx.core cx.asid cx.sp.firmware at_.toNat 64 64 .read = .ok key pte bits →
      (collOf cx.asid bs ring = none → exec (.coll a b) s = .next (v.trapAll cx .perm at_))
      ∧ (collOf cx.asid bs ring = some c →
        let old := (v.colls.look key).filter fun o => !(o.done && step == 0)
        let due := (old.map Collective.issued).getD 0
        (v.paKind key ≠ .device ∨ collSteps c.op c.ranks ≤ step ∨ step ≠ due → exec (.coll a b) s = .next (v.trapAll cx .perm at_))
        ∧ (v.paKind key = .device → step < collSteps c.op c.ranks → step = due →
          (∀ p, step = 0 → c.shadow = true → v.badShadowPage c = some p →
            exec (.coll a b) s = .next (v.trapAll cx .perm (BitVec.ofNat 64 (p * 65536))))
          ∧ ((step = 0 → c.shadow = true → v.badShadowPage c = none) →
            (old = none → 64 ≤ v.collsInFlight → exec (.coll a b) s = .next v)
            ∧ (old.isSome ∨ v.collsInFlight < 64 → cx.sp.drainArmed = false ∨ v.drained cx = true →
              ∃ w t g, exec (.coll a b) s = .next t ∧ cx.grp.KeepsAll g
                ∧ Issued w t cx g (v.weight cx.core 28) (fun sp => { sp.retire with drainArmed := false })
                ∧ w = { v with colls := w.colls, peerReqs := w.peerReqs, uid := w.uid }
                ∧ (old = none → w.colls = v.colls.put key { c with issued := 1, teams := [cx.uid] })
                ∧ (∀ o, old = some o → o.done = false →
                    w.colls = v.colls.put key { o with issued := step + 1, teams := o.teams ++ [cx.uid] })
                ∧ (∀ o, old = some o → o.done = true →
                    w.colls = if step + 1 = collSteps o.op o.origRing.length then v.colls.del key
                      else v.colls.put key { o with issued := step + 1 })))))))
  ∧ (∀ (c : Collective) (k : Nat), c.rank < c.ranks → 2 ≤ c.ranks → k < collSteps c.op c.ranks →
      let m := fun (x : Int) => x % (c.ranks : Int)
      let p := c.plan k
      (c.op ≠ 4 → k < c.ranks - 1 → (p.1 : Int) = m (c.rank - k) ∧ (p.2.1 : Int) = m (c.rank - k - 1) ∧ p.2.2 = true)
      ∧ (c.op ≠ 4 → c.ranks - 1 ≤ k → (p.1 : Int) = m (c.rank + 1 - (k - c.ranks + 1)) ∧ (p.2.1 : Int) = m (c.rank - (k - c.ranks + 1))
          ∧ p.2.2 = false)
      ∧ (c.op = 4 → (p.1 : Int) = m (c.rank - k) ∧ (p.2.1 : Int) = m (c.rank - k - 1) ∧ p.2.2 = false)
      ∧ (c.op ≠ 4 → c.chunk k = (k * c.count / c.ranks, (k + 1) * c.count / c.ranks - k * c.count / c.ranks)))
  ∧ (∀ (s : State) (key : Nat) (c : Collective) (data : List Byte) (pw ps pi : Nat),
      let es := collSize c.op
      let p := c.plan c.finished
      let out := c.chunk p.1
      let into := c.chunk p.2.1
      let sum := collAdd c.op es into.2 data (s.physBytes ps (into.2 * es))
      c.shadow = false → data.length = into.2 * es → s.EngineMaps c.asid (c.dst.toNat + out.1 * es) (out.2 * es) false pw →
      (p.2.2 = true → s.EngineMaps c.asid (c.src.toNat + into.1 * es) (into.2 * es) false ps) →
      s.EngineMaps c.asid (c.dst.toNat + into.1 * es) (into.2 * es) true pi →
      ∃ u, s.collMove key c data = .ok u () ∧ s.Stored u pi (if p.2.2 then sum else data)
        ∧ u.sent = s.sent ++ [.chunk (c.ring.getD ((c.rank + 1) % c.ranks) 64) key c.finished (s.physBytes pw (out.2 * es))]
        ∧ State.OnlyMemory { s with sent := u.sent } u)
  ∧ (∀ (op k n : Nat) (x y : List Byte), k < n → x.length = n * collSize op → y.length = n * collSize op →
      let el := fun (bs : List Byte) => Memory.toNat ((bs.drop (collSize op * k)).take (collSize op))
      el (collAdd op (collSize op) n x y) = (match op with
        | 0 => (fp32.add (el x) (el y)).1
        | 1 => (bf16.add (el x) (el y)).1
        | 2 => (fp64.add (el x) (el y)).1
        | _ => (el x + el y) % 2 ^ 32))
  ∧ (∀ (s u : State) (key : Nat) (c : Collective) (data : List Byte), s.colls.look key = some c → c.done = false → c.failed = none →
      c.shadow = false → c.stepAddr.toNat % 4 = 0 → c.caddr.toNat % 4 = 0 → 2 ≤ c.ranks →
      let last := collSteps c.op c.ranks
      let went := fun (t : State) => t.groups = s.groups ∧ t.teams = s.teams
        ∧ t.colls.look key = some { c with finished := c.finished + 1, teams := c.teams.drop 1, done := decide (c.finished + 1 = last), held := none }
      (c.issued ≤ c.finished → exec (.collectiveStepComplete key data) s = .next s)
      ∧ (0 < c.finished → c.finished < c.issued → c.finished < last → data.length = (c.chunk (c.plan c.finished).2.1).2 * collSize c.op →
        (∀ va k, s.collMove key c data = .wait va k → ∃ t, exec (.collectiveStepComplete key data) s = .next t ∧ t.mem = s.mem
          ∧ t.groups = s.groups ∧ t.colls = s.colls.upd key (fun c => { c with held := some data })
          ∧ ∃ q ∈ t.pageReqs, q.asid = c.asid ∧ q.page = va / 65536 ∧ .collective key ∈ q.requesters)
        ∧ (s.collMove key c data = .ok u () → u.groups = s.groups → u.teams = s.teams →
        (c.finished + 1 < last → c.stepAddr = 0 → ∃ t, exec (.collectiveStepComplete key data) s = .next t ∧ t.mem = u.mem ∧ went t)
        ∧ (∀ pa, c.finished + 1 < last → c.stepAddr ≠ 0 → u.EngineMaps c.asid c.stepAddr.toNat 4 true pa →
            ∃ t, exec (.collectiveStepComplete key data) s = .next t ∧ u.Stored t pa (Memory.ofNat 4 (c.finished + 1)) ∧ went t)
        ∧ (∀ pa, c.finished + 1 = last → c.stepAddr = 0 → c.caddr ≠ 0 → u.EngineMaps c.asid c.caddr.toNat 4 true pa →
            ∃ t, exec (.collectiveStepComplete key data) s = .next t ∧ u.Stored t pa (Memory.ofNat 4 c.cval.toNat)
              ∧ (c.issued = collSteps c.op c.origRing.length → t.colls.look key = none)
              ∧ (c.issued ≠ collSteps c.op c.origRing.length → went t)))))
  ∧ ∀ (s : State) (key pa p : Nat) (c : Collective) (data : List Byte), s.colls.look key = some c → c.done = false → c.failed = some p →
      c.shadow = false → c.caddr ≠ 0 → s.EngineMaps c.asid c.caddr.toNat 4 true pa →
      ∃ t, exec (.collectiveStepComplete key data) s = .next t ∧ s.Stored t pa (Memory.ofNat 4 (0xFFFFFF00 + p)) ∧ t.colls.look key = none
        ∧ t.groups = s.groups)
  ∧ (
  ∀ (s : State) (p : List Byte) (key : Nat),
    let asid := field p 0 2
    let n := field p 0x50 1
    let rank := field p 0x51 1
    let ring := (((p.drop 0x10).take 64).take n).map BitVec.toNat
    ∀ i fields, (i = .collReform p ∧ fields = [(0, 2), (8, 8), (0x10, 64), (0x50, 1), (0x51, 1)]) ∨ (i = .collAbort p ∧ fields = [(0, 2), (8, 8)]) →
    s.Receives p fields →
    ((∃ x, s.checkSystem asid (field p 8 8) 64 64 .read = .cause x) → exec i s = .next (s.answer .badDesc))
    ∧ (s.Maps asid (field p 8 8) 64 64 .read key →
      (s.colls.look key = none → exec i s = .next (s.answer .badState))
      ∧ ∀ c, s.colls.look key = some c →
        (c.asid ≠ asid → exec i s = .next (s.answer .perm))
        ∧ (c.asid = asid → c.failed = none ∨ c.shadow = false → exec i s = .next (s.answer .badState))
        ∧ ∀ lost, c.asid = asid → c.failed = some lost → c.shadow = true →
          let good := 2 ≤ n ∧ n ≤ 64 ∧ rank < n ∧ ring.getD rank 64 = Config.deviceNumber.toNat ∧ List.Sublist ring c.ring
            ∧ c.ring.getD lost 64 ∉ ring
          (i = .collReform p → ¬ good → exec i s = .next (s.answer .badDesc))
          ∧ (i = .collReform p → good → ∃ t, exec i s = .next t ∧ t.mailbox = (s.answer .ok).mailbox
              ∧ t.colls = s.colls.put key { c with ring := ring, rank := rank, finished := 0, failed := none, held := none }
              ∧ t = { s with colls := t.colls, mailbox := t.mailbox, peerReqs := t.peerReqs, uid := t.uid })
          ∧ (i = .collAbort p → c.caddr = 0 → ∃ t, exec i s = .next t ∧ t.mailbox = (s.answer .ok).mailbox ∧ t.colls.look key = none
              ∧ t.mem = s.mem)
          ∧ (i = .collAbort p → ∀ pa, c.caddr ≠ 0 → s.EngineMaps asid c.caddr.toNat 4 true pa →
              ∃ t, exec i s = .next t ∧ t.mailbox = (s.answer .ok).mailbox ∧ t.colls.look key = none
                ∧ s.Stored t pa (Memory.ofNat 4 (0xFFFFFF00 + lost)))))

/-! ### The host's accesses, the mailbox, and boot -/

/-- R24, R397, R398, R484: the host's accesses to device memory. A read returns the bytes at the address; a write is performed there; a line taken into
the host's cache stays its own until it is given back, with its bytes when the host has changed it. An access that its home holds comes again in
the next master cycle; a part in reset takes none.

R24, R485 to R487: the mailbox. A part in reset takes no command; while a background operation runs every command is Busy and does nothing else; a payload that ends before its last
field, or holds a byte other than 0 outside its fields, is BAD_DESC and does nothing else; an opcode that no row lists is Unsupported. -/
def Obligations.HostAndMailbox : Prop :=
  (
  (∀ (s : State) (addr size code : Nat) (data : List Byte), code < 4 → s.rangeKind addr = .device → s.inReset = false →
      addr % 65536 + (if code = 1 then data.length else size) ≤ 65536 →
      let i : Instr := .hostAccess addr size code data
      (s.homeReady .host addr (code == 1 || code == 3) = true →
        (code = 0 → s.Reaches .host addr size → ∃ t, exec i s = .next t ∧ t.sent = s.sent ++ [.hostData (s.physBytes addr size)] ∧ t.mem = s.mem
          ∧ State.OnlyMemory { s with sent := t.sent } t)
        ∧ (code = 1 → s.Reaches .host addr data.length → ∃ t, exec i s = .next t ∧ s.Stored t addr data ∧ State.OnlyMemory s t)
        ∧ (2 ≤ code → ∃ t, exec i s = .next t ∧ (∀ l, l ∈ t.hostLines ↔ l = s.redirect addr / 128 ∨ l ∈ s.hostLines) ∧ t.mem = s.mem
          ∧ State.OnlyMemory { s with hostLines := t.hostLines } t))
      ∧ (s.homeReady .host addr (code == 1 || code == 3) = false → ∃ t, exec i s = .next t
          ∧ t.again = s.again ++ [i] ∧ t.mem = s.mem ∧ State.OnlyMemory { s with again := t.again } t))
  ∧ (∀ (s : State) (addr size code : Nat) (data : List Byte), s.inReset = true → exec (.hostAccess addr size code data) s = .next s)
  ∧ (∀ (s : State) (line : Nat) (data : List Byte),
      (line ∉ s.hostLines → exec (.hostSnoopResponse line data) s = .next s)
      ∧ (line ∈ s.hostLines → ∃ t, exec (.hostSnoopResponse line data) s = .next t
        ∧ (∀ l, l ∈ t.hostLines ↔ l ∈ s.hostLines ∧ l ≠ line) ∧ (∀ l, l ∈ t.snoops ↔ l ∈ s.snoops ∧ l ≠ line)
        ∧ (data.length = 128 → s.Stored t (line * 128) data) ∧ (data.length ≠ 128 → t.mem = s.mem)
        ∧ State.OnlyMemory { s with hostLines := t.hostLines } t))
  ∧ ∀ (s : State) (addr line : Nat) (write : Bool), s.paKind addr = .device → line = s.redirect addr / 128 → line ∈ s.hostLines →
      (∀ c, s.homeReady (.core c) addr write = false ∧ line ∈ (s.homeTouch (.core c) addr write).snoops)
      ∧ (∀ d, s.homeReady (.peer d) addr write = false ∧ line ∈ (s.homeTouch (.peer d) addr write).snoops))
  ∧ (
  (∀ (s : State) (p : List Byte),
    ∀ x ∈ [(Instr.ctxBind p, bindFields), (.ctxSuspend p, [(0, 2)]), (.ctxClear p, [(0, 2)]), (.ctxDestroy p, [(0, 2)])
      , (.qCreate p, [(0, 2), (2, 2), (8, 8), (0x10, 8)]), (.qArm p, [(0, 2), (2, 2)]), (.qDrain p, [(0, 2), (2, 2)])
      , (.qSuspend p, [(0, 2), (2, 2)]), (.qResume p, [(0, 2), (2, 2)]), (.qSkip p, [(0, 2), (2, 2)]), (.qDestroy p, [(0, 2), (2, 2)])
      , (.qPostHost p, [(0, 2), (2, 2), (8, 128)]), (.kAbortHost p, [(0, 2), (8, 8), (0x10, 4)]), (.exportDevice p, [(0, 1), (2, 2)])
      , (.pubDef p, [(0, 1), (1, 1), (2, 2), (8, 64)]), (.collReform p, [(0, 2), (8, 8), (0x10, 64), (0x50, 1), (0x51, 1)])
      , (.collAbort p, [(0, 2), (8, 8)]), (.regRead p, [(0, 4), (4, 4)]), (.imgLoad p, [(0, 8), (8, 8)]), (.attest p, [(0, 32)])
      , (.ideKey p, [(0, 1), (1, 1), (2, 1), (3, 1), (0x10, 32), (0x30, 12)]), (.ckpt p, [(0, 1), (8, field p 0 1)])
      , (.ckRestore p, [(0, 1), (8, field p 0 1)])],
    (s.inReset = true → exec x.1 s = .next s)
    ∧ (s.inReset = false → s.mailbox.background.isSome → exec x.1 s = .next { s with mailbox := { s.mailbox with code := .busy } })
    ∧ (s.inReset = false → s.mailbox.background = none → payloadOk p x.2 = false → exec x.1 s = .next { s with
        mailbox := { s.mailbox with code := .success, status := 1, output := [1, 0, 0, 0] } })
    ∧ (payloadOk p x.2 = true ↔ (∀ f ∈ x.2, f.1 + f.2 ≤ p.length)
        ∧ ∀ k < p.length, (∀ f ∈ x.2, k < f.1 ∨ f.1 + f.2 ≤ k) → p.getD k 0 = 0))
  ∧ ∀ (s : State) (opcode : Nat), exec (.unsupportedOpcode opcode) s =
      .next (if s.inReset = false ∧ 0xC000 ≤ opcode ∧ opcode ≤ 0xFFFF ∧ (0xC003 < opcode → opcode < 0xC010 ∨ 0xC018 < opcode) ∧ 0xC003 < opcode
          ∧ (opcode < 0xC020 ∨ 0xC023 < opcode) ∧ opcode ∉ [0xC030, 0xC040, 0xC041, 0xC042, 0xC050, 0xC051]
        then { s with mailbox := { s.mailbox with code := .unsupported } } else s))

/-- R472, R484, R486 to R491: REGREAD reads registers; IMGLOAD keeps a passing image for the next boot; ATTEST reports under an index that is used once;
IDEKEY fills a key slot; CKPT keeps device memory and CKRESTORE brings it back. -/
def Obligations.HostCommands : Prop :=
  (∀ (s : State) (p : List Byte), s.Receives p [(0, 4), (4, 4)] →
      let off := field p 0 4
      let n := field p 4 4
      (off % 8 ≠ 0 ∨ n = 0 ∨ 64 < n → exec (.regRead p) s = .next (s.answer .badDesc))
      ∧ (off % 8 = 0 → 0 < n → n ≤ 64 → ∃ out, exec (.regRead p) s = .next (s.answer .ok ([0, 0, 0, 0] ++ out)) ∧ out.length = 8 * n
          ∧ ∀ k < n, Memory.toNat ((out.drop (8 * k)).take 8) = s.regValue (off + 8 * k) % 2 ^ 64))
  ∧ (∀ (s : State), (∀ k < 4, s.regValue (8 * k) = s.fenceMap.toNat / 2 ^ (64 * k) % 2 ^ 64)
      ∧ (∀ k < 64, s.regValue (0x100 + 8 * k) = s.shareFault.toNat / 2 ^ (64 * k) % 2 ^ 64)
      ∧ s.regValue 0x400 = s.survivors ∧ s.regValue 0x408 = s.plim * 2 ^ 32 + s.ilim ∧ s.regValue 0x410 = s.wdlim
      ∧ (∀ off, (0x20 ≤ off ∧ off < 0x100) ∨ (0x300 ≤ off ∧ off < 0x400) ∨ (0x418 ≤ off ∧ off < 0x10000) → s.regValue off = 0)
      ∧ ∀ c < 192, ∀ o < 0x100, o % 8 = 0 → s.inService c = false → s.regValue (0x10000 + 0x100 * c + o) = 0)
  ∧ (∀ (s : State) (p : List Byte), s.Receives p [(0, 8), (8, 8)] →
      let addr := field p 0 8
      let n := field p 8 8
      let bs := s.physBytes (2 ^ 48 + addr) n
      let kept : Background → Host.Outcome State Fault Refusal := fun b => .next { s with
        mailbox := { s.mailbox with code := .background, background := some b } }
      (2 ^ 48 < addr + n → exec (.imgLoad p) s = .next (s.answer .badDesc))
      ∧ (addr + n ≤ 2 ^ 48 → n < 9796 ∨ 67118660 < n → exec (.imgLoad p) s = kept (.imgload 0 { version := 0, digest := 0 } false))
      ∧ (addr + n ≤ 2 ^ 48 → 9796 ≤ n → n ≤ 67118660 → exec (.imgLoad p) s = kept (.imgload (field bs 4 2)
          { version := field bs 8 8, digest := Config.shake256 ((bs.drop 64).take (n - 9796)) } (s.imagePasses bs))))
  ∧ (∀ (s : State) (bs : List Byte), s.imagePasses bs = true ↔ 64 + field bs 0x10 8 + 9732 = bs.length ∧ field bs 0x10 8 ≤ 2 ^ 26
      ∧ field bs 0 4 = 0x464C4F44 ∧ 1 ≤ field bs 4 2 ∧ field bs 4 2 ≤ 3
      ∧ ((bs.drop 0x18).take 8 = List.replicate 8 0 ∨ (bs.drop 0x18).take 8 = (digestBytes identityDigest).take 8)
      ∧ Config.xmssVerify (field bs 4 2) (bs.take (bs.length - 9732)) (bs.drop (bs.length - 9732)) = true
      ∧ s.config.minVersion.lookD (field bs 4 2) 0 ≤ field bs 8 8)
  ∧ (∀ (s : State) (kind : Nat) (x : Image),
      (s.mailbox.background = some (.imgload kind x true) → exec .imgLoadComplete s
        = .next (({ s with flash := s.flash.put kind x } : State).backgroundDone .ok))
      ∧ (s.mailbox.background = some (.imgload kind x false) → exec .imgLoadComplete s = .next (s.backgroundDone .badImage))
      ∧ (s.mailbox.background = none → exec .imgLoadComplete s = .next s ∧ ∀ b, exec (.ckptComplete b) s = .next s
          ∧ exec (.ckRestoreComplete b) s = .next s))
  ∧ (∀ (s : State) (p : List Byte), s.Receives p [(0, 32)] →
      let signs := s.config.xmssIndex ≤ s.xmssNext + 1
      let index := if signs then s.xmssNext + 1 else s.xmssNext
      (2 ^ 20 ≤ index → exec (.attest p) s = .next (s.answer .perm))
      ∧ (index < 2 ^ 20 → ∃ (u : State) (report : List Byte), exec (.attest p) s = .next (u.answer .ok
            (Memory.ofNat 4 9972 ++ report ++ (List.range 9732).map (Config.xmssSign index report)))
        ∧ u = { s with xmssNext := index + 1, config := u.config, flash := u.flash }
        ∧ (¬ signs → u.config = s.config ∧ u.flash = s.flash)
        ∧ (signs → u.config = { s.config with xmssIndex := s.config.xmssIndex + 1024, digest := u.config.digest }
            ∧ (∀ k, k ≠ 3 → u.flash.look k = s.flash.look k) ∧ ∃ x, u.flash.look 3 = some x ∧ u.config.digest = some x.digest)
        ∧ report.length = 240 ∧ report.take 32 = p.take 32 ∧ field report 0x20 8 = Config.deviceNumber.toNat
        ∧ field report 0x28 32 = identityDigest.toNat ∧ field report 0xC0 32 = s.fenceMap.toNat ∧ field report 0xE0 8 = s.survivors
        ∧ field report 0xE8 8 = index
        ∧ ∀ k x, 1 ≤ k → k ≤ 3 → s.images.look k = some x →
            field report (0x48 + 40 * (k - 1)) 8 = x.version % 2 ^ 64 ∧ field report (0x50 + 40 * (k - 1)) 32 = x.digest.toNat))
  ∧ (∀ (s : State) (p : List Byte), s.Receives p [(0, 1), (1, 1), (2, 1), (3, 1), (0x10, 32), (0x30, 12)] →
      let k : IdeKey :=
        { stream := field p 0 1, transmit := field p 1 1 == 1, substream := field p 2 1, keyset := field p 3 1
          key := (p.drop 0x10).take 32, iv := (p.drop 0x30).take 12 }
      let other := fun (x : IdeKey) =>
        x.stream ≠ k.stream ∨ x.transmit ≠ k.transmit ∨ x.substream ≠ k.substream ∨ x.keyset ≠ k.keyset
      (1 < field p 1 1 ∨ 1 < k.keyset → exec (.ideKey p) s = .next (s.answer .badDesc))
      ∧ (field p 1 1 ≤ 1 → k.keyset ≤ 1 → ∃ l, exec (.ideKey p) s = .next (({ s with ideKeys := l } : State).answer .ok)
          ∧ ∀ x, x ∈ l ↔ x = k ∨ (x ∈ s.ideKeys ∧ other x)))
  ∧ (∀ (s : State) (p : List Byte), s.Receives p [(0, 1), (8, field p 0 1)] →
      let tier := ((p.drop 8).take (field p 0 1)).map BitVec.toNat
      let valid := 1 ≤ field p 0 1 ∧ field p 0 1 ≤ 63 ∧ ∀ d ∈ tier, d ≤ 63
      ∀ i ∈ [(Instr.ckpt p, Background.ckpt tier), (.ckRestore p, .ckrestore tier)],
        (¬ valid → exec i.1 s = .next (s.answer .badDesc))
        ∧ (valid → (∃ c ∈ s.ctxs, c.2.state ≠ .suspended) → exec i.1 s = .next (s.answer .badState))
        ∧ (valid → (∀ c ∈ s.ctxs, c.2.state = .suspended) → exec i.1 s = .next { s with
            mailbox := { s.mailbox with code := .background, background := some i.2 } }))
  ∧ ∀ (s : State) (tier : List Nat), Memory.wf s.mem = true → Memory.wf s.safeTier = true →
      (s.mailbox.background = some (.ckpt tier) →
        exec (.ckptComplete false) s = .next (s.backgroundDone .perm)
        ∧ ∃ m, exec (.ckptComplete true) s = .next (({ s with safeTier := m } : State).backgroundDone .ok)
          ∧ ∀ a, Memory.byte m a = if a < s.deviceBytes then Memory.byte s.mem a else 0)
      ∧ (s.mailbox.background = some (.ckrestore tier) →
        exec (.ckRestoreComplete false) s = .next (s.backgroundDone .perm)
        ∧ ∃ t, exec (.ckRestoreComplete true) s = .next t ∧ t.mailbox = (s.backgroundDone .ok).mailbox ∧ Memory.wf t.mem = true
          ∧ (∀ a, Memory.byte t.mem a = if a < s.deviceBytes then Memory.byte s.safeTier a else Memory.byte s.mem a)
          ∧ t = { s with mem := t.mem, memPoison := t.memPoison, cores := t.cores, quads := t.quads, mailbox := t.mailbox })

/-- R22, R24 to R27, R384, R488: a boot fences what its tests find, an absent compute chiplet's cores and shares with them, with what a verified
configuration image records, uses the images that verify, and stays in reset, with a report of its fence map, when too little is in service; the
links of a chiplet that is not in service are DOWN; no context, queue, kernel, team or group outlives it, nor a byte of device memory. A loss of the
supply leaves flash, the configuration record, the safe tier and host memory. That nothing else outlives them is the model's choice (log entry
30). -/
def Obligations.BootAndPower : Prop :=
  (∀ (s : State) (fence shares colours verified : Nat),
      let passes := fun (k : Nat) => verified / 2 ^ k % 2 = 1
      let absent := fun (n : Nat) => n < 16 ∧ fence.testBit (256 + n) = true
      ∃ t, exec (.boot fence shares colours verified) s = .next t
        ∧ (∀ k < 256, t.fenceMap.getLsbD k = true ↔ k < 210 ∧ (fence.testBit k = true ∨ t.config.fence.getLsbD k = true ∨ absent (k / 12)))
        ∧ (∀ k < 4096, t.shareFault.getLsbD k = true ↔ shares.testBit k = true ∨ t.config.fencedShares.getLsbD k = true ∨ absent (k / 256))
        ∧ (t.inReset = true ↔ (t.fenceMap.getLsbD 208 = true ∧ t.fenceMap.getLsbD 209 = true) ∨ (∀ c < 192, t.fenceMap.getLsbD c = true)
            ∨ t.survivors < 8)
        ∧ (t.inReset = true → .fenceMap t.fenceMap ∈ t.reports)
        ∧ (∀ k, validPair k = true → t.pairInService k = false → (t.pair k).down = true)
        ∧ t.failedSources = t.config.sources
        ∧ t.polders = [(0, { state := .active, grant := 0, current := ~~~ t.shareFault })]
        ∧ (∀ x, x ∈ t.images ↔ x ∈ s.flash ∧ passes x.1) ∧ t.xmssNext = t.config.xmssIndex
        ∧ (s.flash.look 3 = none → t.config = s.config)
        ∧ (∀ x, s.flash.look 3 = some x → passes 3 → s.config.digest = some x.digest → t.config = s.config)
        ∧ (∀ x, s.flash.look 3 = some x → ¬ passes 3 → t.config = { xmssIndex := 2 ^ 20 })
        ∧ t.flash = s.flash ∧ t.safeTier = s.safeTier ∧ t.ctxs = [] ∧ t.queues = [] ∧ t.kernels = [] ∧ t.teams = [] ∧ t.groups = []
        ∧ t.nextSeq = 1 ∧ t.tide = 0 ∧ t.time = 0 ∧ t.cycles = 0 ∧ t.cores = [] ∧ t.exports_ = [] ∧ t.pubs = [] ∧ t.colls = []
        ∧ (Memory.wf s.mem = true → ∀ a, Memory.byte t.mem a = if a < 2 ^ 48 then 0 else Memory.byte s.mem a)
        ∧ (fence = 0 → colours = 0 → t.config.fence = 0 → t.config.colours = 0 → t.config.sources = [] → t.links = [] ∧ t.pairs = []))
  ∧ ∀ (s : State), ∃ t, exec .powerLoss s = .next t ∧ t.inReset = true ∧ t.flash = s.flash ∧ t.config = s.config ∧ t.safeTier = s.safeTier
      ∧ (Memory.wf s.mem = true → ∀ a, Memory.byte t.mem a = if a < 2 ^ 48 then 0 else Memory.byte s.mem a)
      ∧ t.ctxs = [] ∧ t.groups = [] ∧ t.mailbox.background = none

/-! ### The whole machine -/

/-- R87, R88, R99: words that the spec writes out decode to the instructions it writes beside them, and the two words it gives as no instruction
decode to none. -/
def Obligations.WordsOfTheSpec : Prop :=
  (∀ p ∈ [(0x00000000, Instr.iadd 0 0 0 0), (0x4020C301, .iaddImm 2 3 3 1), (0x300420C4, .ffma 1 2 3 4), (0x590841C2, .ldW 2 4 7 2)
      , (0xAB67FFFB, .braD 3 1 (-5)), (0xA1041234, .gldq 2 4 0x1234), (0xE8600004, .fence 4), (0xE8000000, .nop), (0xE8100005, .trap 5)
      , (0xE8400050, .sysr 0 5 0), (0xE1001050, .coll 4 5), (0xE1101800, .pubv 6), (0xE1201870, .psub 6 7), (0xE1300880, .lstat 2 8)],
    decodeTableWord 32 p.1 = some p.2)
  ∧ decodeTableWord 32 0x78000000 = none ∧ decodeTableWord 32 0x40700000 = none

/-- R87, R88, R94, R99: decoding the word of a well-formed instruction gives the instruction back, with every operand; a word that decodes is the
word of what it decodes to, so no bit of it is dropped, and it is well formed. -/
def Obligations.DecodeAndEncodeAgree : Prop :=
  (∀ (vregs : Nat) (i : Instr) (w : Word), encode i = some w → wellFormed vregs i = true → decode vregs w = some i)
  ∧ ∀ (vregs : Nat) (i : Instr) (w : Word), decode vregs w = some i → encode i = some w ∧ wellFormed vregs i = true

/-- R99, R206, R225, with the order of steps of log entry 1: with no event due, no merge and nothing left to examine, a step fetches the word at the pc
of the first split of the issue list, which its last examination has found ready, and runs the instruction it decodes to; the issue itself changes
no register, pc or byte of memory. A word that decodes to none, and a failed fetch, are events of their own. Before it a step examines that split's
next instruction, as it has examined every split that could issue before the arbiters chose. An event that is due runs first; with nothing left
the next master cycle runs. -/
def Obligations.StepRunsDecoded : Prop :=
  (∀ (s u : State) (gid k : Nat) (rest : List (Nat × Nat)) (cx : Cx), s.agenda = [] → s.inReset = false → s.mergeNow = none →
      s.probeQ = [] → s.picking = false → s.probed = true → s.issueQ = (gid, k) :: rest →
      u = { s with issueQ := rest, probed := false, probing := false } → s.cxOf gid k = some cx →
      (cx.canIssue = false ∨ cx.sp.ready = false → step s = .next u)
      ∧ (cx.canIssue = true → cx.sp.ready = true →
        (∀ w pa, u.fetch cx = .word w pa → ∃ t : State,
          (∀ i, decode cx.kern.launch.vregs w = some i → step s = exec i t)
          ∧ (decode cx.kern.launch.vregs w = none → step s = exec .illegalWordIssue t)
          ∧ (∃ cx', t.issuer = some cx' ∧ cx'.gid = gid ∧ cx'.k = k ∧ cx'.sp.pc = cx.sp.pc ∧ cx'.sp.mask = cx.sp.mask
              ∧ cx'.sp.firmware = cx.sp.firmware ∧ cx.grp.KeepsAll cx'.grp)
          ∧ s.KeepsGroups t ∧ t.mem = s.mem
          ∧ t = { u with
              cur := some (gid, k), groups := t.groups, cores := t.cores, chips := t.chips, classes := t.classes
              snoops := t.snoops, quads := t.quads, homes := t.homes, banks := t.banks, agenda := t.agenda })
        ∧ ((∀ w pa, u.fetch cx ≠ .word w pa) → ∃ t : State, step s = exec .instructionFetchFault t ∧ s.KeepsGroups t
            ∧ t = { u with cur := some (gid, k), groups := t.groups })))
  ∧ (∀ (s u t : State) (gid k : Nat) (rest : List (Nat × Nat)) (cx : Cx), s.agenda = [] → s.inReset = false → s.mergeNow = none →
      (s.probeQ = (gid, k) :: rest ∧ u = { s with probeQ := rest, probing := true })
        ∨ (s.probeQ = [] ∧ s.picking = false ∧ s.probed = false ∧ s.issueQ = (gid, k) :: rest
          ∧ u = { s with probed := true, probing := true }) →
      s.cxOf gid k = some cx → cx.canIssue = true → t = { u with cur := some (gid, k) } →
      (∀ w pa i, u.fetch cx = .word w pa → decode cx.kern.launch.vregs w = some i → step s = exec i t)
      ∧ (∀ w pa, u.fetch cx = .word w pa → decode cx.kern.launch.vregs w = none → step s = exec .illegalWordIssue t)
      ∧ ((∀ w pa, u.fetch cx ≠ .word w pa) → step s = exec .instructionFetchFault t))
  ∧ (∀ (s : State), s.agenda = [] → s.inReset = false → s.mergeNow = none → s.probeQ = [] → s.picking = true →
      step s = .next ({ s with probing := false } : State).arbitrated)
  ∧ (∀ (s : State) (core asid pa bits : Nat) (firmware : Bool) (pc pte : DWord),
      s.checkGlobal core asid firmware pc.toNat 4 4 .fetch = .ok pa pte bits → s.homeReady (.core core) pa false = true →
      s.physPoisoned pa 4 = false → s.fetchAt core asid firmware pc = .word (BitVec.ofNat 32 (Memory.toNat (s.physBytes pa 4))) pa)
  ∧ (∀ (s : State) (i : Instr) (rest : List Instr), s.mergeNow = none → s.agenda = i :: rest →
      step s = exec i { s with agenda := rest, cur := none, probing := false })
  ∧ (∀ (s : State) (gid x y : Nat), s.mergeNow = some (gid, x, y) → s.agenda ≠ [] ∨ s.inReset = false →
      step s = exec (.splitMerge gid x y) { s with probing := false })
  ∧ (∀ (s : State), s.agenda = [] → s.inReset = false → s.mergeNow = none → s.probeQ = [] → s.picking = false → s.issueQ = [] →
      step s = exec (.masterCycle s.cycleNs) { s with cur := none, probing := false })
  ∧ ∀ (s : State), s.agenda = [] → s.inReset = true → step s = .next { s with probing := false }

/-- What the spec gives for the state after a boot that fences nothing: no context, team or queue, T = 0 (R432), the first launch sequence number
(R193), polder 0 with every share (R384), the power limits and WDLIM (R472, R482), the current registers of each core (R473 to R477), WTAB (R474);
and the invariants of the statements below hold there. -/
def Obligations.StateAfterReset : Prop :=
  let s := State.reset
  s.ctxs = [] ∧ s.teams = [] ∧ s.groups = [] ∧ s.queues = [] ∧ s.kernels = [] ∧ s.tide = 0 ∧ s.time = 0 ∧ s.nextSeq = 1 ∧ s.fenceMap = 0
  ∧ s.shareFault = 0 ∧ s.survivors = 16 ∧ s.plim = 2400 ∧ s.ilim = 5000 ∧ s.wdlim = 2 ^ 32 ∧ s.zero.current = BitVec.allOnes 4096
  ∧ s.zero.state = .active
  ∧ (∀ c < 192, s.regValue (0x10000 + 0x100 * c) = 4 * 2 ^ 52 + 0xFFFFFF * 2 ^ 28 ∧ s.regValue (0x10000 + 0x100 * c + 8) = 0x8888888888888888
      ∧ s.regValue (0x10000 + 0x100 * c + 16) = 0x8888888888888888 ∧ s.regValue (0x10000 + 0x100 * c + 24) = 0xFFFFFFFF
      ∧ s.regValue (0x10000 + 0x100 * c + 32) = 2 ^ 16 + 300)
  ∧ Memory.wf s.mem = true ∧ s.Ordered ∧ ∀ p ∈ s.groups, p.2.SplitsApart

/-- Every step keeps memory in its canonical form: addresses strictly rising, and no entry equal to what an unlisted address reads as, so that memories
that read alike are equal. -/
def Obligations.MemoryStaysCanonical : Prop :=
  ∀ s t : State, Memory.wf s.mem = true → step s = .next t → Memory.wf t.mem = true

/-- Every step keeps the maps of groups, teams and queues, and every split table, in the order of their keys. -/
def Obligations.MapsStayOrdered : Prop :=
  ∀ s t : State, s.Ordered → step s = .next t → t.Ordered

/-- R204: whatever step is taken, the masks of a group's splits stay disjoint, their union holds every lane that has not exited, none is empty, and
their TAGs are unique. -/
def Obligations.SplitsStayApart : Prop :=
  ∀ s t : State, s.Ordered → (∀ p ∈ s.groups, p.2.SplitsApart) → step s = .next t → ∀ p ∈ t.groups, p.2.SplitsApart

/-- R25, R26: fencing takes effect only at boot. No instruction and no other event changes FENCEMAP, in any state; the loss of the supply, after
which the part holds nothing until it boots, aside. -/
def Obligations.FencingOnlyAtBoot : Prop :=
  ∀ (i : Instr) (s t : State), (∀ f sh c v, i ≠ .boot f sh c v) → i ≠ .powerLoss → exec i s = .next t → t.fenceMap = s.fenceMap
end

