-- ==== Sys2Proof/Laws/Map.lean ====
section
/-! SUPPORT. The laws of the finite maps: reading after writing, and that writing keeps the keys strictly rising. -/

namespace Sys2Proof.Map

variable {α : Type}

@[simp] theorem look_nil (k : Nat) : Map.look ([] : Map α) k = none := rfl

theorem look_cons (k' : Nat) (b : α) (m : Map α) (k : Nat) :
    Map.look ((k', b) :: m) k = if k' = k then some b else Map.look m k := rfl

/-- Reading the key just written gives the value written. -/
@[simp] theorem look_put_same (m : Map α) (k : Nat) (a : α) : (Map.put m k a).look k = some a := by
  induction m with
  | nil => simp [Map.put, Map.look]
  | cons p rest ih =>
    obtain ⟨k', b⟩ := p
    unfold Map.put
    split
    · simp [Map.look]
    · split
      · simp [Map.look]
      · next h1 h2 => simp only [Map.look]; rw [if_neg (fun h => h2 h.symm)]; exact ih

/-- Writing one key leaves every other key alone. -/
theorem look_put_ne (m : Map α) {k j : Nat} (a : α) (h : j ≠ k) : (Map.put m k a).look j = m.look j := by
  induction m with
  | nil => simp [Map.put, Map.look, Ne.symm h]
  | cons p rest ih =>
    obtain ⟨k', b⟩ := p
    unfold Map.put
    split
    · simp [Map.look, Ne.symm h]
    · split
      · next h2 => subst h2; simp [Map.look, Ne.symm h]
      · simp only [Map.look]; rw [ih]

theorem look_put (m : Map α) (k j : Nat) (a : α) : (Map.put m k a).look j = if j = k then some a else m.look j := by
  split
  · next h => subst h; exact look_put_same ..
  · next h => exact look_put_ne _ _ h

theorem look_upd_same (m : Map α) (k : Nat) (f : α → α) : (Map.upd m k f).look k = (m.look k).map f := by
  unfold Map.upd; split <;> simp_all

theorem look_upd_ne (m : Map α) {k j : Nat} (f : α → α) (h : j ≠ k) : (Map.upd m k f).look j = m.look j := by
  unfold Map.upd; split
  · exact look_put_ne _ _ h
  · rfl

theorem upd_eq_put {m : Map α} {k : Nat} {a : α} (h : m.look k = some a) (f : α → α) : m.upd k f = m.put k (f a) := by
  simp [Map.upd, h]

theorem lookD_put_same (m : Map α) (k : Nat) (a d : α) : (Map.put m k a).lookD k d = a := by simp [Map.lookD]

theorem lookD_put_ne (m : Map α) {k j : Nat} (a d : α) (h : j ≠ k) : (Map.put m k a).lookD j d = m.lookD j d := by
  simp [Map.lookD, look_put_ne _ _ h]

/-- A key that has been taken out reads as none. -/
@[simp] theorem look_del_same (m : Map α) (k : Nat) : (Map.del m k).look k = none := by
  induction m with
  | nil => rfl
  | cons p rest ih =>
    unfold Map.del
    split
    · exact ih
    · next h => rw [look_cons, if_neg h, ih]

/-- Taking a key out leaves every other key alone. -/
theorem look_del_ne (m : Map α) {k j : Nat} (h : j ≠ k) : (Map.del m k).look j = m.look j := by
  induction m with
  | nil => rfl
  | cons p rest ih =>
    unfold Map.del
    split
    · next e => rw [ih, look_cons, if_neg (fun e' => h (e'.symm.trans e))]
    · rw [look_cons, look_cons, ih]

/-- Writing a key twice is writing it once. -/
theorem put_put (m : Map α) (k : Nat) (a b : α) : (Map.put m k a).put k b = m.put k b := by
  induction m with
  | nil => simp [Map.put]
  | cons p rest ih =>
    obtain ⟨k', c⟩ := p
    by_cases h1 : k < k'
    · simp [Map.put, h1]
    · by_cases h2 : k = k'
      · simp [Map.put, h2]
      · simp [Map.put, h1, h2, ih]

end Sys2Proof.Map
end

