-- ==== Sys2Proof/Laws/Mem.lean ====
section
/-! SUPPORT. The laws of the sparse memory: reading after writing, and that every operation keeps the canonical form. -/

namespace Sys2Proof.Memory

/-- The addresses of a memory all lie above a bound. -/
def above (m : List Host.Cell) (a : Nat) : Prop := ∀ c ∈ m, a < c.1

theorem wf_cons {a : Nat} {b : Byte} {m : List Host.Cell} : wf ((a, b) :: m) = true ↔ b ≠ unlisted ∧ above m a ∧ wf m = true := by
  induction m generalizing a b with
  | nil => simp [wf, above]
  | cons c rest ih =>
    obtain ⟨a', b'⟩ := c
    constructor
    · intro h
      simp only [wf, Bool.and_eq_true, bne_iff_ne, decide_eq_true_eq] at h
      refine ⟨h.1.1, fun c hc => ?_, h.2⟩
      rcases List.mem_cons.1 hc with rfl | hc
      · exact h.1.2
      · exact Nat.lt_trans h.1.2 ((ih.1 h.2).2.1 c hc)
    · rintro ⟨h1, h2, h3⟩
      simp only [wf, Bool.and_eq_true, bne_iff_ne, decide_eq_true_eq]
      exact ⟨⟨h1, h2 (a', b') (List.mem_cons_self ..)⟩, h3⟩

theorem byte_of_above {m : List Host.Cell} {a k : Nat} (h : above m a) (hk : k ≤ a) : byte m k = unlisted := by
  cases m with
  | nil => rfl
  | cons c rest =>
    obtain ⟨a', b'⟩ := c
    have := h (a', b') (List.mem_cons_self ..)
    simp only [byte]
    rw [if_neg (by omega), if_pos (by omega)]

theorem above_setByte {m : List Host.Cell} {lo a : Nat} (h : above m lo) (ha : lo < a) (b : Byte) : above (setByte m a b) lo := by
  induction m with
  | nil => unfold setByte; split <;> simp_all [above]
  | cons c rest ih =>
    obtain ⟨a', c'⟩ := c
    have hr : above rest lo := fun c hc => h c (List.mem_cons_of_mem _ hc)
    have h0 := h (a', c') (List.mem_cons_self ..)
    unfold setByte
    split
    · split
      · exact h
      · intro c hc
        rcases List.mem_cons.1 hc with rfl | hc
        · exact ha
        · exact h c hc
    · split
      · split
        · exact hr
        · intro c hc
          rcases List.mem_cons.1 hc with rfl | hc
          · exact ha
          · exact hr c hc
      · intro c hc
        rcases List.mem_cons.1 hc with rfl | hc
        · exact h0
        · exact ih hr c hc

/-- Writing a byte keeps the canonical form. -/
theorem wf_setByte {m : List Host.Cell} (h : wf m = true) (a : Nat) (b : Byte) : wf (setByte m a b) = true := by
  induction m with
  | nil =>
    unfold setByte
    split
    · rfl
    · simpa [wf] using ‹_›
  | cons c rest ih =>
    obtain ⟨a', c'⟩ := c
    obtain ⟨h1, h2, h3⟩ := wf_cons.1 h
    unfold setByte
    split
    · split
      · exact h
      · refine wf_cons.2 ⟨‹_›, fun c hc => ?_, h⟩
        rcases List.mem_cons.1 hc with rfl | hc
        · assumption
        · exact Nat.lt_trans ‹_› (h2 c hc)
    · split
      · subst_vars
        split
        · exact h3
        · exact wf_cons.2 ⟨‹_›, h2, h3⟩
      · exact wf_cons.2 ⟨h1, above_setByte h2 (by omega) b, ih h3⟩

/-- Reading a byte after a write: the written address has the new byte, every other address its old one. -/
theorem byte_setByte {m : List Host.Cell} (h : wf m = true) (a k : Nat) (b : Byte) :
    byte (setByte m a b) k = if k = a then b else byte m k := by
  induction m with
  | nil =>
    unfold setByte
    split
    · subst_vars; simp [byte]
    · simp only [byte]
      by_cases hk : k = a
      · simp [hk]
      · simp [hk, Ne.symm hk]
  | cons c rest ih =>
    obtain ⟨a', c'⟩ := c
    obtain ⟨h1, h2, h3⟩ := wf_cons.1 h
    unfold setByte
    split
    · split
      · subst_vars
        split
        · subst_vars; simp only [byte]; rw [if_neg (by omega), if_pos (by omega)]
        · rfl
      · by_cases hk : k = a
        · simp [byte, hk]
        · by_cases hlt : k < a
          · simp only [byte]; rw [if_neg (by omega), if_pos hlt, if_neg hk, if_neg (by omega), if_pos (by omega)]
          · simp only [byte]; rw [if_neg (by omega), if_neg hlt, if_neg hk]
    · split
      · next heq =>
        subst heq
        split
        · next hb =>
          by_cases hk : k = a
          · subst hk; rw [if_pos rfl, hb]; exact byte_of_above h2 (Nat.le_refl _)
          · rw [if_neg hk]; simp only [byte]; rw [if_neg (Ne.symm hk)]
            split
            · exact byte_of_above h2 (by omega)
            · rfl
        · by_cases hk : k = a
          · subst hk; simp [byte]
          · simp [byte, hk, Ne.symm hk]
      · by_cases hk : k = a
        · subst hk; rw [if_pos rfl]; simp only [byte]; rw [if_neg (by omega), if_neg (by omega), ih h3, if_pos rfl]
        · rw [if_neg hk]; simp only [byte]; rw [ih h3, if_neg hk]

/-- Writing a list of cells, one byte after the other. -/
theorem wf_foldl_setByte {m : List Host.Cell} (h : wf m = true) (cs : List Host.Cell) :
    wf (cs.foldl (fun m c => setByte m c.1 c.2) m) = true := by
  induction cs generalizing m with
  | nil => exact h
  | cons c rest ih => exact ih (wf_setByte h ..)

/-- An address that no cell names keeps its byte. -/
theorem byte_foldl_setByte_ne {m : List Host.Cell} (h : wf m = true) {cs : List Host.Cell} {k : Nat} (hk : ∀ c ∈ cs, c.1 ≠ k) :
    byte (cs.foldl (fun m c => setByte m c.1 c.2) m) k = byte m k := by
  induction cs generalizing m with
  | nil => rfl
  | cons c rest ih =>
    refine (ih (wf_setByte h ..) fun c hc => hk c (List.mem_cons_of_mem _ hc)).trans ?_
    rw [byte_setByte h, if_neg (Ne.symm (hk c (List.mem_cons_self ..)))]

/-- Cells with different addresses: each is read back. -/
theorem byte_foldl_setByte {m : List Host.Cell} (h : wf m = true) {cs : List Host.Cell} (hd : (cs.map Prod.fst).Nodup) {c : Host.Cell}
    (hc : c ∈ cs) : byte (cs.foldl (fun m c => setByte m c.1 c.2) m) c.1 = c.2 := by
  induction cs generalizing m with
  | nil => cases hc
  | cons d rest ih =>
    rw [List.map_cons, List.nodup_cons] at hd
    rcases List.mem_cons.1 hc with rfl | hc
    · refine (byte_foldl_setByte_ne (wf_setByte h ..) fun e he heq => hd.1 (List.mem_map.2 ⟨e, he, heq⟩)).trans ?_
      rw [byte_setByte h, if_pos rfl]
    · exact ih (wf_setByte h ..) hd.2 hc

/-- Writing bytes keeps the canonical form. -/
theorem wf_setBytes {m : List Host.Cell} (h : wf m = true) (a : Nat) (bs : List Byte) : wf (setBytes m a bs) = true := by
  induction bs generalizing m a with
  | nil => exact h
  | cons b rest ih => exact ih (wf_setByte h ..) _

theorem byte_setBytes {m : List Host.Cell} (h : wf m = true) (a : Nat) (bs : List Byte) (k : Nat) :
    byte (setBytes m a bs) k = if a ≤ k ∧ k < a + bs.length then bs.getD (k - a) 0 else byte m k := by
  induction bs generalizing m a with
  | nil => rw [setBytes, if_neg (by simp)]
  | cons b rest ih =>
    rw [setBytes, ih (wf_setByte h ..), byte_setByte h]
    simp only [List.length_cons]
    by_cases h1 : k = a
    · subst h1; rw [if_neg (by omega), if_pos rfl, if_pos (by omega)]; simp
    · by_cases h2 : a + 1 ≤ k ∧ k < a + 1 + rest.length
      · rw [if_pos h2, if_pos (by omega)]
        obtain ⟨j, rfl⟩ : ∃ j, k = a + 1 + j := ⟨k - (a + 1), by omega⟩
        rw [show a + 1 + j - a = j + 1 by omega, show a + 1 + j - (a + 1) = j by omega]; rfl
      · rw [if_neg h2, if_neg h1, if_neg (by omega)]

/-- Writing a number keeps the canonical form. -/
theorem wf_write {m : List Host.Cell} (h : wf m = true) (a n v : Nat) : wf (write m a n v) = true := wf_setBytes h ..

/-- Clearing all but a range keeps the canonical form. -/
theorem wf_clearRange {m : List Host.Cell} (h : wf m = true) (lo hi : Nat) : wf (clearRange m lo hi) = true := by
  unfold clearRange
  induction m with
  | nil => rfl
  | cons c rest ih =>
    obtain ⟨a, b⟩ := c
    obtain ⟨h1, h2, h3⟩ := wf_cons.1 h
    rw [List.filter_cons]
    split
    · exact wf_cons.2 ⟨h1, fun c hc => h2 c (List.mem_filter.1 hc).1, ih h3⟩
    · exact ih h3

@[simp] theorem length_ofNat (n v : Nat) : (ofNat n v).length = n := by
  induction n generalizing v with
  | zero => rfl
  | succ n ih => simp [ofNat, ih]

/-- A number is read back from its bytes. -/
theorem toNat_ofNat (n v : Nat) : toNat (ofNat n v) = v % 2 ^ (8 * n) := by
  induction n generalizing v with
  | zero => simp [ofNat, toNat, Nat.mod_one]
  | succ n ih =>
    simp only [ofNat, toNat, ih, BitVec.toNat_ofNat]
    rw [Nat.mul_succ, Nat.pow_add, Nat.mul_comm (2 ^ (8 * n)), Nat.mod_mul]

end Sys2Proof.Memory
end

