-- ==== Sys2Proof/Laws/Phys.lean ====
section
/-! SUPPORT. What the operations on physical memory and on home classes leave unchanged, and reading bytes back after a write. -/

namespace Sys2Proof.Machine

theorem State.redirect_mod (s : State) (a : Nat) : s.redirect a % 65536 = a % 65536 := by
  unfold State.redirect
  split
  · rw [Nat.add_comm, Nat.mul_comm]; simp
  · rfl

/-- A line's new home depends on the migrations alone. -/
theorem State.redirect_congr {s t : State} (h : t.migrations = s.migrations) (a : Nat) : t.redirect a = s.redirect a := by
  unfold State.redirect; rw [h]

theorem State.physByte_congr {s t : State} (h : t.mem = s.mem) (hm : t.migrations = s.migrations) (a : Nat) :
    t.physByte a = s.physByte a := by
  unfold State.physByte; rw [h, State.redirect_congr hm]

theorem State.physBytes_congr {s t : State} (h : t.mem = s.mem) (hm : t.migrations = s.migrations) (a n : Nat) :
    t.physBytes a n = s.physBytes a n := by
  unfold State.physBytes; congr 1; funext k; exact State.physByte_congr h hm _

/-- The cells that a write of bytes sets. -/
def State.writeCells (s : State) (a : Nat) (bs : List Byte) : List Host.Cell :=
  (List.range bs.length).map fun k => (s.redirect (a + k), bs.getD k 0)

/-- A write of bytes changes memory, the poison it covers, reports, the queues of pub regions and what the dispatcher has seen, and nothing
else. -/
theorem State.physWrite_spec (s : State) (a : Nat) (bs : List Byte) :
    (s.physWrite a bs).mem = (s.writeCells a bs).foldl (fun m c => Memory.setByte m c.1 c.2) s.mem
      ∧ s.physWrite a bs = { s with
          mem := (s.physWrite a bs).mem, memPoison := (s.physWrite a bs).memPoison, reports := (s.physWrite a bs).reports
          pubs := (s.physWrite a bs).pubs, queues := (s.physWrite a bs).queues } := by
  have h1 : ∀ t : State, ∃ b, t.forward a bs = { t with pubs := b } := by
    intro t; unfold State.forward; split <;> exact ⟨_, rfl⟩
  have h2 : ∃ x r, s.rawWrite a bs
      = { s with mem := (s.writeCells a bs).foldl (fun m c => Memory.setByte m c.1 c.2) s.mem, memPoison := x, reports := r } := by
    unfold State.rawWrite; dsimp only; split <;> exact ⟨_, _, rfl⟩
  have h3 : ∀ (t : State) (n : Nat), ∃ q, t.watch a n = { t with queues := q } := by
    intro t n; unfold State.watch; split <;> exact ⟨_, rfl⟩
  obtain ⟨x, r, hx⟩ := h2
  obtain ⟨b, hb⟩ := h1 (s.rawWrite a bs)
  obtain ⟨q, hq⟩ := h3 ((s.rawWrite a bs).forward a bs) bs.length
  unfold State.physWrite
  rw [hq, hb, hx]
  exact ⟨rfl, rfl⟩

theorem State.physWrite_migrations (s : State) (a : Nat) (bs : List Byte) : (s.physWrite a bs).migrations = s.migrations := by
  rw [(State.physWrite_spec s a bs).2]

/-- A write keeps memory's canonical form. -/
theorem State.wf_physWrite {s : State} (h : Memory.wf s.mem = true) (a : Nat) (bs : List Byte) :
    Memory.wf (s.physWrite a bs).mem = true := by
  rw [(State.physWrite_spec s a bs).1]; exact Memory.wf_foldl_setByte h _

/-- The bytes just written are read back. -/
theorem State.physBytes_physWrite {s : State} (h : Memory.wf s.mem = true) (a : Nat) {bs : List Byte} (hl : bs.length ≤ 65536) :
    (s.physWrite a bs).physBytes a bs.length = bs := by
  have hnd : ((s.writeCells a bs).map Prod.fst).Nodup := by
    unfold State.writeCells
    rw [List.map_map]
    refine List.pairwise_map.2 (List.Pairwise.imp_of_mem ?_ List.nodup_range)
    intro i j hi hj hne hij
    have e := congrArg (· % 65536) hij
    simp only [Function.comp_apply, State.redirect_mod] at e
    have := List.mem_range.1 hi
    have := List.mem_range.1 hj
    omega
  apply List.ext_getElem
  · simp [State.physBytes]
  · intro k hk hk'
    simp only [State.physBytes, List.getElem_map, List.getElem_range]
    unfold State.physByte
    rw [(State.physWrite_spec s a bs).1, State.redirect_congr (State.physWrite_migrations s a bs)]
    have hm : (s.redirect (a + k), bs.getD k 0) ∈ s.writeCells a bs := List.mem_map.2 ⟨k, List.mem_range.2 hk', rfl⟩
    have := Memory.byte_foldl_setByte h hnd hm
    simpa [hk'] using this

/-- Every address whose home is not written keeps its byte. -/
theorem State.physByte_physWrite_ne {s : State} (h : Memory.wf s.mem = true) {a b : Nat} {bs : List Byte}
    (hb : ∀ k, k < bs.length → s.redirect b ≠ s.redirect (a + k)) : (s.physWrite a bs).physByte b = s.physByte b := by
  unfold State.physByte
  rw [(State.physWrite_spec s a bs).1, State.redirect_congr (State.physWrite_migrations s a bs)]
  refine Memory.byte_foldl_setByte_ne h fun c hc => ?_
  obtain ⟨k, hk, rfl⟩ := List.mem_map.1 hc
  exact fun e => hb k (List.mem_range.1 hk) e.symm

/-- Only home classes, snoops, reuse tables, homes, banks and the events to come may differ. -/
def HomesOnly (s t : State) : Prop :=
  ∃ c n q h b a, t = { s with classes := c, snoops := n, quads := q, homes := h, banks := b, agenda := a }

theorem HomesOnly.refl (s : State) : HomesOnly s s := ⟨_, _, _, _, _, _, rfl⟩

theorem HomesOnly.trans {s t u : State} (h : HomesOnly s t) (h' : HomesOnly t u) : HomesOnly s u := by
  obtain ⟨c, n, q, x, b, a, rfl⟩ := h
  obtain ⟨c', n', q', x', b', a', rfl⟩ := h'
  exact ⟨c', n', q', x', b', a', rfl⟩

theorem HomesOnly.foldl {α : Type} {f : State → α → State} (h : ∀ s a, HomesOnly s (f s a)) (s : State) (l : List α) :
    HomesOnly s (l.foldl f s) := by
  induction l generalizing s with
  | nil => exact .refl s
  | cons a l ih => exact (h s a).trans (ih _)

/-! ### Banks and directories -/

theorem State.later_homes (s : State) (i : Instr) : HomesOnly s (s.later i) := ⟨_, _, _, _, _, _, rfl⟩

theorem State.modBank_homes (s : State) (b : Nat) (f : Bank → Bank) : HomesOnly s (s.modBank b f) := ⟨_, _, _, _, _, _, rfl⟩

theorem State.modHome_homes (s : State) (h : Nat) (f : Home → Home) : HomesOnly s (s.modHome h f) := ⟨_, _, _, _, _, _, rfl⟩

theorem State.wakeBank_homes (s : State) (b : Nat) : HomesOnly s (s.wakeBank b) := by
  unfold State.wakeBank
  split
  · exact .refl s
  · exact State.modBank_homes ..

theorem State.dropLines_homes (s : State) (b : Nat) (p : BankLine → Bool) : HomesOnly s (s.dropLines b p) := by
  unfold State.dropLines
  dsimp only
  split
  · exact (State.wakeBank_homes ..).trans (State.modBank_homes ..)
  · exact State.wakeBank_homes ..

theorem State.flushPage_homes (s : State) (page : Nat) : HomesOnly s (s.flushPage page) := .foldl (fun _ _ => State.dropLines_homes ..) _ _

theorem State.freeEntries_homes (s : State) (page : Nat) : HomesOnly s (s.freeEntries page) := ⟨_, _, _, _, _, _, rfl⟩

theorem State.modDir_homes (s : State) (line : Nat) (f : DirEntry → DirEntry) : HomesOnly s (s.modDir line f) := by
  unfold State.modDir
  split
  · exact State.modHome_homes ..
  · exact .refl s

/-- Giving up an entry leaves invalidations to come. -/
theorem State.dirLeave_homes (s : State) (h k : Nat) (e : DirEntry) : HomesOnly s (s.dirLeave h k e) := by
  unfold State.dirLeave
  dsimp only
  repeat' split
  all_goals first
    | exact State.modHome_homes ..
    | exact (State.modHome_homes ..).trans ((State.modHome_homes ..).trans (.foldl (fun _ _ => State.later_homes ..) _ _))

theorem State.dirRoom_homes (s : State) (h line fuel : Nat) : HomesOnly s (s.dirRoom h line fuel) := by
  induction fuel generalizing s with
  | zero => exact .refl s
  | succ n ih =>
    unfold State.dirRoom
    split
    · exact .refl s
    · split
      · exact .refl s
      · exact (State.dirLeave_homes ..).trans (ih _)

theorem State.dirEnsure_homes (s : State) (line : Nat) : HomesOnly s (s.dirEnsure line) := by
  unfold State.dirEnsure
  dsimp only
  split
  · exact .refl s
  · exact (State.modHome_homes ..).trans (State.dirRoom_homes ..)

theorem State.dirConflict_homes (s : State) (line : Nat) : HomesOnly s (s.dirConflict line) :=
  ((State.modHome_homes ..).trans (State.dirRoom_homes ..)).trans (State.modDir_homes ..)

/-- A write at the directory changes entries and leaves invalidations to come. -/
theorem State.dirWrite_homes (s : State) (line : Nat) (k : WriteKind) : HomesOnly s (s.dirWrite line k) := by
  unfold State.dirWrite
  split
  · exact .refl s
  · dsimp only
    split
    · exact State.dirEnsure_homes ..
    · have hc : ∀ (c : Bool) (t : State), HomesOnly t (if c then t else t.dirConflict line) := by
        intro c t
        split
        · exact .refl t
        · exact State.dirConflict_homes ..
      exact (State.dirEnsure_homes s line).trans ((hc _ _).trans ((State.modDir_homes ..).trans
        (.foldl (fun _ _ => State.later_homes ..) _ _)))

theorem State.agentWrote_homes (s : State) (pa n : Nat) : HomesOnly s (s.agentWrote pa n) := by
  unfold State.agentWrote
  split
  · exact .foldl (fun _ _ => State.dirWrite_homes ..) _ _
  · exact .refl s

theorem State.makeShared_homes (s : State) (page : Nat) (line : List Accessor) : HomesOnly s (s.makeShared page line) := by
  have h : HomesOnly s ((s.flushPage page).freeEntries page) := (State.flushPage_homes ..).trans (State.freeEntries_homes ..)
  unfold State.makeShared
  dsimp only
  generalize (s.flushPage page).freeEntries page = u at h ⊢
  refine h.trans (HomesOnly.trans (t := { u with
      classes := u.classes.put page { cls := .shared, stamp := u.tick, line := line, turn := u.cycles } })
    ⟨_, _, _, _, _, _, rfl⟩ (.foldl (fun _ _ => (State.modHome_homes ..).trans (State.dirRoom_homes ..)) _ _))

/-! ### Home classes -/

theorem State.killReuse_homes (s : State) (q : Nat) (p : ReuseEntry → Bool) : HomesOnly s (s.killReuse q p) := by
  unfold State.killReuse; split <;> exact ⟨_, _, _, _, _, _, rfl⟩

theorem State.killPageEverywhere_homes (s : State) (page : Nat) : HomesOnly s (s.killPageEverywhere page) :=
  .foldl (fun _ _ => State.killReuse_homes ..) _ _

theorem State.snoop_homes (s : State) (line : Nat) : HomesOnly s (s.snoop line) := by
  unfold State.snoop; split <;> exact ⟨_, _, _, _, _, _, rfl⟩

theorem State.classTouch_homes (s : State) (who : Accessor) (page : Nat) (write : Bool) : HomesOnly s (s.classTouch who page write) := by
  unfold State.classTouch
  split
  · exact ⟨_, _, _, _, _, _, rfl⟩
  · split
    · exact ⟨_, _, _, _, _, _, rfl⟩
    · split
      · split
        · exact ⟨_, _, _, _, _, _, rfl⟩
        · split
          · exact ⟨_, _, _, _, _, _, rfl⟩
          · exact .refl s
      · exact HomesOnly.trans ⟨_, _, _, _, _, _, rfl⟩ (State.killPageEverywhere_homes ..)

theorem State.classServe_homes (s : State) (who : Accessor) (page : Nat) (write : Bool) : HomesOnly s (s.classServe who page write) := by
  unfold State.classServe
  split
  · exact ⟨_, _, _, _, _, _, rfl⟩
  · split
    · exact State.makeShared_homes ..
    · split
      · exact ⟨_, _, _, _, _, _, rfl⟩
      · exact (State.killPageEverywhere_homes ..).trans (State.makeShared_homes ..)

/-- Touching a home changes classes, snoops and reuse tables, and nothing else. -/
theorem State.homeTouch_homes (s : State) (who : Accessor) (pa : Nat) (write : Bool) : HomesOnly s (s.homeTouch who pa write) := by
  unfold State.homeTouch
  split
  · refine HomesOnly.trans ?_ (State.classTouch_homes ..)
    split
    · exact State.snoop_homes ..
    · exact .refl _
  · exact .refl _

/-- An access of the part itself changes what belongs to the homes, and nothing else. -/
theorem State.homeServe_homes (s : State) (who : Accessor) (pa : Nat) (write : Bool) : HomesOnly s (s.homeServe who pa write) := by
  unfold State.homeServe
  split
  · refine HomesOnly.trans ?_ (State.classServe_homes ..)
    split
    · exact State.snoop_homes ..
    · exact .refl _
  · exact .refl _

theorem State.homesTouch_homes (s : State) (who : Accessor) (write : Bool) (pas : List Nat) : HomesOnly s (s.homesTouch who write pas) :=
  .foldl (fun _ _ => State.homeTouch_homes ..) _ _

theorem State.walkTouch_homes (s : State) (asid v : Nat) : HomesOnly s (s.walkTouch asid v) := by
  unfold State.walkTouch
  split
  · exact .foldl (fun _ _ => State.homeServe_homes ..) _ _
  · exact .refl _

theorem State.walkIf_homes (s : State) (asid v size align : Nat) : HomesOnly s (s.walkIf asid v size align) := by
  unfold State.walkIf
  split
  · exact State.walkTouch_homes ..
  · exact .refl _

/-- Only memory with its poison, reports, pub regions, queues' watches, messages sent and what belongs to the homes may differ. -/
def WriteOnly (s t : State) : Prop :=
  ∃ m x r p w z c n q h b a, t = { s with
    mem := m, memPoison := x, reports := r, pubs := p, queues := w, sent := z, classes := c, snoops := n, quads := q, homes := h, banks := b
    agenda := a }

theorem WriteOnly.refl (s : State) : WriteOnly s s := ⟨_, _, _, _, _, _, _, _, _, _, _, _, rfl⟩

theorem WriteOnly.trans {s t u : State} (h : WriteOnly s t) (h' : WriteOnly t u) : WriteOnly s u := by
  obtain ⟨m, x, r, p, w, z, c, n, q, y, b, a, rfl⟩ := h
  obtain ⟨m', x', r', p', w', z', c', n', q', y', b', a', rfl⟩ := h'
  exact ⟨m', x', r', p', w', z', c', n', q', y', b', a', rfl⟩

theorem WriteOnly.foldl {α : Type} {f : State → α → State} (h : ∀ s a, WriteOnly s (f s a)) (s : State) (l : List α) :
    WriteOnly s (l.foldl f s) := by
  induction l generalizing s with
  | nil => exact .refl s
  | cons a l ih => exact (h s a).trans (ih _)

theorem HomesOnly.writeOnly {s t : State} (h : HomesOnly s t) : WriteOnly s t := by
  obtain ⟨c, n, q, x, b, a, rfl⟩ := h
  exact ⟨_, _, _, _, _, _, c, n, q, x, b, a, rfl⟩

theorem State.physWrite_writeOnly (s : State) (a : Nat) (bs : List Byte) : WriteOnly s (s.physWrite a bs) :=
  ⟨_, _, _, _, _, _, _, _, _, _, _, _, (State.physWrite_spec s a bs).2⟩

theorem State.homeWrite_writeOnly (s : State) (pa : Nat) (bs : List Byte) : WriteOnly s (s.homeWrite pa bs) :=
  (State.agentWrote_homes ..).writeOnly.trans (State.physWrite_writeOnly ..)

theorem State.peerWrite_writeOnly (s : State) (d pa : Nat) (bs : List Byte) (bad : Bool) : WriteOnly s (s.peerWrite d pa bs bad) :=
  ⟨_, _, _, _, _, _, _, _, _, _, _, _, rfl⟩

theorem State.physPoison_writeOnly (s : State) (a n : Nat) : WriteOnly s (s.physPoison a n) := ⟨_, _, _, _, _, _, _, _, _, _, _, _, rfl⟩

theorem State.lineStore_writeOnly (s : State) (who : Accessor) (pa : Nat) (bs : List Byte) (bad : Bool) :
    WriteOnly s (s.lineStore who pa bs bad) := by
  unfold State.lineStore
  split
  · exact State.peerWrite_writeOnly ..
  · split
    · exact .refl s
    · dsimp only
      split
      · exact ((State.homeServe_homes ..).writeOnly.trans (State.homeWrite_writeOnly ..)).trans (State.physPoison_writeOnly ..)
      · exact (State.homeServe_homes ..).writeOnly.trans (State.homeWrite_writeOnly ..)

/-- What a write of the part itself can change. -/
theorem State.agentStore_writeOnly (s : State) (who : Accessor) (pa : Nat) (bs : List Byte) (bad : Bool) :
    WriteOnly s (s.agentStore who pa bs bad) := .foldl (fun _ _ => State.lineStore_writeOnly ..) _ _

/-- The runs of a range lie in it. -/
theorem lineRuns_mem {pa n : Nat} {r : Nat × Nat} (h : r ∈ lineRuns pa n) : pa ≤ r.1 ∧ r.1 + r.2 ≤ pa + n := by
  unfold lineRuns at h
  obtain ⟨k, hk, rfl⟩ := List.mem_map.1 h
  have hk := List.mem_range.1 hk
  dsimp only
  split
  · subst_vars; omega
  · omega

/-- The runs of a range cover it. -/
theorem lineRuns_cover {pa n k : Nat} (h : k < n) : ∃ r ∈ lineRuns pa n, r.1 ≤ pa + k ∧ pa + k < r.1 + r.2 := by
  refine ⟨_, List.mem_map.2 ⟨(pa + k) / 128 - pa / 128, List.mem_range.2 (by omega), rfl⟩, ?_⟩
  dsimp only
  split
  · omega
  · omega

/-- A write within one line by the part itself keeps memory's canonical form, changes no byte outside it, and, where it is performed, its
bytes read back. -/
theorem State.lineStore_bytes {s : State} (h : Memory.wf s.mem = true) (who : Accessor) (pa : Nat) {bs : List Byte} (bad : Bool) :
    Memory.wf (s.lineStore who pa bs bad).mem = true
      ∧ (∀ b, (∀ k < bs.length, s.redirect b ≠ s.redirect (pa + k)) → (s.lineStore who pa bs bad).physByte b = s.physByte b)
      ∧ ((∀ d, s.paKind pa ≠ .peer d) → (s.paKind pa = .device → s.reachable who pa = true) → bs.length ≤ 65536 →
          (s.lineStore who pa bs bad).physBytes pa bs.length = bs) := by
  have hw : ∀ t : State, t.mem = (State.homeWrite (s.homeServe who pa true) pa bs).mem → t.migrations = s.migrations →
      Memory.wf t.mem = true ∧ (∀ b, (∀ k < bs.length, s.redirect b ≠ s.redirect (pa + k)) → t.physByte b = s.physByte b)
        ∧ (bs.length ≤ 65536 → t.physBytes pa bs.length = bs) := by
    intro t ht hg
    unfold State.homeWrite at ht
    obtain ⟨c, n, q, x, b, a, hx⟩ := (State.homeServe_homes s who pa true).trans (State.agentWrote_homes _ pa bs.length)
    rw [hx] at ht
    generalize hu : ({ s with classes := c, snoops := n, quads := q, homes := x, banks := b, agenda := a } : State) = u at ht
    have hm : u.mem = s.mem := by rw [← hu]
    have hmg : u.migrations = s.migrations := by rw [← hu]
    have hwf : Memory.wf u.mem = true := by rw [hm]; exact h
    have hr := State.redirect_congr hmg
    have hp := State.physWrite_migrations u pa bs
    refine ⟨by rw [ht]; exact State.wf_physWrite hwf .., fun b hb => ?_, fun hl => ?_⟩
    · rw [State.physByte_congr ht (hg.trans (hmg.symm.trans hp.symm)),
        State.physByte_physWrite_ne hwf (fun k hk => by rw [hr, hr]; exact hb k hk), State.physByte_congr hm hmg]
    · rw [State.physBytes_congr ht (hg.trans (hmg.symm.trans hp.symm))]
      exact State.physBytes_physWrite hwf pa hl
  have hmig : (s.lineStore who pa bs bad).migrations = s.migrations := by
    obtain ⟨_, _, _, _, _, _, _, _, _, _, _, _, e⟩ := State.lineStore_writeOnly s who pa bs bad; rw [e]
  unfold State.lineStore at hmig ⊢
  split
  · next d hd => exact ⟨h, fun _ _ => rfl, fun hn => absurd hd (hn d)⟩
  · split
    · next hk =>
      simp only [Bool.and_eq_true, beq_iff_eq, Bool.not_eq_true'] at hk
      exact ⟨h, fun _ _ => rfl, fun _ hr => by rw [hr hk.1] at hk; exact absurd hk.2 (by simp)⟩
    · next hk =>
      rw [if_neg hk] at hmig
      dsimp only at hmig ⊢
      have hfin : ∀ t : State, t.mem = (State.homeWrite (s.homeServe who pa true) pa bs).mem → t.migrations = s.migrations → _ := hw
      split
      · next hb =>
        rw [if_pos hb] at hmig
        obtain ⟨a, b, c⟩ := hfin (State.physPoison (State.homeWrite (s.homeServe who pa true) pa bs) pa bs.length) rfl (by simpa using hmig)
        exact ⟨a, b, fun _ _ => c⟩
      · next hb =>
        rw [if_neg hb] at hmig
        obtain ⟨a, b, c⟩ := hfin (State.homeWrite (s.homeServe who pa true) pa bs) rfl (by simpa using hmig)
        exact ⟨a, b, fun _ _ => c⟩

/-- A write by the part itself changes no byte outside it, and, where it reaches every line, its bytes read back. -/
theorem State.agentStore_bytes {s : State} (h : Memory.wf s.mem = true) (who : Accessor) (pa : Nat) {bs : List Byte} (bad : Bool) :
    Memory.wf (s.agentStore who pa bs bad).mem = true
      ∧ (∀ b, (∀ k < bs.length, s.redirect b ≠ s.redirect (pa + k)) → (s.agentStore who pa bs bad).physByte b = s.physByte b)
      ∧ ((∀ k < bs.length, (∀ d, s.paKind (pa + k) ≠ .peer d) ∧ (s.paKind (pa + k) = .device → s.reachable who (pa + k) = true)) →
          bs.length ≤ 65536 → (s.agentStore who pa bs bad).physBytes pa bs.length = bs) := by
  have key : ∀ (rs : List (Nat × Nat)) (t : State), WriteOnly s t → Memory.wf t.mem = true →
      (∀ r ∈ rs, pa ≤ r.1 ∧ r.1 + r.2 ≤ pa + bs.length) →
      Memory.wf (rs.foldl (fun s r => s.lineStore who r.1 ((bs.drop (r.1 - pa)).take r.2) bad) t).mem = true
      ∧ (∀ b, (∀ k < bs.length, s.redirect b ≠ s.redirect (pa + k)) →
          (rs.foldl (fun s r => s.lineStore who r.1 ((bs.drop (r.1 - pa)).take r.2) bad) t).physByte b = t.physByte b)
      ∧ ((∀ k < bs.length, (∀ d, s.paKind (pa + k) ≠ .peer d) ∧ (s.paKind (pa + k) = .device → s.reachable who (pa + k) = true)) →
          bs.length ≤ 65536 → ∀ k < bs.length,
          ((∃ r ∈ rs, r.1 ≤ pa + k ∧ pa + k < r.1 + r.2) ∨ t.physByte (pa + k) = bs.getD k 0) →
          (rs.foldl (fun s r => s.lineStore who r.1 ((bs.drop (r.1 - pa)).take r.2) bad) t).physByte (pa + k) = bs.getD k 0) := by
    intro rs
    induction rs with
    | nil =>
      intro t _ hwf _
      refine ⟨hwf, fun _ _ => rfl, fun _ _ k _ hk => ?_⟩
      rcases hk with ⟨r, hr, _⟩ | hk
      · cases hr
      · exact hk
    | cons r rs ih =>
      intro t hto hwf hin
      obtain ⟨hlo, hhi⟩ := hin r (List.mem_cons_self ..)
      have hred : ∀ a, t.redirect a = s.redirect a := fun a => State.redirect_congr
        (by obtain ⟨_, _, _, _, _, _, _, _, _, _, _, _, e⟩ := hto; rw [e]) a
      have hkind : ∀ a, t.paKind a = s.paKind a := fun a => by
        obtain ⟨_, _, _, _, _, _, _, _, _, _, _, _, e⟩ := hto; rw [e]; rfl
      have hreach : ∀ a, t.reachable who a = s.reachable who a := fun a => by
        obtain ⟨_, _, _, _, _, _, _, _, _, _, _, _, e⟩ := hto; rw [e]; rfl
      have hlen : ((bs.drop (r.1 - pa)).take r.2).length = r.2 := by simp; omega
      obtain ⟨w1, w2, w3⟩ := State.lineStore_bytes hwf who r.1 (bs := (bs.drop (r.1 - pa)).take r.2) bad
      obtain ⟨i1, i2, i3⟩ := ih (t.lineStore who r.1 ((bs.drop (r.1 - pa)).take r.2) bad)
        (hto.trans (State.lineStore_writeOnly ..)) w1 (fun x hx => hin x (List.mem_cons_of_mem _ hx))
      refine ⟨i1, fun b hb => ?_, fun hr hl k hk hor => ?_⟩
      · refine (i2 b hb).trans (w2 b fun j hj => ?_)
        rw [hlen] at hj
        have := hb (r.1 - pa + j) (by omega)
        rw [hred, hred, show r.1 + j = pa + (r.1 - pa + j) by omega]; exact this
      · refine i3 hr hl k hk ?_
        by_cases hin' : r.1 ≤ pa + k ∧ pa + k < r.1 + r.2
        · right
          have hread := w3 (fun d => by rw [hkind]; have := (hr (r.1 - pa) (by omega)).1 d; rwa [show pa + (r.1 - pa) = r.1 by omega] at this)
            (fun hd => by
              rw [hkind] at hd; rw [hreach]
              have := (hr (r.1 - pa) (by omega)).2
              rw [show pa + (r.1 - pa) = r.1 by omega] at this
              exact this hd) (by rw [hlen]; omega)
          have hj := congrArg (fun l => l.getD (pa + k - r.1) 0) hread
          rw [hlen] at hj
          simp only [State.physBytes, List.getD_eq_getElem?_getD, List.getElem?_map, List.getElem?_take, List.getElem?_drop] at hj
          rw [List.getElem?_range (by omega), if_pos (by omega)] at hj
          simp only [Option.map_some, Option.getD_some] at hj
          rw [show r.1 + (pa + k - r.1) = pa + k by omega, show r.1 - pa + (pa + k - r.1) = k by omega] at hj
          rw [hj, List.getD_eq_getElem?_getD]
        · rcases hor with ⟨x, hx, hxk⟩ | hor
          · rcases List.mem_cons.1 hx with rfl | hx
            · exact absurd hxk hin'
            · exact .inl ⟨x, hx, hxk⟩
          · right
            rw [w2 (pa + k) fun j hj e => ?_, hor]
            rw [hlen] at hj
            have e := congrArg (· % 65536) e
            simp only [State.redirect_mod] at e
            omega
  obtain ⟨a, b, c⟩ := key (lineRuns pa bs.length) s (.refl s) h (fun r hr => lineRuns_mem hr)
  refine ⟨a, b, fun hr hl => ?_⟩
  apply List.ext_getElem
  · simp [State.physBytes]
  · intro k hk hk'
    simp only [State.physBytes, List.getElem_map, List.getElem_range]
    have := c hr hl k hk' (.inl (lineRuns_cover hk'))
    simpa [State.agentStore, hk'] using this

/-- What a checked write of the part itself can change, and its answer. -/
theorem State.writeAs_writeOnly (s : State) (who : Accessor) (asid va align : Nat) (bs : List Byte) :
    WriteOnly s (s.writeAs who asid va align bs).1 := by
  unfold State.writeAs
  dsimp only
  split
  · exact (State.walkIf_homes ..).writeOnly.trans (State.agentStore_writeOnly ..)
  · exact (State.walkIf_homes ..).writeOnly

theorem State.writeAs_cause {s : State} {asid va align : Nat} {bs : List Byte} {x : Cause}
    (h : s.checkSystem asid va bs.length align .write = .cause x) (who : Accessor) :
    s.writeAs who asid va align bs = (s.walkIf asid va bs.length align, some x) := by
  unfold State.writeAs; rw [h]

theorem State.writeAs_ok {s : State} {asid va align pa : Nat} {bs : List Byte} {pte : DWord} {bits : Nat}
    (h : s.checkSystem asid va bs.length align .write = .ok pa pte bits) (who : Accessor) :
    s.writeAs who asid va align bs = ((s.walkIf asid va bs.length align).agentStore who pa bs, none) := by
  unfold State.writeAs; rw [h]

end Sys2Proof.Machine
end

