-- ==== Sys2Proof/Laws/State.lean ====
section
/-! SUPPORT. What each update of State leaves in each field, so that no proof unfolds a record update. -/

namespace Sys2Proof.Machine

/-! ### modGroup -/

theorem State.modGroup_groups (s : State) (k : Nat) (f : Group → Group) : (s.modGroup k f).groups = s.groups.upd k f := rfl

@[simp] theorem State.modGroup_time (s : State) (k : Nat) (f : Group → Group) : (s.modGroup k f).time = s.time := rfl
@[simp] theorem State.modGroup_cycles (s : State) (k : Nat) (f : Group → Group) : (s.modGroup k f).cycles = s.cycles := rfl
@[simp] theorem State.modGroup_agenda (s : State) (k : Nat) (f : Group → Group) : (s.modGroup k f).agenda = s.agenda := rfl
@[simp] theorem State.modGroup_probeQ (s : State) (k : Nat) (f : Group → Group) : (s.modGroup k f).probeQ = s.probeQ := rfl
@[simp] theorem State.modGroup_picking (s : State) (k : Nat) (f : Group → Group) : (s.modGroup k f).picking = s.picking := rfl
@[simp] theorem State.modGroup_probed (s : State) (k : Nat) (f : Group → Group) : (s.modGroup k f).probed = s.probed := rfl
@[simp] theorem State.modGroup_probing (s : State) (k : Nat) (f : Group → Group) : (s.modGroup k f).probing = s.probing := rfl
@[simp] theorem State.modGroup_issueQ (s : State) (k : Nat) (f : Group → Group) : (s.modGroup k f).issueQ = s.issueQ := rfl
@[simp] theorem State.modGroup_cur (s : State) (k : Nat) (f : Group → Group) : (s.modGroup k f).cur = s.cur := rfl
@[simp] theorem State.modGroup_again (s : State) (k : Nat) (f : Group → Group) : (s.modGroup k f).again = s.again := rfl
@[simp] theorem State.modGroup_fresh (s : State) (k : Nat) (f : Group → Group) : (s.modGroup k f).fresh = s.fresh := rfl
@[simp] theorem State.modGroup_uid (s : State) (k : Nat) (f : Group → Group) : (s.modGroup k f).uid = s.uid := rfl
@[simp] theorem State.modGroup_mem (s : State) (k : Nat) (f : Group → Group) : (s.modGroup k f).mem = s.mem := rfl
@[simp] theorem State.modGroup_memPoison (s : State) (k : Nat) (f : Group → Group) : (s.modGroup k f).memPoison = s.memPoison := rfl
@[simp] theorem State.modGroup_ctxs (s : State) (k : Nat) (f : Group → Group) : (s.modGroup k f).ctxs = s.ctxs := rfl
@[simp] theorem State.modGroup_queues (s : State) (k : Nat) (f : Group → Group) : (s.modGroup k f).queues = s.queues := rfl
@[simp] theorem State.modGroup_kernels (s : State) (k : Nat) (f : Group → Group) : (s.modGroup k f).kernels = s.kernels := rfl
@[simp] theorem State.modGroup_teams (s : State) (k : Nat) (f : Group → Group) : (s.modGroup k f).teams = s.teams := rfl
@[simp] theorem State.modGroup_nextSeq (s : State) (k : Nat) (f : Group → Group) : (s.modGroup k f).nextSeq = s.nextSeq := rfl
@[simp] theorem State.modGroup_lastServed (s : State) (k : Nat) (f : Group → Group) : (s.modGroup k f).lastServed = s.lastServed := rfl
@[simp] theorem State.modGroup_lastTake (s : State) (k : Nat) (f : Group → Group) : (s.modGroup k f).lastTake = s.lastTake := rfl
@[simp] theorem State.modGroup_cursor (s : State) (k : Nat) (f : Group → Group) : (s.modGroup k f).cursor = s.cursor := rfl
@[simp] theorem State.modGroup_cores (s : State) (k : Nat) (f : Group → Group) : (s.modGroup k f).cores = s.cores := rfl
@[simp] theorem State.modGroup_quads (s : State) (k : Nat) (f : Group → Group) : (s.modGroup k f).quads = s.quads := rfl
@[simp] theorem State.modGroup_chips (s : State) (k : Nat) (f : Group → Group) : (s.modGroup k f).chips = s.chips := rfl
@[simp] theorem State.modGroup_wtabs (s : State) (k : Nat) (f : Group → Group) : (s.modGroup k f).wtabs = s.wtabs := rfl
@[simp] theorem State.modGroup_curWrites (s : State) (k : Nat) (f : Group → Group) : (s.modGroup k f).curWrites = s.curWrites := rfl
@[simp] theorem State.modGroup_pageReqs (s : State) (k : Nat) (f : Group → Group) : (s.modGroup k f).pageReqs = s.pageReqs := rfl
@[simp] theorem State.modGroup_pmigs (s : State) (k : Nat) (f : Group → Group) : (s.modGroup k f).pmigs = s.pmigs := rfl
@[simp] theorem State.modGroup_migrations (s : State) (k : Nat) (f : Group → Group) : (s.modGroup k f).migrations = s.migrations := rfl
@[simp] theorem State.modGroup_publs (s : State) (k : Nat) (f : Group → Group) : (s.modGroup k f).publs = s.publs := rfl
@[simp] theorem State.modGroup_polders (s : State) (k : Nat) (f : Group → Group) : (s.modGroup k f).polders = s.polders := rfl
@[simp] theorem State.modGroup_resizeWrites (s : State) (k : Nat) (f : Group → Group) : (s.modGroup k f).resizeWrites = s.resizeWrites := rfl
@[simp] theorem State.modGroup_classes (s : State) (k : Nat) (f : Group → Group) : (s.modGroup k f).classes = s.classes := rfl
@[simp] theorem State.modGroup_homes (s : State) (k : Nat) (f : Group → Group) : (s.modGroup k f).homes = s.homes := rfl
@[simp] theorem State.modGroup_banks (s : State) (k : Nat) (f : Group → Group) : (s.modGroup k f).banks = s.banks := rfl
@[simp] theorem State.modGroup_shareFault (s : State) (k : Nat) (f : Group → Group) : (s.modGroup k f).shareFault = s.shareFault := rfl
@[simp] theorem State.modGroup_tide (s : State) (k : Nat) (f : Group → Group) : (s.modGroup k f).tide = s.tide := rfl
@[simp] theorem State.modGroup_grace (s : State) (k : Nat) (f : Group → Group) : (s.modGroup k f).grace = s.grace := rfl
@[simp] theorem State.modGroup_graceQueued (s : State) (k : Nat) (f : Group → Group) : (s.modGroup k f).graceQueued = s.graceQueued := rfl
@[simp] theorem State.modGroup_graceStarts (s : State) (k : Nat) (f : Group → Group) : (s.modGroup k f).graceStarts = s.graceStarts := rfl
@[simp] theorem State.modGroup_quiescent (s : State) (k : Nat) (f : Group → Group) : (s.modGroup k f).quiescent = s.quiescent := rfl
@[simp] theorem State.modGroup_spillways (s : State) (k : Nat) (f : Group → Group) : (s.modGroup k f).spillways = s.spillways := rfl
@[simp] theorem State.modGroup_links (s : State) (k : Nat) (f : Group → Group) : (s.modGroup k f).links = s.links := rfl
@[simp] theorem State.modGroup_pairs (s : State) (k : Nat) (f : Group → Group) : (s.modGroup k f).pairs = s.pairs := rfl
@[simp] theorem State.modGroup_laneMaps (s : State) (k : Nat) (f : Group → Group) : (s.modGroup k f).laneMaps = s.laneMaps := rfl
@[simp] theorem State.modGroup_failedSources (s : State) (k : Nat) (f : Group → Group) : (s.modGroup k f).failedSources = s.failedSources := rfl
@[simp] theorem State.modGroup_relocking (s : State) (k : Nat) (f : Group → Group) : (s.modGroup k f).relocking = s.relocking := rfl
@[simp] theorem State.modGroup_steered (s : State) (k : Nat) (f : Group → Group) : (s.modGroup k f).steered = s.steered := rfl
@[simp] theorem State.modGroup_relayed (s : State) (k : Nat) (f : Group → Group) : (s.modGroup k f).relayed = s.relayed := rfl
@[simp] theorem State.modGroup_ports (s : State) (k : Nat) (f : Group → Group) : (s.modGroup k f).ports = s.ports := rfl
@[simp] theorem State.modGroup_portReplays (s : State) (k : Nat) (f : Group → Group) : (s.modGroup k f).portReplays = s.portReplays := rfl
@[simp] theorem State.modGroup_portMasks (s : State) (k : Nat) (f : Group → Group) : (s.modGroup k f).portMasks = s.portMasks := rfl
@[simp] theorem State.modGroup_exports_ (s : State) (k : Nat) (f : Group → Group) : (s.modGroup k f).exports_ = s.exports_ := rfl
@[simp] theorem State.modGroup_peerReqs (s : State) (k : Nat) (f : Group → Group) : (s.modGroup k f).peerReqs = s.peerReqs := rfl
@[simp] theorem State.modGroup_inbound (s : State) (k : Nat) (f : Group → Group) : (s.modGroup k f).inbound = s.inbound := rfl
@[simp] theorem State.modGroup_sent (s : State) (k : Nat) (f : Group → Group) : (s.modGroup k f).sent = s.sent := rfl
@[simp] theorem State.modGroup_pubs (s : State) (k : Nat) (f : Group → Group) : (s.modGroup k f).pubs = s.pubs := rfl
@[simp] theorem State.modGroup_colls (s : State) (k : Nat) (f : Group → Group) : (s.modGroup k f).colls = s.colls := rfl
@[simp] theorem State.modGroup_fenceMap (s : State) (k : Nat) (f : Group → Group) : (s.modGroup k f).fenceMap = s.fenceMap := rfl
@[simp] theorem State.modGroup_absentChips (s : State) (k : Nat) (f : Group → Group) : (s.modGroup k f).absentChips = s.absentChips := rfl
@[simp] theorem State.modGroup_plim (s : State) (k : Nat) (f : Group → Group) : (s.modGroup k f).plim = s.plim := rfl
@[simp] theorem State.modGroup_ilim (s : State) (k : Nat) (f : Group → Group) : (s.modGroup k f).ilim = s.ilim := rfl
@[simp] theorem State.modGroup_wdlim (s : State) (k : Nat) (f : Group → Group) : (s.modGroup k f).wdlim = s.wdlim := rfl
@[simp] theorem State.modGroup_reports (s : State) (k : Nat) (f : Group → Group) : (s.modGroup k f).reports = s.reports := rfl
@[simp] theorem State.modGroup_mailbox (s : State) (k : Nat) (f : Group → Group) : (s.modGroup k f).mailbox = s.mailbox := rfl
@[simp] theorem State.modGroup_ideKeys (s : State) (k : Nat) (f : Group → Group) : (s.modGroup k f).ideKeys = s.ideKeys := rfl
@[simp] theorem State.modGroup_hostLines (s : State) (k : Nat) (f : Group → Group) : (s.modGroup k f).hostLines = s.hostLines := rfl
@[simp] theorem State.modGroup_snoops (s : State) (k : Nat) (f : Group → Group) : (s.modGroup k f).snoops = s.snoops := rfl
@[simp] theorem State.modGroup_images (s : State) (k : Nat) (f : Group → Group) : (s.modGroup k f).images = s.images := rfl
@[simp] theorem State.modGroup_flash (s : State) (k : Nat) (f : Group → Group) : (s.modGroup k f).flash = s.flash := rfl
@[simp] theorem State.modGroup_config (s : State) (k : Nat) (f : Group → Group) : (s.modGroup k f).config = s.config := rfl
@[simp] theorem State.modGroup_xmssNext (s : State) (k : Nat) (f : Group → Group) : (s.modGroup k f).xmssNext = s.xmssNext := rfl
@[simp] theorem State.modGroup_safeTier (s : State) (k : Nat) (f : Group → Group) : (s.modGroup k f).safeTier = s.safeTier := rfl
@[simp] theorem State.modGroup_inReset (s : State) (k : Nat) (f : Group → Group) : (s.modGroup k f).inReset = s.inReset := rfl

/-! ### modTag -/

theorem State.modTag_groups (s : State) (k tag : Nat) (f : Split → Split) : (s.modTag k tag f).groups = s.groups.upd k fun g => g.modTag tag f := rfl

@[simp] theorem State.modTag_time (s : State) (k tag : Nat) (f : Split → Split) : (s.modTag k tag f).time = s.time := rfl
@[simp] theorem State.modTag_cycles (s : State) (k tag : Nat) (f : Split → Split) : (s.modTag k tag f).cycles = s.cycles := rfl
@[simp] theorem State.modTag_agenda (s : State) (k tag : Nat) (f : Split → Split) : (s.modTag k tag f).agenda = s.agenda := rfl
@[simp] theorem State.modTag_probeQ (s : State) (k tag : Nat) (f : Split → Split) : (s.modTag k tag f).probeQ = s.probeQ := rfl
@[simp] theorem State.modTag_picking (s : State) (k tag : Nat) (f : Split → Split) : (s.modTag k tag f).picking = s.picking := rfl
@[simp] theorem State.modTag_probed (s : State) (k tag : Nat) (f : Split → Split) : (s.modTag k tag f).probed = s.probed := rfl
@[simp] theorem State.modTag_probing (s : State) (k tag : Nat) (f : Split → Split) : (s.modTag k tag f).probing = s.probing := rfl
@[simp] theorem State.modTag_issueQ (s : State) (k tag : Nat) (f : Split → Split) : (s.modTag k tag f).issueQ = s.issueQ := rfl
@[simp] theorem State.modTag_cur (s : State) (k tag : Nat) (f : Split → Split) : (s.modTag k tag f).cur = s.cur := rfl
@[simp] theorem State.modTag_again (s : State) (k tag : Nat) (f : Split → Split) : (s.modTag k tag f).again = s.again := rfl
@[simp] theorem State.modTag_fresh (s : State) (k tag : Nat) (f : Split → Split) : (s.modTag k tag f).fresh = s.fresh := rfl
@[simp] theorem State.modTag_uid (s : State) (k tag : Nat) (f : Split → Split) : (s.modTag k tag f).uid = s.uid := rfl
@[simp] theorem State.modTag_mem (s : State) (k tag : Nat) (f : Split → Split) : (s.modTag k tag f).mem = s.mem := rfl
@[simp] theorem State.modTag_memPoison (s : State) (k tag : Nat) (f : Split → Split) : (s.modTag k tag f).memPoison = s.memPoison := rfl
@[simp] theorem State.modTag_ctxs (s : State) (k tag : Nat) (f : Split → Split) : (s.modTag k tag f).ctxs = s.ctxs := rfl
@[simp] theorem State.modTag_queues (s : State) (k tag : Nat) (f : Split → Split) : (s.modTag k tag f).queues = s.queues := rfl
@[simp] theorem State.modTag_kernels (s : State) (k tag : Nat) (f : Split → Split) : (s.modTag k tag f).kernels = s.kernels := rfl
@[simp] theorem State.modTag_teams (s : State) (k tag : Nat) (f : Split → Split) : (s.modTag k tag f).teams = s.teams := rfl
@[simp] theorem State.modTag_nextSeq (s : State) (k tag : Nat) (f : Split → Split) : (s.modTag k tag f).nextSeq = s.nextSeq := rfl
@[simp] theorem State.modTag_lastServed (s : State) (k tag : Nat) (f : Split → Split) : (s.modTag k tag f).lastServed = s.lastServed := rfl
@[simp] theorem State.modTag_lastTake (s : State) (k tag : Nat) (f : Split → Split) : (s.modTag k tag f).lastTake = s.lastTake := rfl
@[simp] theorem State.modTag_cursor (s : State) (k tag : Nat) (f : Split → Split) : (s.modTag k tag f).cursor = s.cursor := rfl
@[simp] theorem State.modTag_cores (s : State) (k tag : Nat) (f : Split → Split) : (s.modTag k tag f).cores = s.cores := rfl
@[simp] theorem State.modTag_quads (s : State) (k tag : Nat) (f : Split → Split) : (s.modTag k tag f).quads = s.quads := rfl
@[simp] theorem State.modTag_chips (s : State) (k tag : Nat) (f : Split → Split) : (s.modTag k tag f).chips = s.chips := rfl
@[simp] theorem State.modTag_wtabs (s : State) (k tag : Nat) (f : Split → Split) : (s.modTag k tag f).wtabs = s.wtabs := rfl
@[simp] theorem State.modTag_curWrites (s : State) (k tag : Nat) (f : Split → Split) : (s.modTag k tag f).curWrites = s.curWrites := rfl
@[simp] theorem State.modTag_pageReqs (s : State) (k tag : Nat) (f : Split → Split) : (s.modTag k tag f).pageReqs = s.pageReqs := rfl
@[simp] theorem State.modTag_pmigs (s : State) (k tag : Nat) (f : Split → Split) : (s.modTag k tag f).pmigs = s.pmigs := rfl
@[simp] theorem State.modTag_migrations (s : State) (k tag : Nat) (f : Split → Split) : (s.modTag k tag f).migrations = s.migrations := rfl
@[simp] theorem State.modTag_publs (s : State) (k tag : Nat) (f : Split → Split) : (s.modTag k tag f).publs = s.publs := rfl
@[simp] theorem State.modTag_polders (s : State) (k tag : Nat) (f : Split → Split) : (s.modTag k tag f).polders = s.polders := rfl
@[simp] theorem State.modTag_resizeWrites (s : State) (k tag : Nat) (f : Split → Split) : (s.modTag k tag f).resizeWrites = s.resizeWrites := rfl
@[simp] theorem State.modTag_classes (s : State) (k tag : Nat) (f : Split → Split) : (s.modTag k tag f).classes = s.classes := rfl
@[simp] theorem State.modTag_homes (s : State) (k tag : Nat) (f : Split → Split) : (s.modTag k tag f).homes = s.homes := rfl
@[simp] theorem State.modTag_banks (s : State) (k tag : Nat) (f : Split → Split) : (s.modTag k tag f).banks = s.banks := rfl
@[simp] theorem State.modTag_shareFault (s : State) (k tag : Nat) (f : Split → Split) : (s.modTag k tag f).shareFault = s.shareFault := rfl
@[simp] theorem State.modTag_tide (s : State) (k tag : Nat) (f : Split → Split) : (s.modTag k tag f).tide = s.tide := rfl
@[simp] theorem State.modTag_grace (s : State) (k tag : Nat) (f : Split → Split) : (s.modTag k tag f).grace = s.grace := rfl
@[simp] theorem State.modTag_graceQueued (s : State) (k tag : Nat) (f : Split → Split) : (s.modTag k tag f).graceQueued = s.graceQueued := rfl
@[simp] theorem State.modTag_graceStarts (s : State) (k tag : Nat) (f : Split → Split) : (s.modTag k tag f).graceStarts = s.graceStarts := rfl
@[simp] theorem State.modTag_quiescent (s : State) (k tag : Nat) (f : Split → Split) : (s.modTag k tag f).quiescent = s.quiescent := rfl
@[simp] theorem State.modTag_spillways (s : State) (k tag : Nat) (f : Split → Split) : (s.modTag k tag f).spillways = s.spillways := rfl
@[simp] theorem State.modTag_links (s : State) (k tag : Nat) (f : Split → Split) : (s.modTag k tag f).links = s.links := rfl
@[simp] theorem State.modTag_pairs (s : State) (k tag : Nat) (f : Split → Split) : (s.modTag k tag f).pairs = s.pairs := rfl
@[simp] theorem State.modTag_laneMaps (s : State) (k tag : Nat) (f : Split → Split) : (s.modTag k tag f).laneMaps = s.laneMaps := rfl
@[simp] theorem State.modTag_failedSources (s : State) (k tag : Nat) (f : Split → Split) : (s.modTag k tag f).failedSources = s.failedSources := rfl
@[simp] theorem State.modTag_relocking (s : State) (k tag : Nat) (f : Split → Split) : (s.modTag k tag f).relocking = s.relocking := rfl
@[simp] theorem State.modTag_steered (s : State) (k tag : Nat) (f : Split → Split) : (s.modTag k tag f).steered = s.steered := rfl
@[simp] theorem State.modTag_relayed (s : State) (k tag : Nat) (f : Split → Split) : (s.modTag k tag f).relayed = s.relayed := rfl
@[simp] theorem State.modTag_ports (s : State) (k tag : Nat) (f : Split → Split) : (s.modTag k tag f).ports = s.ports := rfl
@[simp] theorem State.modTag_portReplays (s : State) (k tag : Nat) (f : Split → Split) : (s.modTag k tag f).portReplays = s.portReplays := rfl
@[simp] theorem State.modTag_portMasks (s : State) (k tag : Nat) (f : Split → Split) : (s.modTag k tag f).portMasks = s.portMasks := rfl
@[simp] theorem State.modTag_exports_ (s : State) (k tag : Nat) (f : Split → Split) : (s.modTag k tag f).exports_ = s.exports_ := rfl
@[simp] theorem State.modTag_peerReqs (s : State) (k tag : Nat) (f : Split → Split) : (s.modTag k tag f).peerReqs = s.peerReqs := rfl
@[simp] theorem State.modTag_inbound (s : State) (k tag : Nat) (f : Split → Split) : (s.modTag k tag f).inbound = s.inbound := rfl
@[simp] theorem State.modTag_sent (s : State) (k tag : Nat) (f : Split → Split) : (s.modTag k tag f).sent = s.sent := rfl
@[simp] theorem State.modTag_pubs (s : State) (k tag : Nat) (f : Split → Split) : (s.modTag k tag f).pubs = s.pubs := rfl
@[simp] theorem State.modTag_colls (s : State) (k tag : Nat) (f : Split → Split) : (s.modTag k tag f).colls = s.colls := rfl
@[simp] theorem State.modTag_fenceMap (s : State) (k tag : Nat) (f : Split → Split) : (s.modTag k tag f).fenceMap = s.fenceMap := rfl
@[simp] theorem State.modTag_absentChips (s : State) (k tag : Nat) (f : Split → Split) : (s.modTag k tag f).absentChips = s.absentChips := rfl
@[simp] theorem State.modTag_plim (s : State) (k tag : Nat) (f : Split → Split) : (s.modTag k tag f).plim = s.plim := rfl
@[simp] theorem State.modTag_ilim (s : State) (k tag : Nat) (f : Split → Split) : (s.modTag k tag f).ilim = s.ilim := rfl
@[simp] theorem State.modTag_wdlim (s : State) (k tag : Nat) (f : Split → Split) : (s.modTag k tag f).wdlim = s.wdlim := rfl
@[simp] theorem State.modTag_reports (s : State) (k tag : Nat) (f : Split → Split) : (s.modTag k tag f).reports = s.reports := rfl
@[simp] theorem State.modTag_mailbox (s : State) (k tag : Nat) (f : Split → Split) : (s.modTag k tag f).mailbox = s.mailbox := rfl
@[simp] theorem State.modTag_ideKeys (s : State) (k tag : Nat) (f : Split → Split) : (s.modTag k tag f).ideKeys = s.ideKeys := rfl
@[simp] theorem State.modTag_hostLines (s : State) (k tag : Nat) (f : Split → Split) : (s.modTag k tag f).hostLines = s.hostLines := rfl
@[simp] theorem State.modTag_snoops (s : State) (k tag : Nat) (f : Split → Split) : (s.modTag k tag f).snoops = s.snoops := rfl
@[simp] theorem State.modTag_images (s : State) (k tag : Nat) (f : Split → Split) : (s.modTag k tag f).images = s.images := rfl
@[simp] theorem State.modTag_flash (s : State) (k tag : Nat) (f : Split → Split) : (s.modTag k tag f).flash = s.flash := rfl
@[simp] theorem State.modTag_config (s : State) (k tag : Nat) (f : Split → Split) : (s.modTag k tag f).config = s.config := rfl
@[simp] theorem State.modTag_xmssNext (s : State) (k tag : Nat) (f : Split → Split) : (s.modTag k tag f).xmssNext = s.xmssNext := rfl
@[simp] theorem State.modTag_safeTier (s : State) (k tag : Nat) (f : Split → Split) : (s.modTag k tag f).safeTier = s.safeTier := rfl
@[simp] theorem State.modTag_inReset (s : State) (k tag : Nat) (f : Split → Split) : (s.modTag k tag f).inReset = s.inReset := rfl

/-! ### modTeam -/

theorem State.modTeam_teams (s : State) (k : Nat) (f : Team → Team) : (s.modTeam k f).teams = s.teams.upd k f := rfl

@[simp] theorem State.modTeam_time (s : State) (k : Nat) (f : Team → Team) : (s.modTeam k f).time = s.time := rfl
@[simp] theorem State.modTeam_cycles (s : State) (k : Nat) (f : Team → Team) : (s.modTeam k f).cycles = s.cycles := rfl
@[simp] theorem State.modTeam_agenda (s : State) (k : Nat) (f : Team → Team) : (s.modTeam k f).agenda = s.agenda := rfl
@[simp] theorem State.modTeam_probeQ (s : State) (k : Nat) (f : Team → Team) : (s.modTeam k f).probeQ = s.probeQ := rfl
@[simp] theorem State.modTeam_picking (s : State) (k : Nat) (f : Team → Team) : (s.modTeam k f).picking = s.picking := rfl
@[simp] theorem State.modTeam_probed (s : State) (k : Nat) (f : Team → Team) : (s.modTeam k f).probed = s.probed := rfl
@[simp] theorem State.modTeam_probing (s : State) (k : Nat) (f : Team → Team) : (s.modTeam k f).probing = s.probing := rfl
@[simp] theorem State.modTeam_issueQ (s : State) (k : Nat) (f : Team → Team) : (s.modTeam k f).issueQ = s.issueQ := rfl
@[simp] theorem State.modTeam_cur (s : State) (k : Nat) (f : Team → Team) : (s.modTeam k f).cur = s.cur := rfl
@[simp] theorem State.modTeam_again (s : State) (k : Nat) (f : Team → Team) : (s.modTeam k f).again = s.again := rfl
@[simp] theorem State.modTeam_fresh (s : State) (k : Nat) (f : Team → Team) : (s.modTeam k f).fresh = s.fresh := rfl
@[simp] theorem State.modTeam_uid (s : State) (k : Nat) (f : Team → Team) : (s.modTeam k f).uid = s.uid := rfl
@[simp] theorem State.modTeam_mem (s : State) (k : Nat) (f : Team → Team) : (s.modTeam k f).mem = s.mem := rfl
@[simp] theorem State.modTeam_memPoison (s : State) (k : Nat) (f : Team → Team) : (s.modTeam k f).memPoison = s.memPoison := rfl
@[simp] theorem State.modTeam_ctxs (s : State) (k : Nat) (f : Team → Team) : (s.modTeam k f).ctxs = s.ctxs := rfl
@[simp] theorem State.modTeam_queues (s : State) (k : Nat) (f : Team → Team) : (s.modTeam k f).queues = s.queues := rfl
@[simp] theorem State.modTeam_kernels (s : State) (k : Nat) (f : Team → Team) : (s.modTeam k f).kernels = s.kernels := rfl
@[simp] theorem State.modTeam_groups (s : State) (k : Nat) (f : Team → Team) : (s.modTeam k f).groups = s.groups := rfl
@[simp] theorem State.modTeam_nextSeq (s : State) (k : Nat) (f : Team → Team) : (s.modTeam k f).nextSeq = s.nextSeq := rfl
@[simp] theorem State.modTeam_lastServed (s : State) (k : Nat) (f : Team → Team) : (s.modTeam k f).lastServed = s.lastServed := rfl
@[simp] theorem State.modTeam_lastTake (s : State) (k : Nat) (f : Team → Team) : (s.modTeam k f).lastTake = s.lastTake := rfl
@[simp] theorem State.modTeam_cursor (s : State) (k : Nat) (f : Team → Team) : (s.modTeam k f).cursor = s.cursor := rfl
@[simp] theorem State.modTeam_cores (s : State) (k : Nat) (f : Team → Team) : (s.modTeam k f).cores = s.cores := rfl
@[simp] theorem State.modTeam_quads (s : State) (k : Nat) (f : Team → Team) : (s.modTeam k f).quads = s.quads := rfl
@[simp] theorem State.modTeam_chips (s : State) (k : Nat) (f : Team → Team) : (s.modTeam k f).chips = s.chips := rfl
@[simp] theorem State.modTeam_wtabs (s : State) (k : Nat) (f : Team → Team) : (s.modTeam k f).wtabs = s.wtabs := rfl
@[simp] theorem State.modTeam_curWrites (s : State) (k : Nat) (f : Team → Team) : (s.modTeam k f).curWrites = s.curWrites := rfl
@[simp] theorem State.modTeam_pageReqs (s : State) (k : Nat) (f : Team → Team) : (s.modTeam k f).pageReqs = s.pageReqs := rfl
@[simp] theorem State.modTeam_pmigs (s : State) (k : Nat) (f : Team → Team) : (s.modTeam k f).pmigs = s.pmigs := rfl
@[simp] theorem State.modTeam_migrations (s : State) (k : Nat) (f : Team → Team) : (s.modTeam k f).migrations = s.migrations := rfl
@[simp] theorem State.modTeam_publs (s : State) (k : Nat) (f : Team → Team) : (s.modTeam k f).publs = s.publs := rfl
@[simp] theorem State.modTeam_polders (s : State) (k : Nat) (f : Team → Team) : (s.modTeam k f).polders = s.polders := rfl
@[simp] theorem State.modTeam_resizeWrites (s : State) (k : Nat) (f : Team → Team) : (s.modTeam k f).resizeWrites = s.resizeWrites := rfl
@[simp] theorem State.modTeam_classes (s : State) (k : Nat) (f : Team → Team) : (s.modTeam k f).classes = s.classes := rfl
@[simp] theorem State.modTeam_homes (s : State) (k : Nat) (f : Team → Team) : (s.modTeam k f).homes = s.homes := rfl
@[simp] theorem State.modTeam_banks (s : State) (k : Nat) (f : Team → Team) : (s.modTeam k f).banks = s.banks := rfl
@[simp] theorem State.modTeam_shareFault (s : State) (k : Nat) (f : Team → Team) : (s.modTeam k f).shareFault = s.shareFault := rfl
@[simp] theorem State.modTeam_tide (s : State) (k : Nat) (f : Team → Team) : (s.modTeam k f).tide = s.tide := rfl
@[simp] theorem State.modTeam_grace (s : State) (k : Nat) (f : Team → Team) : (s.modTeam k f).grace = s.grace := rfl
@[simp] theorem State.modTeam_graceQueued (s : State) (k : Nat) (f : Team → Team) : (s.modTeam k f).graceQueued = s.graceQueued := rfl
@[simp] theorem State.modTeam_graceStarts (s : State) (k : Nat) (f : Team → Team) : (s.modTeam k f).graceStarts = s.graceStarts := rfl
@[simp] theorem State.modTeam_quiescent (s : State) (k : Nat) (f : Team → Team) : (s.modTeam k f).quiescent = s.quiescent := rfl
@[simp] theorem State.modTeam_spillways (s : State) (k : Nat) (f : Team → Team) : (s.modTeam k f).spillways = s.spillways := rfl
@[simp] theorem State.modTeam_links (s : State) (k : Nat) (f : Team → Team) : (s.modTeam k f).links = s.links := rfl
@[simp] theorem State.modTeam_pairs (s : State) (k : Nat) (f : Team → Team) : (s.modTeam k f).pairs = s.pairs := rfl
@[simp] theorem State.modTeam_laneMaps (s : State) (k : Nat) (f : Team → Team) : (s.modTeam k f).laneMaps = s.laneMaps := rfl
@[simp] theorem State.modTeam_failedSources (s : State) (k : Nat) (f : Team → Team) : (s.modTeam k f).failedSources = s.failedSources := rfl
@[simp] theorem State.modTeam_relocking (s : State) (k : Nat) (f : Team → Team) : (s.modTeam k f).relocking = s.relocking := rfl
@[simp] theorem State.modTeam_steered (s : State) (k : Nat) (f : Team → Team) : (s.modTeam k f).steered = s.steered := rfl
@[simp] theorem State.modTeam_relayed (s : State) (k : Nat) (f : Team → Team) : (s.modTeam k f).relayed = s.relayed := rfl
@[simp] theorem State.modTeam_ports (s : State) (k : Nat) (f : Team → Team) : (s.modTeam k f).ports = s.ports := rfl
@[simp] theorem State.modTeam_portReplays (s : State) (k : Nat) (f : Team → Team) : (s.modTeam k f).portReplays = s.portReplays := rfl
@[simp] theorem State.modTeam_portMasks (s : State) (k : Nat) (f : Team → Team) : (s.modTeam k f).portMasks = s.portMasks := rfl
@[simp] theorem State.modTeam_exports_ (s : State) (k : Nat) (f : Team → Team) : (s.modTeam k f).exports_ = s.exports_ := rfl
@[simp] theorem State.modTeam_peerReqs (s : State) (k : Nat) (f : Team → Team) : (s.modTeam k f).peerReqs = s.peerReqs := rfl
@[simp] theorem State.modTeam_inbound (s : State) (k : Nat) (f : Team → Team) : (s.modTeam k f).inbound = s.inbound := rfl
@[simp] theorem State.modTeam_sent (s : State) (k : Nat) (f : Team → Team) : (s.modTeam k f).sent = s.sent := rfl
@[simp] theorem State.modTeam_pubs (s : State) (k : Nat) (f : Team → Team) : (s.modTeam k f).pubs = s.pubs := rfl
@[simp] theorem State.modTeam_colls (s : State) (k : Nat) (f : Team → Team) : (s.modTeam k f).colls = s.colls := rfl
@[simp] theorem State.modTeam_fenceMap (s : State) (k : Nat) (f : Team → Team) : (s.modTeam k f).fenceMap = s.fenceMap := rfl
@[simp] theorem State.modTeam_absentChips (s : State) (k : Nat) (f : Team → Team) : (s.modTeam k f).absentChips = s.absentChips := rfl
@[simp] theorem State.modTeam_plim (s : State) (k : Nat) (f : Team → Team) : (s.modTeam k f).plim = s.plim := rfl
@[simp] theorem State.modTeam_ilim (s : State) (k : Nat) (f : Team → Team) : (s.modTeam k f).ilim = s.ilim := rfl
@[simp] theorem State.modTeam_wdlim (s : State) (k : Nat) (f : Team → Team) : (s.modTeam k f).wdlim = s.wdlim := rfl
@[simp] theorem State.modTeam_reports (s : State) (k : Nat) (f : Team → Team) : (s.modTeam k f).reports = s.reports := rfl
@[simp] theorem State.modTeam_mailbox (s : State) (k : Nat) (f : Team → Team) : (s.modTeam k f).mailbox = s.mailbox := rfl
@[simp] theorem State.modTeam_ideKeys (s : State) (k : Nat) (f : Team → Team) : (s.modTeam k f).ideKeys = s.ideKeys := rfl
@[simp] theorem State.modTeam_hostLines (s : State) (k : Nat) (f : Team → Team) : (s.modTeam k f).hostLines = s.hostLines := rfl
@[simp] theorem State.modTeam_snoops (s : State) (k : Nat) (f : Team → Team) : (s.modTeam k f).snoops = s.snoops := rfl
@[simp] theorem State.modTeam_images (s : State) (k : Nat) (f : Team → Team) : (s.modTeam k f).images = s.images := rfl
@[simp] theorem State.modTeam_flash (s : State) (k : Nat) (f : Team → Team) : (s.modTeam k f).flash = s.flash := rfl
@[simp] theorem State.modTeam_config (s : State) (k : Nat) (f : Team → Team) : (s.modTeam k f).config = s.config := rfl
@[simp] theorem State.modTeam_xmssNext (s : State) (k : Nat) (f : Team → Team) : (s.modTeam k f).xmssNext = s.xmssNext := rfl
@[simp] theorem State.modTeam_safeTier (s : State) (k : Nat) (f : Team → Team) : (s.modTeam k f).safeTier = s.safeTier := rfl
@[simp] theorem State.modTeam_inReset (s : State) (k : Nat) (f : Team → Team) : (s.modTeam k f).inReset = s.inReset := rfl

/-! ### modKernel -/

theorem State.modKernel_kernels (s : State) (k : Nat) (f : Kernel → Kernel) : (s.modKernel k f).kernels = s.kernels.upd k f := rfl

@[simp] theorem State.modKernel_time (s : State) (k : Nat) (f : Kernel → Kernel) : (s.modKernel k f).time = s.time := rfl
@[simp] theorem State.modKernel_cycles (s : State) (k : Nat) (f : Kernel → Kernel) : (s.modKernel k f).cycles = s.cycles := rfl
@[simp] theorem State.modKernel_agenda (s : State) (k : Nat) (f : Kernel → Kernel) : (s.modKernel k f).agenda = s.agenda := rfl
@[simp] theorem State.modKernel_probeQ (s : State) (k : Nat) (f : Kernel → Kernel) : (s.modKernel k f).probeQ = s.probeQ := rfl
@[simp] theorem State.modKernel_picking (s : State) (k : Nat) (f : Kernel → Kernel) : (s.modKernel k f).picking = s.picking := rfl
@[simp] theorem State.modKernel_probed (s : State) (k : Nat) (f : Kernel → Kernel) : (s.modKernel k f).probed = s.probed := rfl
@[simp] theorem State.modKernel_probing (s : State) (k : Nat) (f : Kernel → Kernel) : (s.modKernel k f).probing = s.probing := rfl
@[simp] theorem State.modKernel_issueQ (s : State) (k : Nat) (f : Kernel → Kernel) : (s.modKernel k f).issueQ = s.issueQ := rfl
@[simp] theorem State.modKernel_cur (s : State) (k : Nat) (f : Kernel → Kernel) : (s.modKernel k f).cur = s.cur := rfl
@[simp] theorem State.modKernel_again (s : State) (k : Nat) (f : Kernel → Kernel) : (s.modKernel k f).again = s.again := rfl
@[simp] theorem State.modKernel_fresh (s : State) (k : Nat) (f : Kernel → Kernel) : (s.modKernel k f).fresh = s.fresh := rfl
@[simp] theorem State.modKernel_uid (s : State) (k : Nat) (f : Kernel → Kernel) : (s.modKernel k f).uid = s.uid := rfl
@[simp] theorem State.modKernel_mem (s : State) (k : Nat) (f : Kernel → Kernel) : (s.modKernel k f).mem = s.mem := rfl
@[simp] theorem State.modKernel_memPoison (s : State) (k : Nat) (f : Kernel → Kernel) : (s.modKernel k f).memPoison = s.memPoison := rfl
@[simp] theorem State.modKernel_ctxs (s : State) (k : Nat) (f : Kernel → Kernel) : (s.modKernel k f).ctxs = s.ctxs := rfl
@[simp] theorem State.modKernel_queues (s : State) (k : Nat) (f : Kernel → Kernel) : (s.modKernel k f).queues = s.queues := rfl
@[simp] theorem State.modKernel_teams (s : State) (k : Nat) (f : Kernel → Kernel) : (s.modKernel k f).teams = s.teams := rfl
@[simp] theorem State.modKernel_groups (s : State) (k : Nat) (f : Kernel → Kernel) : (s.modKernel k f).groups = s.groups := rfl
@[simp] theorem State.modKernel_nextSeq (s : State) (k : Nat) (f : Kernel → Kernel) : (s.modKernel k f).nextSeq = s.nextSeq := rfl
@[simp] theorem State.modKernel_lastServed (s : State) (k : Nat) (f : Kernel → Kernel) : (s.modKernel k f).lastServed = s.lastServed := rfl
@[simp] theorem State.modKernel_lastTake (s : State) (k : Nat) (f : Kernel → Kernel) : (s.modKernel k f).lastTake = s.lastTake := rfl
@[simp] theorem State.modKernel_cursor (s : State) (k : Nat) (f : Kernel → Kernel) : (s.modKernel k f).cursor = s.cursor := rfl
@[simp] theorem State.modKernel_cores (s : State) (k : Nat) (f : Kernel → Kernel) : (s.modKernel k f).cores = s.cores := rfl
@[simp] theorem State.modKernel_quads (s : State) (k : Nat) (f : Kernel → Kernel) : (s.modKernel k f).quads = s.quads := rfl
@[simp] theorem State.modKernel_chips (s : State) (k : Nat) (f : Kernel → Kernel) : (s.modKernel k f).chips = s.chips := rfl
@[simp] theorem State.modKernel_wtabs (s : State) (k : Nat) (f : Kernel → Kernel) : (s.modKernel k f).wtabs = s.wtabs := rfl
@[simp] theorem State.modKernel_curWrites (s : State) (k : Nat) (f : Kernel → Kernel) : (s.modKernel k f).curWrites = s.curWrites := rfl
@[simp] theorem State.modKernel_pageReqs (s : State) (k : Nat) (f : Kernel → Kernel) : (s.modKernel k f).pageReqs = s.pageReqs := rfl
@[simp] theorem State.modKernel_pmigs (s : State) (k : Nat) (f : Kernel → Kernel) : (s.modKernel k f).pmigs = s.pmigs := rfl
@[simp] theorem State.modKernel_migrations (s : State) (k : Nat) (f : Kernel → Kernel) : (s.modKernel k f).migrations = s.migrations := rfl
@[simp] theorem State.modKernel_publs (s : State) (k : Nat) (f : Kernel → Kernel) : (s.modKernel k f).publs = s.publs := rfl
@[simp] theorem State.modKernel_polders (s : State) (k : Nat) (f : Kernel → Kernel) : (s.modKernel k f).polders = s.polders := rfl
@[simp] theorem State.modKernel_resizeWrites (s : State) (k : Nat) (f : Kernel → Kernel) : (s.modKernel k f).resizeWrites = s.resizeWrites := rfl
@[simp] theorem State.modKernel_classes (s : State) (k : Nat) (f : Kernel → Kernel) : (s.modKernel k f).classes = s.classes := rfl
@[simp] theorem State.modKernel_homes (s : State) (k : Nat) (f : Kernel → Kernel) : (s.modKernel k f).homes = s.homes := rfl
@[simp] theorem State.modKernel_banks (s : State) (k : Nat) (f : Kernel → Kernel) : (s.modKernel k f).banks = s.banks := rfl
@[simp] theorem State.modKernel_shareFault (s : State) (k : Nat) (f : Kernel → Kernel) : (s.modKernel k f).shareFault = s.shareFault := rfl
@[simp] theorem State.modKernel_tide (s : State) (k : Nat) (f : Kernel → Kernel) : (s.modKernel k f).tide = s.tide := rfl
@[simp] theorem State.modKernel_grace (s : State) (k : Nat) (f : Kernel → Kernel) : (s.modKernel k f).grace = s.grace := rfl
@[simp] theorem State.modKernel_graceQueued (s : State) (k : Nat) (f : Kernel → Kernel) : (s.modKernel k f).graceQueued = s.graceQueued := rfl
@[simp] theorem State.modKernel_graceStarts (s : State) (k : Nat) (f : Kernel → Kernel) : (s.modKernel k f).graceStarts = s.graceStarts := rfl
@[simp] theorem State.modKernel_quiescent (s : State) (k : Nat) (f : Kernel → Kernel) : (s.modKernel k f).quiescent = s.quiescent := rfl
@[simp] theorem State.modKernel_spillways (s : State) (k : Nat) (f : Kernel → Kernel) : (s.modKernel k f).spillways = s.spillways := rfl
@[simp] theorem State.modKernel_links (s : State) (k : Nat) (f : Kernel → Kernel) : (s.modKernel k f).links = s.links := rfl
@[simp] theorem State.modKernel_pairs (s : State) (k : Nat) (f : Kernel → Kernel) : (s.modKernel k f).pairs = s.pairs := rfl
@[simp] theorem State.modKernel_laneMaps (s : State) (k : Nat) (f : Kernel → Kernel) : (s.modKernel k f).laneMaps = s.laneMaps := rfl
@[simp] theorem State.modKernel_failedSources (s : State) (k : Nat) (f : Kernel → Kernel) : (s.modKernel k f).failedSources = s.failedSources := rfl
@[simp] theorem State.modKernel_relocking (s : State) (k : Nat) (f : Kernel → Kernel) : (s.modKernel k f).relocking = s.relocking := rfl
@[simp] theorem State.modKernel_steered (s : State) (k : Nat) (f : Kernel → Kernel) : (s.modKernel k f).steered = s.steered := rfl
@[simp] theorem State.modKernel_relayed (s : State) (k : Nat) (f : Kernel → Kernel) : (s.modKernel k f).relayed = s.relayed := rfl
@[simp] theorem State.modKernel_ports (s : State) (k : Nat) (f : Kernel → Kernel) : (s.modKernel k f).ports = s.ports := rfl
@[simp] theorem State.modKernel_portReplays (s : State) (k : Nat) (f : Kernel → Kernel) : (s.modKernel k f).portReplays = s.portReplays := rfl
@[simp] theorem State.modKernel_portMasks (s : State) (k : Nat) (f : Kernel → Kernel) : (s.modKernel k f).portMasks = s.portMasks := rfl
@[simp] theorem State.modKernel_exports_ (s : State) (k : Nat) (f : Kernel → Kernel) : (s.modKernel k f).exports_ = s.exports_ := rfl
@[simp] theorem State.modKernel_peerReqs (s : State) (k : Nat) (f : Kernel → Kernel) : (s.modKernel k f).peerReqs = s.peerReqs := rfl
@[simp] theorem State.modKernel_inbound (s : State) (k : Nat) (f : Kernel → Kernel) : (s.modKernel k f).inbound = s.inbound := rfl
@[simp] theorem State.modKernel_sent (s : State) (k : Nat) (f : Kernel → Kernel) : (s.modKernel k f).sent = s.sent := rfl
@[simp] theorem State.modKernel_pubs (s : State) (k : Nat) (f : Kernel → Kernel) : (s.modKernel k f).pubs = s.pubs := rfl
@[simp] theorem State.modKernel_colls (s : State) (k : Nat) (f : Kernel → Kernel) : (s.modKernel k f).colls = s.colls := rfl
@[simp] theorem State.modKernel_fenceMap (s : State) (k : Nat) (f : Kernel → Kernel) : (s.modKernel k f).fenceMap = s.fenceMap := rfl
@[simp] theorem State.modKernel_absentChips (s : State) (k : Nat) (f : Kernel → Kernel) : (s.modKernel k f).absentChips = s.absentChips := rfl
@[simp] theorem State.modKernel_plim (s : State) (k : Nat) (f : Kernel → Kernel) : (s.modKernel k f).plim = s.plim := rfl
@[simp] theorem State.modKernel_ilim (s : State) (k : Nat) (f : Kernel → Kernel) : (s.modKernel k f).ilim = s.ilim := rfl
@[simp] theorem State.modKernel_wdlim (s : State) (k : Nat) (f : Kernel → Kernel) : (s.modKernel k f).wdlim = s.wdlim := rfl
@[simp] theorem State.modKernel_reports (s : State) (k : Nat) (f : Kernel → Kernel) : (s.modKernel k f).reports = s.reports := rfl
@[simp] theorem State.modKernel_mailbox (s : State) (k : Nat) (f : Kernel → Kernel) : (s.modKernel k f).mailbox = s.mailbox := rfl
@[simp] theorem State.modKernel_ideKeys (s : State) (k : Nat) (f : Kernel → Kernel) : (s.modKernel k f).ideKeys = s.ideKeys := rfl
@[simp] theorem State.modKernel_hostLines (s : State) (k : Nat) (f : Kernel → Kernel) : (s.modKernel k f).hostLines = s.hostLines := rfl
@[simp] theorem State.modKernel_snoops (s : State) (k : Nat) (f : Kernel → Kernel) : (s.modKernel k f).snoops = s.snoops := rfl
@[simp] theorem State.modKernel_images (s : State) (k : Nat) (f : Kernel → Kernel) : (s.modKernel k f).images = s.images := rfl
@[simp] theorem State.modKernel_flash (s : State) (k : Nat) (f : Kernel → Kernel) : (s.modKernel k f).flash = s.flash := rfl
@[simp] theorem State.modKernel_config (s : State) (k : Nat) (f : Kernel → Kernel) : (s.modKernel k f).config = s.config := rfl
@[simp] theorem State.modKernel_xmssNext (s : State) (k : Nat) (f : Kernel → Kernel) : (s.modKernel k f).xmssNext = s.xmssNext := rfl
@[simp] theorem State.modKernel_safeTier (s : State) (k : Nat) (f : Kernel → Kernel) : (s.modKernel k f).safeTier = s.safeTier := rfl
@[simp] theorem State.modKernel_inReset (s : State) (k : Nat) (f : Kernel → Kernel) : (s.modKernel k f).inReset = s.inReset := rfl

/-! ### modCtx -/

theorem State.modCtx_ctxs (s : State) (k : Nat) (f : Ctx → Ctx) : (s.modCtx k f).ctxs = s.ctxs.upd k f := rfl

@[simp] theorem State.modCtx_time (s : State) (k : Nat) (f : Ctx → Ctx) : (s.modCtx k f).time = s.time := rfl
@[simp] theorem State.modCtx_cycles (s : State) (k : Nat) (f : Ctx → Ctx) : (s.modCtx k f).cycles = s.cycles := rfl
@[simp] theorem State.modCtx_agenda (s : State) (k : Nat) (f : Ctx → Ctx) : (s.modCtx k f).agenda = s.agenda := rfl
@[simp] theorem State.modCtx_probeQ (s : State) (k : Nat) (f : Ctx → Ctx) : (s.modCtx k f).probeQ = s.probeQ := rfl
@[simp] theorem State.modCtx_picking (s : State) (k : Nat) (f : Ctx → Ctx) : (s.modCtx k f).picking = s.picking := rfl
@[simp] theorem State.modCtx_probed (s : State) (k : Nat) (f : Ctx → Ctx) : (s.modCtx k f).probed = s.probed := rfl
@[simp] theorem State.modCtx_probing (s : State) (k : Nat) (f : Ctx → Ctx) : (s.modCtx k f).probing = s.probing := rfl
@[simp] theorem State.modCtx_issueQ (s : State) (k : Nat) (f : Ctx → Ctx) : (s.modCtx k f).issueQ = s.issueQ := rfl
@[simp] theorem State.modCtx_cur (s : State) (k : Nat) (f : Ctx → Ctx) : (s.modCtx k f).cur = s.cur := rfl
@[simp] theorem State.modCtx_again (s : State) (k : Nat) (f : Ctx → Ctx) : (s.modCtx k f).again = s.again := rfl
@[simp] theorem State.modCtx_fresh (s : State) (k : Nat) (f : Ctx → Ctx) : (s.modCtx k f).fresh = s.fresh := rfl
@[simp] theorem State.modCtx_uid (s : State) (k : Nat) (f : Ctx → Ctx) : (s.modCtx k f).uid = s.uid := rfl
@[simp] theorem State.modCtx_mem (s : State) (k : Nat) (f : Ctx → Ctx) : (s.modCtx k f).mem = s.mem := rfl
@[simp] theorem State.modCtx_memPoison (s : State) (k : Nat) (f : Ctx → Ctx) : (s.modCtx k f).memPoison = s.memPoison := rfl
@[simp] theorem State.modCtx_queues (s : State) (k : Nat) (f : Ctx → Ctx) : (s.modCtx k f).queues = s.queues := rfl
@[simp] theorem State.modCtx_kernels (s : State) (k : Nat) (f : Ctx → Ctx) : (s.modCtx k f).kernels = s.kernels := rfl
@[simp] theorem State.modCtx_teams (s : State) (k : Nat) (f : Ctx → Ctx) : (s.modCtx k f).teams = s.teams := rfl
@[simp] theorem State.modCtx_groups (s : State) (k : Nat) (f : Ctx → Ctx) : (s.modCtx k f).groups = s.groups := rfl
@[simp] theorem State.modCtx_nextSeq (s : State) (k : Nat) (f : Ctx → Ctx) : (s.modCtx k f).nextSeq = s.nextSeq := rfl
@[simp] theorem State.modCtx_lastServed (s : State) (k : Nat) (f : Ctx → Ctx) : (s.modCtx k f).lastServed = s.lastServed := rfl
@[simp] theorem State.modCtx_lastTake (s : State) (k : Nat) (f : Ctx → Ctx) : (s.modCtx k f).lastTake = s.lastTake := rfl
@[simp] theorem State.modCtx_cursor (s : State) (k : Nat) (f : Ctx → Ctx) : (s.modCtx k f).cursor = s.cursor := rfl
@[simp] theorem State.modCtx_cores (s : State) (k : Nat) (f : Ctx → Ctx) : (s.modCtx k f).cores = s.cores := rfl
@[simp] theorem State.modCtx_quads (s : State) (k : Nat) (f : Ctx → Ctx) : (s.modCtx k f).quads = s.quads := rfl
@[simp] theorem State.modCtx_chips (s : State) (k : Nat) (f : Ctx → Ctx) : (s.modCtx k f).chips = s.chips := rfl
@[simp] theorem State.modCtx_wtabs (s : State) (k : Nat) (f : Ctx → Ctx) : (s.modCtx k f).wtabs = s.wtabs := rfl
@[simp] theorem State.modCtx_curWrites (s : State) (k : Nat) (f : Ctx → Ctx) : (s.modCtx k f).curWrites = s.curWrites := rfl
@[simp] theorem State.modCtx_pageReqs (s : State) (k : Nat) (f : Ctx → Ctx) : (s.modCtx k f).pageReqs = s.pageReqs := rfl
@[simp] theorem State.modCtx_pmigs (s : State) (k : Nat) (f : Ctx → Ctx) : (s.modCtx k f).pmigs = s.pmigs := rfl
@[simp] theorem State.modCtx_migrations (s : State) (k : Nat) (f : Ctx → Ctx) : (s.modCtx k f).migrations = s.migrations := rfl
@[simp] theorem State.modCtx_publs (s : State) (k : Nat) (f : Ctx → Ctx) : (s.modCtx k f).publs = s.publs := rfl
@[simp] theorem State.modCtx_polders (s : State) (k : Nat) (f : Ctx → Ctx) : (s.modCtx k f).polders = s.polders := rfl
@[simp] theorem State.modCtx_resizeWrites (s : State) (k : Nat) (f : Ctx → Ctx) : (s.modCtx k f).resizeWrites = s.resizeWrites := rfl
@[simp] theorem State.modCtx_classes (s : State) (k : Nat) (f : Ctx → Ctx) : (s.modCtx k f).classes = s.classes := rfl
@[simp] theorem State.modCtx_homes (s : State) (k : Nat) (f : Ctx → Ctx) : (s.modCtx k f).homes = s.homes := rfl
@[simp] theorem State.modCtx_banks (s : State) (k : Nat) (f : Ctx → Ctx) : (s.modCtx k f).banks = s.banks := rfl
@[simp] theorem State.modCtx_shareFault (s : State) (k : Nat) (f : Ctx → Ctx) : (s.modCtx k f).shareFault = s.shareFault := rfl
@[simp] theorem State.modCtx_tide (s : State) (k : Nat) (f : Ctx → Ctx) : (s.modCtx k f).tide = s.tide := rfl
@[simp] theorem State.modCtx_grace (s : State) (k : Nat) (f : Ctx → Ctx) : (s.modCtx k f).grace = s.grace := rfl
@[simp] theorem State.modCtx_graceQueued (s : State) (k : Nat) (f : Ctx → Ctx) : (s.modCtx k f).graceQueued = s.graceQueued := rfl
@[simp] theorem State.modCtx_graceStarts (s : State) (k : Nat) (f : Ctx → Ctx) : (s.modCtx k f).graceStarts = s.graceStarts := rfl
@[simp] theorem State.modCtx_quiescent (s : State) (k : Nat) (f : Ctx → Ctx) : (s.modCtx k f).quiescent = s.quiescent := rfl
@[simp] theorem State.modCtx_spillways (s : State) (k : Nat) (f : Ctx → Ctx) : (s.modCtx k f).spillways = s.spillways := rfl
@[simp] theorem State.modCtx_links (s : State) (k : Nat) (f : Ctx → Ctx) : (s.modCtx k f).links = s.links := rfl
@[simp] theorem State.modCtx_pairs (s : State) (k : Nat) (f : Ctx → Ctx) : (s.modCtx k f).pairs = s.pairs := rfl
@[simp] theorem State.modCtx_laneMaps (s : State) (k : Nat) (f : Ctx → Ctx) : (s.modCtx k f).laneMaps = s.laneMaps := rfl
@[simp] theorem State.modCtx_failedSources (s : State) (k : Nat) (f : Ctx → Ctx) : (s.modCtx k f).failedSources = s.failedSources := rfl
@[simp] theorem State.modCtx_relocking (s : State) (k : Nat) (f : Ctx → Ctx) : (s.modCtx k f).relocking = s.relocking := rfl
@[simp] theorem State.modCtx_steered (s : State) (k : Nat) (f : Ctx → Ctx) : (s.modCtx k f).steered = s.steered := rfl
@[simp] theorem State.modCtx_relayed (s : State) (k : Nat) (f : Ctx → Ctx) : (s.modCtx k f).relayed = s.relayed := rfl
@[simp] theorem State.modCtx_ports (s : State) (k : Nat) (f : Ctx → Ctx) : (s.modCtx k f).ports = s.ports := rfl
@[simp] theorem State.modCtx_portReplays (s : State) (k : Nat) (f : Ctx → Ctx) : (s.modCtx k f).portReplays = s.portReplays := rfl
@[simp] theorem State.modCtx_portMasks (s : State) (k : Nat) (f : Ctx → Ctx) : (s.modCtx k f).portMasks = s.portMasks := rfl
@[simp] theorem State.modCtx_exports_ (s : State) (k : Nat) (f : Ctx → Ctx) : (s.modCtx k f).exports_ = s.exports_ := rfl
@[simp] theorem State.modCtx_peerReqs (s : State) (k : Nat) (f : Ctx → Ctx) : (s.modCtx k f).peerReqs = s.peerReqs := rfl
@[simp] theorem State.modCtx_inbound (s : State) (k : Nat) (f : Ctx → Ctx) : (s.modCtx k f).inbound = s.inbound := rfl
@[simp] theorem State.modCtx_sent (s : State) (k : Nat) (f : Ctx → Ctx) : (s.modCtx k f).sent = s.sent := rfl
@[simp] theorem State.modCtx_pubs (s : State) (k : Nat) (f : Ctx → Ctx) : (s.modCtx k f).pubs = s.pubs := rfl
@[simp] theorem State.modCtx_colls (s : State) (k : Nat) (f : Ctx → Ctx) : (s.modCtx k f).colls = s.colls := rfl
@[simp] theorem State.modCtx_fenceMap (s : State) (k : Nat) (f : Ctx → Ctx) : (s.modCtx k f).fenceMap = s.fenceMap := rfl
@[simp] theorem State.modCtx_absentChips (s : State) (k : Nat) (f : Ctx → Ctx) : (s.modCtx k f).absentChips = s.absentChips := rfl
@[simp] theorem State.modCtx_plim (s : State) (k : Nat) (f : Ctx → Ctx) : (s.modCtx k f).plim = s.plim := rfl
@[simp] theorem State.modCtx_ilim (s : State) (k : Nat) (f : Ctx → Ctx) : (s.modCtx k f).ilim = s.ilim := rfl
@[simp] theorem State.modCtx_wdlim (s : State) (k : Nat) (f : Ctx → Ctx) : (s.modCtx k f).wdlim = s.wdlim := rfl
@[simp] theorem State.modCtx_reports (s : State) (k : Nat) (f : Ctx → Ctx) : (s.modCtx k f).reports = s.reports := rfl
@[simp] theorem State.modCtx_mailbox (s : State) (k : Nat) (f : Ctx → Ctx) : (s.modCtx k f).mailbox = s.mailbox := rfl
@[simp] theorem State.modCtx_ideKeys (s : State) (k : Nat) (f : Ctx → Ctx) : (s.modCtx k f).ideKeys = s.ideKeys := rfl
@[simp] theorem State.modCtx_hostLines (s : State) (k : Nat) (f : Ctx → Ctx) : (s.modCtx k f).hostLines = s.hostLines := rfl
@[simp] theorem State.modCtx_snoops (s : State) (k : Nat) (f : Ctx → Ctx) : (s.modCtx k f).snoops = s.snoops := rfl
@[simp] theorem State.modCtx_images (s : State) (k : Nat) (f : Ctx → Ctx) : (s.modCtx k f).images = s.images := rfl
@[simp] theorem State.modCtx_flash (s : State) (k : Nat) (f : Ctx → Ctx) : (s.modCtx k f).flash = s.flash := rfl
@[simp] theorem State.modCtx_config (s : State) (k : Nat) (f : Ctx → Ctx) : (s.modCtx k f).config = s.config := rfl
@[simp] theorem State.modCtx_xmssNext (s : State) (k : Nat) (f : Ctx → Ctx) : (s.modCtx k f).xmssNext = s.xmssNext := rfl
@[simp] theorem State.modCtx_safeTier (s : State) (k : Nat) (f : Ctx → Ctx) : (s.modCtx k f).safeTier = s.safeTier := rfl
@[simp] theorem State.modCtx_inReset (s : State) (k : Nat) (f : Ctx → Ctx) : (s.modCtx k f).inReset = s.inReset := rfl

/-! ### modQueue -/

theorem State.modQueue_queues (s : State) (k : Nat) (f : Queue → Queue) : (s.modQueue k f).queues = s.queues.upd k f := rfl

@[simp] theorem State.modQueue_time (s : State) (k : Nat) (f : Queue → Queue) : (s.modQueue k f).time = s.time := rfl
@[simp] theorem State.modQueue_cycles (s : State) (k : Nat) (f : Queue → Queue) : (s.modQueue k f).cycles = s.cycles := rfl
@[simp] theorem State.modQueue_agenda (s : State) (k : Nat) (f : Queue → Queue) : (s.modQueue k f).agenda = s.agenda := rfl
@[simp] theorem State.modQueue_probeQ (s : State) (k : Nat) (f : Queue → Queue) : (s.modQueue k f).probeQ = s.probeQ := rfl
@[simp] theorem State.modQueue_picking (s : State) (k : Nat) (f : Queue → Queue) : (s.modQueue k f).picking = s.picking := rfl
@[simp] theorem State.modQueue_probed (s : State) (k : Nat) (f : Queue → Queue) : (s.modQueue k f).probed = s.probed := rfl
@[simp] theorem State.modQueue_probing (s : State) (k : Nat) (f : Queue → Queue) : (s.modQueue k f).probing = s.probing := rfl
@[simp] theorem State.modQueue_issueQ (s : State) (k : Nat) (f : Queue → Queue) : (s.modQueue k f).issueQ = s.issueQ := rfl
@[simp] theorem State.modQueue_cur (s : State) (k : Nat) (f : Queue → Queue) : (s.modQueue k f).cur = s.cur := rfl
@[simp] theorem State.modQueue_again (s : State) (k : Nat) (f : Queue → Queue) : (s.modQueue k f).again = s.again := rfl
@[simp] theorem State.modQueue_fresh (s : State) (k : Nat) (f : Queue → Queue) : (s.modQueue k f).fresh = s.fresh := rfl
@[simp] theorem State.modQueue_uid (s : State) (k : Nat) (f : Queue → Queue) : (s.modQueue k f).uid = s.uid := rfl
@[simp] theorem State.modQueue_mem (s : State) (k : Nat) (f : Queue → Queue) : (s.modQueue k f).mem = s.mem := rfl
@[simp] theorem State.modQueue_memPoison (s : State) (k : Nat) (f : Queue → Queue) : (s.modQueue k f).memPoison = s.memPoison := rfl
@[simp] theorem State.modQueue_ctxs (s : State) (k : Nat) (f : Queue → Queue) : (s.modQueue k f).ctxs = s.ctxs := rfl
@[simp] theorem State.modQueue_kernels (s : State) (k : Nat) (f : Queue → Queue) : (s.modQueue k f).kernels = s.kernels := rfl
@[simp] theorem State.modQueue_teams (s : State) (k : Nat) (f : Queue → Queue) : (s.modQueue k f).teams = s.teams := rfl
@[simp] theorem State.modQueue_groups (s : State) (k : Nat) (f : Queue → Queue) : (s.modQueue k f).groups = s.groups := rfl
@[simp] theorem State.modQueue_nextSeq (s : State) (k : Nat) (f : Queue → Queue) : (s.modQueue k f).nextSeq = s.nextSeq := rfl
@[simp] theorem State.modQueue_lastServed (s : State) (k : Nat) (f : Queue → Queue) : (s.modQueue k f).lastServed = s.lastServed := rfl
@[simp] theorem State.modQueue_lastTake (s : State) (k : Nat) (f : Queue → Queue) : (s.modQueue k f).lastTake = s.lastTake := rfl
@[simp] theorem State.modQueue_cursor (s : State) (k : Nat) (f : Queue → Queue) : (s.modQueue k f).cursor = s.cursor := rfl
@[simp] theorem State.modQueue_cores (s : State) (k : Nat) (f : Queue → Queue) : (s.modQueue k f).cores = s.cores := rfl
@[simp] theorem State.modQueue_quads (s : State) (k : Nat) (f : Queue → Queue) : (s.modQueue k f).quads = s.quads := rfl
@[simp] theorem State.modQueue_chips (s : State) (k : Nat) (f : Queue → Queue) : (s.modQueue k f).chips = s.chips := rfl
@[simp] theorem State.modQueue_wtabs (s : State) (k : Nat) (f : Queue → Queue) : (s.modQueue k f).wtabs = s.wtabs := rfl
@[simp] theorem State.modQueue_curWrites (s : State) (k : Nat) (f : Queue → Queue) : (s.modQueue k f).curWrites = s.curWrites := rfl
@[simp] theorem State.modQueue_pageReqs (s : State) (k : Nat) (f : Queue → Queue) : (s.modQueue k f).pageReqs = s.pageReqs := rfl
@[simp] theorem State.modQueue_pmigs (s : State) (k : Nat) (f : Queue → Queue) : (s.modQueue k f).pmigs = s.pmigs := rfl
@[simp] theorem State.modQueue_migrations (s : State) (k : Nat) (f : Queue → Queue) : (s.modQueue k f).migrations = s.migrations := rfl
@[simp] theorem State.modQueue_publs (s : State) (k : Nat) (f : Queue → Queue) : (s.modQueue k f).publs = s.publs := rfl
@[simp] theorem State.modQueue_polders (s : State) (k : Nat) (f : Queue → Queue) : (s.modQueue k f).polders = s.polders := rfl
@[simp] theorem State.modQueue_resizeWrites (s : State) (k : Nat) (f : Queue → Queue) : (s.modQueue k f).resizeWrites = s.resizeWrites := rfl
@[simp] theorem State.modQueue_classes (s : State) (k : Nat) (f : Queue → Queue) : (s.modQueue k f).classes = s.classes := rfl
@[simp] theorem State.modQueue_homes (s : State) (k : Nat) (f : Queue → Queue) : (s.modQueue k f).homes = s.homes := rfl
@[simp] theorem State.modQueue_banks (s : State) (k : Nat) (f : Queue → Queue) : (s.modQueue k f).banks = s.banks := rfl
@[simp] theorem State.modQueue_shareFault (s : State) (k : Nat) (f : Queue → Queue) : (s.modQueue k f).shareFault = s.shareFault := rfl
@[simp] theorem State.modQueue_tide (s : State) (k : Nat) (f : Queue → Queue) : (s.modQueue k f).tide = s.tide := rfl
@[simp] theorem State.modQueue_grace (s : State) (k : Nat) (f : Queue → Queue) : (s.modQueue k f).grace = s.grace := rfl
@[simp] theorem State.modQueue_graceQueued (s : State) (k : Nat) (f : Queue → Queue) : (s.modQueue k f).graceQueued = s.graceQueued := rfl
@[simp] theorem State.modQueue_graceStarts (s : State) (k : Nat) (f : Queue → Queue) : (s.modQueue k f).graceStarts = s.graceStarts := rfl
@[simp] theorem State.modQueue_quiescent (s : State) (k : Nat) (f : Queue → Queue) : (s.modQueue k f).quiescent = s.quiescent := rfl
@[simp] theorem State.modQueue_spillways (s : State) (k : Nat) (f : Queue → Queue) : (s.modQueue k f).spillways = s.spillways := rfl
@[simp] theorem State.modQueue_links (s : State) (k : Nat) (f : Queue → Queue) : (s.modQueue k f).links = s.links := rfl
@[simp] theorem State.modQueue_pairs (s : State) (k : Nat) (f : Queue → Queue) : (s.modQueue k f).pairs = s.pairs := rfl
@[simp] theorem State.modQueue_laneMaps (s : State) (k : Nat) (f : Queue → Queue) : (s.modQueue k f).laneMaps = s.laneMaps := rfl
@[simp] theorem State.modQueue_failedSources (s : State) (k : Nat) (f : Queue → Queue) : (s.modQueue k f).failedSources = s.failedSources := rfl
@[simp] theorem State.modQueue_relocking (s : State) (k : Nat) (f : Queue → Queue) : (s.modQueue k f).relocking = s.relocking := rfl
@[simp] theorem State.modQueue_steered (s : State) (k : Nat) (f : Queue → Queue) : (s.modQueue k f).steered = s.steered := rfl
@[simp] theorem State.modQueue_relayed (s : State) (k : Nat) (f : Queue → Queue) : (s.modQueue k f).relayed = s.relayed := rfl
@[simp] theorem State.modQueue_ports (s : State) (k : Nat) (f : Queue → Queue) : (s.modQueue k f).ports = s.ports := rfl
@[simp] theorem State.modQueue_portReplays (s : State) (k : Nat) (f : Queue → Queue) : (s.modQueue k f).portReplays = s.portReplays := rfl
@[simp] theorem State.modQueue_portMasks (s : State) (k : Nat) (f : Queue → Queue) : (s.modQueue k f).portMasks = s.portMasks := rfl
@[simp] theorem State.modQueue_exports_ (s : State) (k : Nat) (f : Queue → Queue) : (s.modQueue k f).exports_ = s.exports_ := rfl
@[simp] theorem State.modQueue_peerReqs (s : State) (k : Nat) (f : Queue → Queue) : (s.modQueue k f).peerReqs = s.peerReqs := rfl
@[simp] theorem State.modQueue_inbound (s : State) (k : Nat) (f : Queue → Queue) : (s.modQueue k f).inbound = s.inbound := rfl
@[simp] theorem State.modQueue_sent (s : State) (k : Nat) (f : Queue → Queue) : (s.modQueue k f).sent = s.sent := rfl
@[simp] theorem State.modQueue_pubs (s : State) (k : Nat) (f : Queue → Queue) : (s.modQueue k f).pubs = s.pubs := rfl
@[simp] theorem State.modQueue_colls (s : State) (k : Nat) (f : Queue → Queue) : (s.modQueue k f).colls = s.colls := rfl
@[simp] theorem State.modQueue_fenceMap (s : State) (k : Nat) (f : Queue → Queue) : (s.modQueue k f).fenceMap = s.fenceMap := rfl
@[simp] theorem State.modQueue_absentChips (s : State) (k : Nat) (f : Queue → Queue) : (s.modQueue k f).absentChips = s.absentChips := rfl
@[simp] theorem State.modQueue_plim (s : State) (k : Nat) (f : Queue → Queue) : (s.modQueue k f).plim = s.plim := rfl
@[simp] theorem State.modQueue_ilim (s : State) (k : Nat) (f : Queue → Queue) : (s.modQueue k f).ilim = s.ilim := rfl
@[simp] theorem State.modQueue_wdlim (s : State) (k : Nat) (f : Queue → Queue) : (s.modQueue k f).wdlim = s.wdlim := rfl
@[simp] theorem State.modQueue_reports (s : State) (k : Nat) (f : Queue → Queue) : (s.modQueue k f).reports = s.reports := rfl
@[simp] theorem State.modQueue_mailbox (s : State) (k : Nat) (f : Queue → Queue) : (s.modQueue k f).mailbox = s.mailbox := rfl
@[simp] theorem State.modQueue_ideKeys (s : State) (k : Nat) (f : Queue → Queue) : (s.modQueue k f).ideKeys = s.ideKeys := rfl
@[simp] theorem State.modQueue_hostLines (s : State) (k : Nat) (f : Queue → Queue) : (s.modQueue k f).hostLines = s.hostLines := rfl
@[simp] theorem State.modQueue_snoops (s : State) (k : Nat) (f : Queue → Queue) : (s.modQueue k f).snoops = s.snoops := rfl
@[simp] theorem State.modQueue_images (s : State) (k : Nat) (f : Queue → Queue) : (s.modQueue k f).images = s.images := rfl
@[simp] theorem State.modQueue_flash (s : State) (k : Nat) (f : Queue → Queue) : (s.modQueue k f).flash = s.flash := rfl
@[simp] theorem State.modQueue_config (s : State) (k : Nat) (f : Queue → Queue) : (s.modQueue k f).config = s.config := rfl
@[simp] theorem State.modQueue_xmssNext (s : State) (k : Nat) (f : Queue → Queue) : (s.modQueue k f).xmssNext = s.xmssNext := rfl
@[simp] theorem State.modQueue_safeTier (s : State) (k : Nat) (f : Queue → Queue) : (s.modQueue k f).safeTier = s.safeTier := rfl
@[simp] theorem State.modQueue_inReset (s : State) (k : Nat) (f : Queue → Queue) : (s.modQueue k f).inReset = s.inReset := rfl

/-! ### modCore -/

theorem State.modCore_cores (s : State) (k : Nat) (f : CoreSt → CoreSt) : (s.modCore k f).cores = s.cores.put k (f (s.core k)) := rfl

@[simp] theorem State.modCore_time (s : State) (k : Nat) (f : CoreSt → CoreSt) : (s.modCore k f).time = s.time := rfl
@[simp] theorem State.modCore_cycles (s : State) (k : Nat) (f : CoreSt → CoreSt) : (s.modCore k f).cycles = s.cycles := rfl
@[simp] theorem State.modCore_agenda (s : State) (k : Nat) (f : CoreSt → CoreSt) : (s.modCore k f).agenda = s.agenda := rfl
@[simp] theorem State.modCore_probeQ (s : State) (k : Nat) (f : CoreSt → CoreSt) : (s.modCore k f).probeQ = s.probeQ := rfl
@[simp] theorem State.modCore_picking (s : State) (k : Nat) (f : CoreSt → CoreSt) : (s.modCore k f).picking = s.picking := rfl
@[simp] theorem State.modCore_probed (s : State) (k : Nat) (f : CoreSt → CoreSt) : (s.modCore k f).probed = s.probed := rfl
@[simp] theorem State.modCore_probing (s : State) (k : Nat) (f : CoreSt → CoreSt) : (s.modCore k f).probing = s.probing := rfl
@[simp] theorem State.modCore_issueQ (s : State) (k : Nat) (f : CoreSt → CoreSt) : (s.modCore k f).issueQ = s.issueQ := rfl
@[simp] theorem State.modCore_cur (s : State) (k : Nat) (f : CoreSt → CoreSt) : (s.modCore k f).cur = s.cur := rfl
@[simp] theorem State.modCore_again (s : State) (k : Nat) (f : CoreSt → CoreSt) : (s.modCore k f).again = s.again := rfl
@[simp] theorem State.modCore_fresh (s : State) (k : Nat) (f : CoreSt → CoreSt) : (s.modCore k f).fresh = s.fresh := rfl
@[simp] theorem State.modCore_uid (s : State) (k : Nat) (f : CoreSt → CoreSt) : (s.modCore k f).uid = s.uid := rfl
@[simp] theorem State.modCore_mem (s : State) (k : Nat) (f : CoreSt → CoreSt) : (s.modCore k f).mem = s.mem := rfl
@[simp] theorem State.modCore_memPoison (s : State) (k : Nat) (f : CoreSt → CoreSt) : (s.modCore k f).memPoison = s.memPoison := rfl
@[simp] theorem State.modCore_ctxs (s : State) (k : Nat) (f : CoreSt → CoreSt) : (s.modCore k f).ctxs = s.ctxs := rfl
@[simp] theorem State.modCore_queues (s : State) (k : Nat) (f : CoreSt → CoreSt) : (s.modCore k f).queues = s.queues := rfl
@[simp] theorem State.modCore_kernels (s : State) (k : Nat) (f : CoreSt → CoreSt) : (s.modCore k f).kernels = s.kernels := rfl
@[simp] theorem State.modCore_teams (s : State) (k : Nat) (f : CoreSt → CoreSt) : (s.modCore k f).teams = s.teams := rfl
@[simp] theorem State.modCore_groups (s : State) (k : Nat) (f : CoreSt → CoreSt) : (s.modCore k f).groups = s.groups := rfl
@[simp] theorem State.modCore_nextSeq (s : State) (k : Nat) (f : CoreSt → CoreSt) : (s.modCore k f).nextSeq = s.nextSeq := rfl
@[simp] theorem State.modCore_lastServed (s : State) (k : Nat) (f : CoreSt → CoreSt) : (s.modCore k f).lastServed = s.lastServed := rfl
@[simp] theorem State.modCore_lastTake (s : State) (k : Nat) (f : CoreSt → CoreSt) : (s.modCore k f).lastTake = s.lastTake := rfl
@[simp] theorem State.modCore_cursor (s : State) (k : Nat) (f : CoreSt → CoreSt) : (s.modCore k f).cursor = s.cursor := rfl
@[simp] theorem State.modCore_quads (s : State) (k : Nat) (f : CoreSt → CoreSt) : (s.modCore k f).quads = s.quads := rfl
@[simp] theorem State.modCore_chips (s : State) (k : Nat) (f : CoreSt → CoreSt) : (s.modCore k f).chips = s.chips := rfl
@[simp] theorem State.modCore_wtabs (s : State) (k : Nat) (f : CoreSt → CoreSt) : (s.modCore k f).wtabs = s.wtabs := rfl
@[simp] theorem State.modCore_curWrites (s : State) (k : Nat) (f : CoreSt → CoreSt) : (s.modCore k f).curWrites = s.curWrites := rfl
@[simp] theorem State.modCore_pageReqs (s : State) (k : Nat) (f : CoreSt → CoreSt) : (s.modCore k f).pageReqs = s.pageReqs := rfl
@[simp] theorem State.modCore_pmigs (s : State) (k : Nat) (f : CoreSt → CoreSt) : (s.modCore k f).pmigs = s.pmigs := rfl
@[simp] theorem State.modCore_migrations (s : State) (k : Nat) (f : CoreSt → CoreSt) : (s.modCore k f).migrations = s.migrations := rfl
@[simp] theorem State.modCore_publs (s : State) (k : Nat) (f : CoreSt → CoreSt) : (s.modCore k f).publs = s.publs := rfl
@[simp] theorem State.modCore_polders (s : State) (k : Nat) (f : CoreSt → CoreSt) : (s.modCore k f).polders = s.polders := rfl
@[simp] theorem State.modCore_resizeWrites (s : State) (k : Nat) (f : CoreSt → CoreSt) : (s.modCore k f).resizeWrites = s.resizeWrites := rfl
@[simp] theorem State.modCore_classes (s : State) (k : Nat) (f : CoreSt → CoreSt) : (s.modCore k f).classes = s.classes := rfl
@[simp] theorem State.modCore_homes (s : State) (k : Nat) (f : CoreSt → CoreSt) : (s.modCore k f).homes = s.homes := rfl
@[simp] theorem State.modCore_banks (s : State) (k : Nat) (f : CoreSt → CoreSt) : (s.modCore k f).banks = s.banks := rfl
@[simp] theorem State.modCore_shareFault (s : State) (k : Nat) (f : CoreSt → CoreSt) : (s.modCore k f).shareFault = s.shareFault := rfl
@[simp] theorem State.modCore_tide (s : State) (k : Nat) (f : CoreSt → CoreSt) : (s.modCore k f).tide = s.tide := rfl
@[simp] theorem State.modCore_grace (s : State) (k : Nat) (f : CoreSt → CoreSt) : (s.modCore k f).grace = s.grace := rfl
@[simp] theorem State.modCore_graceQueued (s : State) (k : Nat) (f : CoreSt → CoreSt) : (s.modCore k f).graceQueued = s.graceQueued := rfl
@[simp] theorem State.modCore_graceStarts (s : State) (k : Nat) (f : CoreSt → CoreSt) : (s.modCore k f).graceStarts = s.graceStarts := rfl
@[simp] theorem State.modCore_quiescent (s : State) (k : Nat) (f : CoreSt → CoreSt) : (s.modCore k f).quiescent = s.quiescent := rfl
@[simp] theorem State.modCore_spillways (s : State) (k : Nat) (f : CoreSt → CoreSt) : (s.modCore k f).spillways = s.spillways := rfl
@[simp] theorem State.modCore_links (s : State) (k : Nat) (f : CoreSt → CoreSt) : (s.modCore k f).links = s.links := rfl
@[simp] theorem State.modCore_pairs (s : State) (k : Nat) (f : CoreSt → CoreSt) : (s.modCore k f).pairs = s.pairs := rfl
@[simp] theorem State.modCore_laneMaps (s : State) (k : Nat) (f : CoreSt → CoreSt) : (s.modCore k f).laneMaps = s.laneMaps := rfl
@[simp] theorem State.modCore_failedSources (s : State) (k : Nat) (f : CoreSt → CoreSt) : (s.modCore k f).failedSources = s.failedSources := rfl
@[simp] theorem State.modCore_relocking (s : State) (k : Nat) (f : CoreSt → CoreSt) : (s.modCore k f).relocking = s.relocking := rfl
@[simp] theorem State.modCore_steered (s : State) (k : Nat) (f : CoreSt → CoreSt) : (s.modCore k f).steered = s.steered := rfl
@[simp] theorem State.modCore_relayed (s : State) (k : Nat) (f : CoreSt → CoreSt) : (s.modCore k f).relayed = s.relayed := rfl
@[simp] theorem State.modCore_ports (s : State) (k : Nat) (f : CoreSt → CoreSt) : (s.modCore k f).ports = s.ports := rfl
@[simp] theorem State.modCore_portReplays (s : State) (k : Nat) (f : CoreSt → CoreSt) : (s.modCore k f).portReplays = s.portReplays := rfl
@[simp] theorem State.modCore_portMasks (s : State) (k : Nat) (f : CoreSt → CoreSt) : (s.modCore k f).portMasks = s.portMasks := rfl
@[simp] theorem State.modCore_exports_ (s : State) (k : Nat) (f : CoreSt → CoreSt) : (s.modCore k f).exports_ = s.exports_ := rfl
@[simp] theorem State.modCore_peerReqs (s : State) (k : Nat) (f : CoreSt → CoreSt) : (s.modCore k f).peerReqs = s.peerReqs := rfl
@[simp] theorem State.modCore_inbound (s : State) (k : Nat) (f : CoreSt → CoreSt) : (s.modCore k f).inbound = s.inbound := rfl
@[simp] theorem State.modCore_sent (s : State) (k : Nat) (f : CoreSt → CoreSt) : (s.modCore k f).sent = s.sent := rfl
@[simp] theorem State.modCore_pubs (s : State) (k : Nat) (f : CoreSt → CoreSt) : (s.modCore k f).pubs = s.pubs := rfl
@[simp] theorem State.modCore_colls (s : State) (k : Nat) (f : CoreSt → CoreSt) : (s.modCore k f).colls = s.colls := rfl
@[simp] theorem State.modCore_fenceMap (s : State) (k : Nat) (f : CoreSt → CoreSt) : (s.modCore k f).fenceMap = s.fenceMap := rfl
@[simp] theorem State.modCore_absentChips (s : State) (k : Nat) (f : CoreSt → CoreSt) : (s.modCore k f).absentChips = s.absentChips := rfl
@[simp] theorem State.modCore_plim (s : State) (k : Nat) (f : CoreSt → CoreSt) : (s.modCore k f).plim = s.plim := rfl
@[simp] theorem State.modCore_ilim (s : State) (k : Nat) (f : CoreSt → CoreSt) : (s.modCore k f).ilim = s.ilim := rfl
@[simp] theorem State.modCore_wdlim (s : State) (k : Nat) (f : CoreSt → CoreSt) : (s.modCore k f).wdlim = s.wdlim := rfl
@[simp] theorem State.modCore_reports (s : State) (k : Nat) (f : CoreSt → CoreSt) : (s.modCore k f).reports = s.reports := rfl
@[simp] theorem State.modCore_mailbox (s : State) (k : Nat) (f : CoreSt → CoreSt) : (s.modCore k f).mailbox = s.mailbox := rfl
@[simp] theorem State.modCore_ideKeys (s : State) (k : Nat) (f : CoreSt → CoreSt) : (s.modCore k f).ideKeys = s.ideKeys := rfl
@[simp] theorem State.modCore_hostLines (s : State) (k : Nat) (f : CoreSt → CoreSt) : (s.modCore k f).hostLines = s.hostLines := rfl
@[simp] theorem State.modCore_snoops (s : State) (k : Nat) (f : CoreSt → CoreSt) : (s.modCore k f).snoops = s.snoops := rfl
@[simp] theorem State.modCore_images (s : State) (k : Nat) (f : CoreSt → CoreSt) : (s.modCore k f).images = s.images := rfl
@[simp] theorem State.modCore_flash (s : State) (k : Nat) (f : CoreSt → CoreSt) : (s.modCore k f).flash = s.flash := rfl
@[simp] theorem State.modCore_config (s : State) (k : Nat) (f : CoreSt → CoreSt) : (s.modCore k f).config = s.config := rfl
@[simp] theorem State.modCore_xmssNext (s : State) (k : Nat) (f : CoreSt → CoreSt) : (s.modCore k f).xmssNext = s.xmssNext := rfl
@[simp] theorem State.modCore_safeTier (s : State) (k : Nat) (f : CoreSt → CoreSt) : (s.modCore k f).safeTier = s.safeTier := rfl
@[simp] theorem State.modCore_inReset (s : State) (k : Nat) (f : CoreSt → CoreSt) : (s.modCore k f).inReset = s.inReset := rfl

/-! ### modQuad -/

theorem State.modQuad_quads (s : State) (k : Nat) (f : Quad → Quad) : (s.modQuad k f).quads = s.quads.put k (f (s.quad k)) := rfl

@[simp] theorem State.modQuad_time (s : State) (k : Nat) (f : Quad → Quad) : (s.modQuad k f).time = s.time := rfl
@[simp] theorem State.modQuad_cycles (s : State) (k : Nat) (f : Quad → Quad) : (s.modQuad k f).cycles = s.cycles := rfl
@[simp] theorem State.modQuad_agenda (s : State) (k : Nat) (f : Quad → Quad) : (s.modQuad k f).agenda = s.agenda := rfl
@[simp] theorem State.modQuad_probeQ (s : State) (k : Nat) (f : Quad → Quad) : (s.modQuad k f).probeQ = s.probeQ := rfl
@[simp] theorem State.modQuad_picking (s : State) (k : Nat) (f : Quad → Quad) : (s.modQuad k f).picking = s.picking := rfl
@[simp] theorem State.modQuad_probed (s : State) (k : Nat) (f : Quad → Quad) : (s.modQuad k f).probed = s.probed := rfl
@[simp] theorem State.modQuad_probing (s : State) (k : Nat) (f : Quad → Quad) : (s.modQuad k f).probing = s.probing := rfl
@[simp] theorem State.modQuad_issueQ (s : State) (k : Nat) (f : Quad → Quad) : (s.modQuad k f).issueQ = s.issueQ := rfl
@[simp] theorem State.modQuad_cur (s : State) (k : Nat) (f : Quad → Quad) : (s.modQuad k f).cur = s.cur := rfl
@[simp] theorem State.modQuad_again (s : State) (k : Nat) (f : Quad → Quad) : (s.modQuad k f).again = s.again := rfl
@[simp] theorem State.modQuad_fresh (s : State) (k : Nat) (f : Quad → Quad) : (s.modQuad k f).fresh = s.fresh := rfl
@[simp] theorem State.modQuad_uid (s : State) (k : Nat) (f : Quad → Quad) : (s.modQuad k f).uid = s.uid := rfl
@[simp] theorem State.modQuad_mem (s : State) (k : Nat) (f : Quad → Quad) : (s.modQuad k f).mem = s.mem := rfl
@[simp] theorem State.modQuad_memPoison (s : State) (k : Nat) (f : Quad → Quad) : (s.modQuad k f).memPoison = s.memPoison := rfl
@[simp] theorem State.modQuad_ctxs (s : State) (k : Nat) (f : Quad → Quad) : (s.modQuad k f).ctxs = s.ctxs := rfl
@[simp] theorem State.modQuad_queues (s : State) (k : Nat) (f : Quad → Quad) : (s.modQuad k f).queues = s.queues := rfl
@[simp] theorem State.modQuad_kernels (s : State) (k : Nat) (f : Quad → Quad) : (s.modQuad k f).kernels = s.kernels := rfl
@[simp] theorem State.modQuad_teams (s : State) (k : Nat) (f : Quad → Quad) : (s.modQuad k f).teams = s.teams := rfl
@[simp] theorem State.modQuad_groups (s : State) (k : Nat) (f : Quad → Quad) : (s.modQuad k f).groups = s.groups := rfl
@[simp] theorem State.modQuad_nextSeq (s : State) (k : Nat) (f : Quad → Quad) : (s.modQuad k f).nextSeq = s.nextSeq := rfl
@[simp] theorem State.modQuad_lastServed (s : State) (k : Nat) (f : Quad → Quad) : (s.modQuad k f).lastServed = s.lastServed := rfl
@[simp] theorem State.modQuad_lastTake (s : State) (k : Nat) (f : Quad → Quad) : (s.modQuad k f).lastTake = s.lastTake := rfl
@[simp] theorem State.modQuad_cursor (s : State) (k : Nat) (f : Quad → Quad) : (s.modQuad k f).cursor = s.cursor := rfl
@[simp] theorem State.modQuad_cores (s : State) (k : Nat) (f : Quad → Quad) : (s.modQuad k f).cores = s.cores := rfl
@[simp] theorem State.modQuad_chips (s : State) (k : Nat) (f : Quad → Quad) : (s.modQuad k f).chips = s.chips := rfl
@[simp] theorem State.modQuad_wtabs (s : State) (k : Nat) (f : Quad → Quad) : (s.modQuad k f).wtabs = s.wtabs := rfl
@[simp] theorem State.modQuad_curWrites (s : State) (k : Nat) (f : Quad → Quad) : (s.modQuad k f).curWrites = s.curWrites := rfl
@[simp] theorem State.modQuad_pageReqs (s : State) (k : Nat) (f : Quad → Quad) : (s.modQuad k f).pageReqs = s.pageReqs := rfl
@[simp] theorem State.modQuad_pmigs (s : State) (k : Nat) (f : Quad → Quad) : (s.modQuad k f).pmigs = s.pmigs := rfl
@[simp] theorem State.modQuad_migrations (s : State) (k : Nat) (f : Quad → Quad) : (s.modQuad k f).migrations = s.migrations := rfl
@[simp] theorem State.modQuad_publs (s : State) (k : Nat) (f : Quad → Quad) : (s.modQuad k f).publs = s.publs := rfl
@[simp] theorem State.modQuad_polders (s : State) (k : Nat) (f : Quad → Quad) : (s.modQuad k f).polders = s.polders := rfl
@[simp] theorem State.modQuad_resizeWrites (s : State) (k : Nat) (f : Quad → Quad) : (s.modQuad k f).resizeWrites = s.resizeWrites := rfl
@[simp] theorem State.modQuad_classes (s : State) (k : Nat) (f : Quad → Quad) : (s.modQuad k f).classes = s.classes := rfl
@[simp] theorem State.modQuad_homes (s : State) (k : Nat) (f : Quad → Quad) : (s.modQuad k f).homes = s.homes := rfl
@[simp] theorem State.modQuad_banks (s : State) (k : Nat) (f : Quad → Quad) : (s.modQuad k f).banks = s.banks := rfl
@[simp] theorem State.modQuad_shareFault (s : State) (k : Nat) (f : Quad → Quad) : (s.modQuad k f).shareFault = s.shareFault := rfl
@[simp] theorem State.modQuad_tide (s : State) (k : Nat) (f : Quad → Quad) : (s.modQuad k f).tide = s.tide := rfl
@[simp] theorem State.modQuad_grace (s : State) (k : Nat) (f : Quad → Quad) : (s.modQuad k f).grace = s.grace := rfl
@[simp] theorem State.modQuad_graceQueued (s : State) (k : Nat) (f : Quad → Quad) : (s.modQuad k f).graceQueued = s.graceQueued := rfl
@[simp] theorem State.modQuad_graceStarts (s : State) (k : Nat) (f : Quad → Quad) : (s.modQuad k f).graceStarts = s.graceStarts := rfl
@[simp] theorem State.modQuad_quiescent (s : State) (k : Nat) (f : Quad → Quad) : (s.modQuad k f).quiescent = s.quiescent := rfl
@[simp] theorem State.modQuad_spillways (s : State) (k : Nat) (f : Quad → Quad) : (s.modQuad k f).spillways = s.spillways := rfl
@[simp] theorem State.modQuad_links (s : State) (k : Nat) (f : Quad → Quad) : (s.modQuad k f).links = s.links := rfl
@[simp] theorem State.modQuad_pairs (s : State) (k : Nat) (f : Quad → Quad) : (s.modQuad k f).pairs = s.pairs := rfl
@[simp] theorem State.modQuad_laneMaps (s : State) (k : Nat) (f : Quad → Quad) : (s.modQuad k f).laneMaps = s.laneMaps := rfl
@[simp] theorem State.modQuad_failedSources (s : State) (k : Nat) (f : Quad → Quad) : (s.modQuad k f).failedSources = s.failedSources := rfl
@[simp] theorem State.modQuad_relocking (s : State) (k : Nat) (f : Quad → Quad) : (s.modQuad k f).relocking = s.relocking := rfl
@[simp] theorem State.modQuad_steered (s : State) (k : Nat) (f : Quad → Quad) : (s.modQuad k f).steered = s.steered := rfl
@[simp] theorem State.modQuad_relayed (s : State) (k : Nat) (f : Quad → Quad) : (s.modQuad k f).relayed = s.relayed := rfl
@[simp] theorem State.modQuad_ports (s : State) (k : Nat) (f : Quad → Quad) : (s.modQuad k f).ports = s.ports := rfl
@[simp] theorem State.modQuad_portReplays (s : State) (k : Nat) (f : Quad → Quad) : (s.modQuad k f).portReplays = s.portReplays := rfl
@[simp] theorem State.modQuad_portMasks (s : State) (k : Nat) (f : Quad → Quad) : (s.modQuad k f).portMasks = s.portMasks := rfl
@[simp] theorem State.modQuad_exports_ (s : State) (k : Nat) (f : Quad → Quad) : (s.modQuad k f).exports_ = s.exports_ := rfl
@[simp] theorem State.modQuad_peerReqs (s : State) (k : Nat) (f : Quad → Quad) : (s.modQuad k f).peerReqs = s.peerReqs := rfl
@[simp] theorem State.modQuad_inbound (s : State) (k : Nat) (f : Quad → Quad) : (s.modQuad k f).inbound = s.inbound := rfl
@[simp] theorem State.modQuad_sent (s : State) (k : Nat) (f : Quad → Quad) : (s.modQuad k f).sent = s.sent := rfl
@[simp] theorem State.modQuad_pubs (s : State) (k : Nat) (f : Quad → Quad) : (s.modQuad k f).pubs = s.pubs := rfl
@[simp] theorem State.modQuad_colls (s : State) (k : Nat) (f : Quad → Quad) : (s.modQuad k f).colls = s.colls := rfl
@[simp] theorem State.modQuad_fenceMap (s : State) (k : Nat) (f : Quad → Quad) : (s.modQuad k f).fenceMap = s.fenceMap := rfl
@[simp] theorem State.modQuad_absentChips (s : State) (k : Nat) (f : Quad → Quad) : (s.modQuad k f).absentChips = s.absentChips := rfl
@[simp] theorem State.modQuad_plim (s : State) (k : Nat) (f : Quad → Quad) : (s.modQuad k f).plim = s.plim := rfl
@[simp] theorem State.modQuad_ilim (s : State) (k : Nat) (f : Quad → Quad) : (s.modQuad k f).ilim = s.ilim := rfl
@[simp] theorem State.modQuad_wdlim (s : State) (k : Nat) (f : Quad → Quad) : (s.modQuad k f).wdlim = s.wdlim := rfl
@[simp] theorem State.modQuad_reports (s : State) (k : Nat) (f : Quad → Quad) : (s.modQuad k f).reports = s.reports := rfl
@[simp] theorem State.modQuad_mailbox (s : State) (k : Nat) (f : Quad → Quad) : (s.modQuad k f).mailbox = s.mailbox := rfl
@[simp] theorem State.modQuad_ideKeys (s : State) (k : Nat) (f : Quad → Quad) : (s.modQuad k f).ideKeys = s.ideKeys := rfl
@[simp] theorem State.modQuad_hostLines (s : State) (k : Nat) (f : Quad → Quad) : (s.modQuad k f).hostLines = s.hostLines := rfl
@[simp] theorem State.modQuad_snoops (s : State) (k : Nat) (f : Quad → Quad) : (s.modQuad k f).snoops = s.snoops := rfl
@[simp] theorem State.modQuad_images (s : State) (k : Nat) (f : Quad → Quad) : (s.modQuad k f).images = s.images := rfl
@[simp] theorem State.modQuad_flash (s : State) (k : Nat) (f : Quad → Quad) : (s.modQuad k f).flash = s.flash := rfl
@[simp] theorem State.modQuad_config (s : State) (k : Nat) (f : Quad → Quad) : (s.modQuad k f).config = s.config := rfl
@[simp] theorem State.modQuad_xmssNext (s : State) (k : Nat) (f : Quad → Quad) : (s.modQuad k f).xmssNext = s.xmssNext := rfl
@[simp] theorem State.modQuad_safeTier (s : State) (k : Nat) (f : Quad → Quad) : (s.modQuad k f).safeTier = s.safeTier := rfl
@[simp] theorem State.modQuad_inReset (s : State) (k : Nat) (f : Quad → Quad) : (s.modQuad k f).inReset = s.inReset := rfl

/-! ### modChip -/

theorem State.modChip_chips (s : State) (k : Nat) (f : Chip → Chip) : (s.modChip k f).chips = s.chips.put k (f (s.chip k)) := rfl

@[simp] theorem State.modChip_time (s : State) (k : Nat) (f : Chip → Chip) : (s.modChip k f).time = s.time := rfl
@[simp] theorem State.modChip_cycles (s : State) (k : Nat) (f : Chip → Chip) : (s.modChip k f).cycles = s.cycles := rfl
@[simp] theorem State.modChip_agenda (s : State) (k : Nat) (f : Chip → Chip) : (s.modChip k f).agenda = s.agenda := rfl
@[simp] theorem State.modChip_probeQ (s : State) (k : Nat) (f : Chip → Chip) : (s.modChip k f).probeQ = s.probeQ := rfl
@[simp] theorem State.modChip_picking (s : State) (k : Nat) (f : Chip → Chip) : (s.modChip k f).picking = s.picking := rfl
@[simp] theorem State.modChip_probed (s : State) (k : Nat) (f : Chip → Chip) : (s.modChip k f).probed = s.probed := rfl
@[simp] theorem State.modChip_probing (s : State) (k : Nat) (f : Chip → Chip) : (s.modChip k f).probing = s.probing := rfl
@[simp] theorem State.modChip_issueQ (s : State) (k : Nat) (f : Chip → Chip) : (s.modChip k f).issueQ = s.issueQ := rfl
@[simp] theorem State.modChip_cur (s : State) (k : Nat) (f : Chip → Chip) : (s.modChip k f).cur = s.cur := rfl
@[simp] theorem State.modChip_again (s : State) (k : Nat) (f : Chip → Chip) : (s.modChip k f).again = s.again := rfl
@[simp] theorem State.modChip_fresh (s : State) (k : Nat) (f : Chip → Chip) : (s.modChip k f).fresh = s.fresh := rfl
@[simp] theorem State.modChip_uid (s : State) (k : Nat) (f : Chip → Chip) : (s.modChip k f).uid = s.uid := rfl
@[simp] theorem State.modChip_mem (s : State) (k : Nat) (f : Chip → Chip) : (s.modChip k f).mem = s.mem := rfl
@[simp] theorem State.modChip_memPoison (s : State) (k : Nat) (f : Chip → Chip) : (s.modChip k f).memPoison = s.memPoison := rfl
@[simp] theorem State.modChip_ctxs (s : State) (k : Nat) (f : Chip → Chip) : (s.modChip k f).ctxs = s.ctxs := rfl
@[simp] theorem State.modChip_queues (s : State) (k : Nat) (f : Chip → Chip) : (s.modChip k f).queues = s.queues := rfl
@[simp] theorem State.modChip_kernels (s : State) (k : Nat) (f : Chip → Chip) : (s.modChip k f).kernels = s.kernels := rfl
@[simp] theorem State.modChip_teams (s : State) (k : Nat) (f : Chip → Chip) : (s.modChip k f).teams = s.teams := rfl
@[simp] theorem State.modChip_groups (s : State) (k : Nat) (f : Chip → Chip) : (s.modChip k f).groups = s.groups := rfl
@[simp] theorem State.modChip_nextSeq (s : State) (k : Nat) (f : Chip → Chip) : (s.modChip k f).nextSeq = s.nextSeq := rfl
@[simp] theorem State.modChip_lastServed (s : State) (k : Nat) (f : Chip → Chip) : (s.modChip k f).lastServed = s.lastServed := rfl
@[simp] theorem State.modChip_lastTake (s : State) (k : Nat) (f : Chip → Chip) : (s.modChip k f).lastTake = s.lastTake := rfl
@[simp] theorem State.modChip_cursor (s : State) (k : Nat) (f : Chip → Chip) : (s.modChip k f).cursor = s.cursor := rfl
@[simp] theorem State.modChip_cores (s : State) (k : Nat) (f : Chip → Chip) : (s.modChip k f).cores = s.cores := rfl
@[simp] theorem State.modChip_quads (s : State) (k : Nat) (f : Chip → Chip) : (s.modChip k f).quads = s.quads := rfl
@[simp] theorem State.modChip_wtabs (s : State) (k : Nat) (f : Chip → Chip) : (s.modChip k f).wtabs = s.wtabs := rfl
@[simp] theorem State.modChip_curWrites (s : State) (k : Nat) (f : Chip → Chip) : (s.modChip k f).curWrites = s.curWrites := rfl
@[simp] theorem State.modChip_pageReqs (s : State) (k : Nat) (f : Chip → Chip) : (s.modChip k f).pageReqs = s.pageReqs := rfl
@[simp] theorem State.modChip_pmigs (s : State) (k : Nat) (f : Chip → Chip) : (s.modChip k f).pmigs = s.pmigs := rfl
@[simp] theorem State.modChip_migrations (s : State) (k : Nat) (f : Chip → Chip) : (s.modChip k f).migrations = s.migrations := rfl
@[simp] theorem State.modChip_publs (s : State) (k : Nat) (f : Chip → Chip) : (s.modChip k f).publs = s.publs := rfl
@[simp] theorem State.modChip_polders (s : State) (k : Nat) (f : Chip → Chip) : (s.modChip k f).polders = s.polders := rfl
@[simp] theorem State.modChip_resizeWrites (s : State) (k : Nat) (f : Chip → Chip) : (s.modChip k f).resizeWrites = s.resizeWrites := rfl
@[simp] theorem State.modChip_classes (s : State) (k : Nat) (f : Chip → Chip) : (s.modChip k f).classes = s.classes := rfl
@[simp] theorem State.modChip_homes (s : State) (k : Nat) (f : Chip → Chip) : (s.modChip k f).homes = s.homes := rfl
@[simp] theorem State.modChip_banks (s : State) (k : Nat) (f : Chip → Chip) : (s.modChip k f).banks = s.banks := rfl
@[simp] theorem State.modChip_shareFault (s : State) (k : Nat) (f : Chip → Chip) : (s.modChip k f).shareFault = s.shareFault := rfl
@[simp] theorem State.modChip_tide (s : State) (k : Nat) (f : Chip → Chip) : (s.modChip k f).tide = s.tide := rfl
@[simp] theorem State.modChip_grace (s : State) (k : Nat) (f : Chip → Chip) : (s.modChip k f).grace = s.grace := rfl
@[simp] theorem State.modChip_graceQueued (s : State) (k : Nat) (f : Chip → Chip) : (s.modChip k f).graceQueued = s.graceQueued := rfl
@[simp] theorem State.modChip_graceStarts (s : State) (k : Nat) (f : Chip → Chip) : (s.modChip k f).graceStarts = s.graceStarts := rfl
@[simp] theorem State.modChip_quiescent (s : State) (k : Nat) (f : Chip → Chip) : (s.modChip k f).quiescent = s.quiescent := rfl
@[simp] theorem State.modChip_spillways (s : State) (k : Nat) (f : Chip → Chip) : (s.modChip k f).spillways = s.spillways := rfl
@[simp] theorem State.modChip_links (s : State) (k : Nat) (f : Chip → Chip) : (s.modChip k f).links = s.links := rfl
@[simp] theorem State.modChip_pairs (s : State) (k : Nat) (f : Chip → Chip) : (s.modChip k f).pairs = s.pairs := rfl
@[simp] theorem State.modChip_laneMaps (s : State) (k : Nat) (f : Chip → Chip) : (s.modChip k f).laneMaps = s.laneMaps := rfl
@[simp] theorem State.modChip_failedSources (s : State) (k : Nat) (f : Chip → Chip) : (s.modChip k f).failedSources = s.failedSources := rfl
@[simp] theorem State.modChip_relocking (s : State) (k : Nat) (f : Chip → Chip) : (s.modChip k f).relocking = s.relocking := rfl
@[simp] theorem State.modChip_steered (s : State) (k : Nat) (f : Chip → Chip) : (s.modChip k f).steered = s.steered := rfl
@[simp] theorem State.modChip_relayed (s : State) (k : Nat) (f : Chip → Chip) : (s.modChip k f).relayed = s.relayed := rfl
@[simp] theorem State.modChip_ports (s : State) (k : Nat) (f : Chip → Chip) : (s.modChip k f).ports = s.ports := rfl
@[simp] theorem State.modChip_portReplays (s : State) (k : Nat) (f : Chip → Chip) : (s.modChip k f).portReplays = s.portReplays := rfl
@[simp] theorem State.modChip_portMasks (s : State) (k : Nat) (f : Chip → Chip) : (s.modChip k f).portMasks = s.portMasks := rfl
@[simp] theorem State.modChip_exports_ (s : State) (k : Nat) (f : Chip → Chip) : (s.modChip k f).exports_ = s.exports_ := rfl
@[simp] theorem State.modChip_peerReqs (s : State) (k : Nat) (f : Chip → Chip) : (s.modChip k f).peerReqs = s.peerReqs := rfl
@[simp] theorem State.modChip_inbound (s : State) (k : Nat) (f : Chip → Chip) : (s.modChip k f).inbound = s.inbound := rfl
@[simp] theorem State.modChip_sent (s : State) (k : Nat) (f : Chip → Chip) : (s.modChip k f).sent = s.sent := rfl
@[simp] theorem State.modChip_pubs (s : State) (k : Nat) (f : Chip → Chip) : (s.modChip k f).pubs = s.pubs := rfl
@[simp] theorem State.modChip_colls (s : State) (k : Nat) (f : Chip → Chip) : (s.modChip k f).colls = s.colls := rfl
@[simp] theorem State.modChip_fenceMap (s : State) (k : Nat) (f : Chip → Chip) : (s.modChip k f).fenceMap = s.fenceMap := rfl
@[simp] theorem State.modChip_absentChips (s : State) (k : Nat) (f : Chip → Chip) : (s.modChip k f).absentChips = s.absentChips := rfl
@[simp] theorem State.modChip_plim (s : State) (k : Nat) (f : Chip → Chip) : (s.modChip k f).plim = s.plim := rfl
@[simp] theorem State.modChip_ilim (s : State) (k : Nat) (f : Chip → Chip) : (s.modChip k f).ilim = s.ilim := rfl
@[simp] theorem State.modChip_wdlim (s : State) (k : Nat) (f : Chip → Chip) : (s.modChip k f).wdlim = s.wdlim := rfl
@[simp] theorem State.modChip_reports (s : State) (k : Nat) (f : Chip → Chip) : (s.modChip k f).reports = s.reports := rfl
@[simp] theorem State.modChip_mailbox (s : State) (k : Nat) (f : Chip → Chip) : (s.modChip k f).mailbox = s.mailbox := rfl
@[simp] theorem State.modChip_ideKeys (s : State) (k : Nat) (f : Chip → Chip) : (s.modChip k f).ideKeys = s.ideKeys := rfl
@[simp] theorem State.modChip_hostLines (s : State) (k : Nat) (f : Chip → Chip) : (s.modChip k f).hostLines = s.hostLines := rfl
@[simp] theorem State.modChip_snoops (s : State) (k : Nat) (f : Chip → Chip) : (s.modChip k f).snoops = s.snoops := rfl
@[simp] theorem State.modChip_images (s : State) (k : Nat) (f : Chip → Chip) : (s.modChip k f).images = s.images := rfl
@[simp] theorem State.modChip_flash (s : State) (k : Nat) (f : Chip → Chip) : (s.modChip k f).flash = s.flash := rfl
@[simp] theorem State.modChip_config (s : State) (k : Nat) (f : Chip → Chip) : (s.modChip k f).config = s.config := rfl
@[simp] theorem State.modChip_xmssNext (s : State) (k : Nat) (f : Chip → Chip) : (s.modChip k f).xmssNext = s.xmssNext := rfl
@[simp] theorem State.modChip_safeTier (s : State) (k : Nat) (f : Chip → Chip) : (s.modChip k f).safeTier = s.safeTier := rfl
@[simp] theorem State.modChip_inReset (s : State) (k : Nat) (f : Chip → Chip) : (s.modChip k f).inReset = s.inReset := rfl

/-! ### report -/

theorem State.report_reports (s : State) (r : Report) : (s.report r).reports = s.reports ++ [r] := rfl

@[simp] theorem State.report_time (s : State) (r : Report) : (s.report r).time = s.time := rfl
@[simp] theorem State.report_cycles (s : State) (r : Report) : (s.report r).cycles = s.cycles := rfl
@[simp] theorem State.report_agenda (s : State) (r : Report) : (s.report r).agenda = s.agenda := rfl
@[simp] theorem State.report_probeQ (s : State) (r : Report) : (s.report r).probeQ = s.probeQ := rfl
@[simp] theorem State.report_picking (s : State) (r : Report) : (s.report r).picking = s.picking := rfl
@[simp] theorem State.report_probed (s : State) (r : Report) : (s.report r).probed = s.probed := rfl
@[simp] theorem State.report_probing (s : State) (r : Report) : (s.report r).probing = s.probing := rfl
@[simp] theorem State.report_issueQ (s : State) (r : Report) : (s.report r).issueQ = s.issueQ := rfl
@[simp] theorem State.report_cur (s : State) (r : Report) : (s.report r).cur = s.cur := rfl
@[simp] theorem State.report_again (s : State) (r : Report) : (s.report r).again = s.again := rfl
@[simp] theorem State.report_fresh (s : State) (r : Report) : (s.report r).fresh = s.fresh := rfl
@[simp] theorem State.report_uid (s : State) (r : Report) : (s.report r).uid = s.uid := rfl
@[simp] theorem State.report_mem (s : State) (r : Report) : (s.report r).mem = s.mem := rfl
@[simp] theorem State.report_memPoison (s : State) (r : Report) : (s.report r).memPoison = s.memPoison := rfl
@[simp] theorem State.report_ctxs (s : State) (r : Report) : (s.report r).ctxs = s.ctxs := rfl
@[simp] theorem State.report_queues (s : State) (r : Report) : (s.report r).queues = s.queues := rfl
@[simp] theorem State.report_kernels (s : State) (r : Report) : (s.report r).kernels = s.kernels := rfl
@[simp] theorem State.report_teams (s : State) (r : Report) : (s.report r).teams = s.teams := rfl
@[simp] theorem State.report_groups (s : State) (r : Report) : (s.report r).groups = s.groups := rfl
@[simp] theorem State.report_nextSeq (s : State) (r : Report) : (s.report r).nextSeq = s.nextSeq := rfl
@[simp] theorem State.report_lastServed (s : State) (r : Report) : (s.report r).lastServed = s.lastServed := rfl
@[simp] theorem State.report_lastTake (s : State) (r : Report) : (s.report r).lastTake = s.lastTake := rfl
@[simp] theorem State.report_cursor (s : State) (r : Report) : (s.report r).cursor = s.cursor := rfl
@[simp] theorem State.report_cores (s : State) (r : Report) : (s.report r).cores = s.cores := rfl
@[simp] theorem State.report_quads (s : State) (r : Report) : (s.report r).quads = s.quads := rfl
@[simp] theorem State.report_chips (s : State) (r : Report) : (s.report r).chips = s.chips := rfl
@[simp] theorem State.report_wtabs (s : State) (r : Report) : (s.report r).wtabs = s.wtabs := rfl
@[simp] theorem State.report_curWrites (s : State) (r : Report) : (s.report r).curWrites = s.curWrites := rfl
@[simp] theorem State.report_pageReqs (s : State) (r : Report) : (s.report r).pageReqs = s.pageReqs := rfl
@[simp] theorem State.report_pmigs (s : State) (r : Report) : (s.report r).pmigs = s.pmigs := rfl
@[simp] theorem State.report_migrations (s : State) (r : Report) : (s.report r).migrations = s.migrations := rfl
@[simp] theorem State.report_publs (s : State) (r : Report) : (s.report r).publs = s.publs := rfl
@[simp] theorem State.report_polders (s : State) (r : Report) : (s.report r).polders = s.polders := rfl
@[simp] theorem State.report_resizeWrites (s : State) (r : Report) : (s.report r).resizeWrites = s.resizeWrites := rfl
@[simp] theorem State.report_classes (s : State) (r : Report) : (s.report r).classes = s.classes := rfl
@[simp] theorem State.report_homes (s : State) (r : Report) : (s.report r).homes = s.homes := rfl
@[simp] theorem State.report_banks (s : State) (r : Report) : (s.report r).banks = s.banks := rfl
@[simp] theorem State.report_shareFault (s : State) (r : Report) : (s.report r).shareFault = s.shareFault := rfl
@[simp] theorem State.report_tide (s : State) (r : Report) : (s.report r).tide = s.tide := rfl
@[simp] theorem State.report_grace (s : State) (r : Report) : (s.report r).grace = s.grace := rfl
@[simp] theorem State.report_graceQueued (s : State) (r : Report) : (s.report r).graceQueued = s.graceQueued := rfl
@[simp] theorem State.report_graceStarts (s : State) (r : Report) : (s.report r).graceStarts = s.graceStarts := rfl
@[simp] theorem State.report_quiescent (s : State) (r : Report) : (s.report r).quiescent = s.quiescent := rfl
@[simp] theorem State.report_spillways (s : State) (r : Report) : (s.report r).spillways = s.spillways := rfl
@[simp] theorem State.report_links (s : State) (r : Report) : (s.report r).links = s.links := rfl
@[simp] theorem State.report_pairs (s : State) (r : Report) : (s.report r).pairs = s.pairs := rfl
@[simp] theorem State.report_laneMaps (s : State) (r : Report) : (s.report r).laneMaps = s.laneMaps := rfl
@[simp] theorem State.report_failedSources (s : State) (r : Report) : (s.report r).failedSources = s.failedSources := rfl
@[simp] theorem State.report_relocking (s : State) (r : Report) : (s.report r).relocking = s.relocking := rfl
@[simp] theorem State.report_steered (s : State) (r : Report) : (s.report r).steered = s.steered := rfl
@[simp] theorem State.report_relayed (s : State) (r : Report) : (s.report r).relayed = s.relayed := rfl
@[simp] theorem State.report_ports (s : State) (r : Report) : (s.report r).ports = s.ports := rfl
@[simp] theorem State.report_portReplays (s : State) (r : Report) : (s.report r).portReplays = s.portReplays := rfl
@[simp] theorem State.report_portMasks (s : State) (r : Report) : (s.report r).portMasks = s.portMasks := rfl
@[simp] theorem State.report_exports_ (s : State) (r : Report) : (s.report r).exports_ = s.exports_ := rfl
@[simp] theorem State.report_peerReqs (s : State) (r : Report) : (s.report r).peerReqs = s.peerReqs := rfl
@[simp] theorem State.report_inbound (s : State) (r : Report) : (s.report r).inbound = s.inbound := rfl
@[simp] theorem State.report_sent (s : State) (r : Report) : (s.report r).sent = s.sent := rfl
@[simp] theorem State.report_pubs (s : State) (r : Report) : (s.report r).pubs = s.pubs := rfl
@[simp] theorem State.report_colls (s : State) (r : Report) : (s.report r).colls = s.colls := rfl
@[simp] theorem State.report_fenceMap (s : State) (r : Report) : (s.report r).fenceMap = s.fenceMap := rfl
@[simp] theorem State.report_absentChips (s : State) (r : Report) : (s.report r).absentChips = s.absentChips := rfl
@[simp] theorem State.report_plim (s : State) (r : Report) : (s.report r).plim = s.plim := rfl
@[simp] theorem State.report_ilim (s : State) (r : Report) : (s.report r).ilim = s.ilim := rfl
@[simp] theorem State.report_wdlim (s : State) (r : Report) : (s.report r).wdlim = s.wdlim := rfl
@[simp] theorem State.report_mailbox (s : State) (r : Report) : (s.report r).mailbox = s.mailbox := rfl
@[simp] theorem State.report_ideKeys (s : State) (r : Report) : (s.report r).ideKeys = s.ideKeys := rfl
@[simp] theorem State.report_hostLines (s : State) (r : Report) : (s.report r).hostLines = s.hostLines := rfl
@[simp] theorem State.report_snoops (s : State) (r : Report) : (s.report r).snoops = s.snoops := rfl
@[simp] theorem State.report_images (s : State) (r : Report) : (s.report r).images = s.images := rfl
@[simp] theorem State.report_flash (s : State) (r : Report) : (s.report r).flash = s.flash := rfl
@[simp] theorem State.report_config (s : State) (r : Report) : (s.report r).config = s.config := rfl
@[simp] theorem State.report_xmssNext (s : State) (r : Report) : (s.report r).xmssNext = s.xmssNext := rfl
@[simp] theorem State.report_safeTier (s : State) (r : Report) : (s.report r).safeTier = s.safeTier := rfl
@[simp] theorem State.report_inReset (s : State) (r : Report) : (s.report r).inReset = s.inReset := rfl

/-! ### answer -/

theorem State.answer_mailbox (s : State) (x : Status) (o : List Byte) : (s.answer x o).mailbox = { s.mailbox with code := .success, status := x.code, output := Memory.ofNat 4 x.code ++ o } := rfl

@[simp] theorem State.answer_time (s : State) (x : Status) (o : List Byte) : (s.answer x o).time = s.time := rfl
@[simp] theorem State.answer_cycles (s : State) (x : Status) (o : List Byte) : (s.answer x o).cycles = s.cycles := rfl
@[simp] theorem State.answer_agenda (s : State) (x : Status) (o : List Byte) : (s.answer x o).agenda = s.agenda := rfl
@[simp] theorem State.answer_probeQ (s : State) (x : Status) (o : List Byte) : (s.answer x o).probeQ = s.probeQ := rfl
@[simp] theorem State.answer_picking (s : State) (x : Status) (o : List Byte) : (s.answer x o).picking = s.picking := rfl
@[simp] theorem State.answer_probed (s : State) (x : Status) (o : List Byte) : (s.answer x o).probed = s.probed := rfl
@[simp] theorem State.answer_probing (s : State) (x : Status) (o : List Byte) : (s.answer x o).probing = s.probing := rfl
@[simp] theorem State.answer_issueQ (s : State) (x : Status) (o : List Byte) : (s.answer x o).issueQ = s.issueQ := rfl
@[simp] theorem State.answer_cur (s : State) (x : Status) (o : List Byte) : (s.answer x o).cur = s.cur := rfl
@[simp] theorem State.answer_again (s : State) (x : Status) (o : List Byte) : (s.answer x o).again = s.again := rfl
@[simp] theorem State.answer_fresh (s : State) (x : Status) (o : List Byte) : (s.answer x o).fresh = s.fresh := rfl
@[simp] theorem State.answer_uid (s : State) (x : Status) (o : List Byte) : (s.answer x o).uid = s.uid := rfl
@[simp] theorem State.answer_mem (s : State) (x : Status) (o : List Byte) : (s.answer x o).mem = s.mem := rfl
@[simp] theorem State.answer_memPoison (s : State) (x : Status) (o : List Byte) : (s.answer x o).memPoison = s.memPoison := rfl
@[simp] theorem State.answer_ctxs (s : State) (x : Status) (o : List Byte) : (s.answer x o).ctxs = s.ctxs := rfl
@[simp] theorem State.answer_queues (s : State) (x : Status) (o : List Byte) : (s.answer x o).queues = s.queues := rfl
@[simp] theorem State.answer_kernels (s : State) (x : Status) (o : List Byte) : (s.answer x o).kernels = s.kernels := rfl
@[simp] theorem State.answer_teams (s : State) (x : Status) (o : List Byte) : (s.answer x o).teams = s.teams := rfl
@[simp] theorem State.answer_groups (s : State) (x : Status) (o : List Byte) : (s.answer x o).groups = s.groups := rfl
@[simp] theorem State.answer_nextSeq (s : State) (x : Status) (o : List Byte) : (s.answer x o).nextSeq = s.nextSeq := rfl
@[simp] theorem State.answer_lastServed (s : State) (x : Status) (o : List Byte) : (s.answer x o).lastServed = s.lastServed := rfl
@[simp] theorem State.answer_lastTake (s : State) (x : Status) (o : List Byte) : (s.answer x o).lastTake = s.lastTake := rfl
@[simp] theorem State.answer_cursor (s : State) (x : Status) (o : List Byte) : (s.answer x o).cursor = s.cursor := rfl
@[simp] theorem State.answer_cores (s : State) (x : Status) (o : List Byte) : (s.answer x o).cores = s.cores := rfl
@[simp] theorem State.answer_quads (s : State) (x : Status) (o : List Byte) : (s.answer x o).quads = s.quads := rfl
@[simp] theorem State.answer_chips (s : State) (x : Status) (o : List Byte) : (s.answer x o).chips = s.chips := rfl
@[simp] theorem State.answer_wtabs (s : State) (x : Status) (o : List Byte) : (s.answer x o).wtabs = s.wtabs := rfl
@[simp] theorem State.answer_curWrites (s : State) (x : Status) (o : List Byte) : (s.answer x o).curWrites = s.curWrites := rfl
@[simp] theorem State.answer_pageReqs (s : State) (x : Status) (o : List Byte) : (s.answer x o).pageReqs = s.pageReqs := rfl
@[simp] theorem State.answer_pmigs (s : State) (x : Status) (o : List Byte) : (s.answer x o).pmigs = s.pmigs := rfl
@[simp] theorem State.answer_migrations (s : State) (x : Status) (o : List Byte) : (s.answer x o).migrations = s.migrations := rfl
@[simp] theorem State.answer_publs (s : State) (x : Status) (o : List Byte) : (s.answer x o).publs = s.publs := rfl
@[simp] theorem State.answer_polders (s : State) (x : Status) (o : List Byte) : (s.answer x o).polders = s.polders := rfl
@[simp] theorem State.answer_resizeWrites (s : State) (x : Status) (o : List Byte) : (s.answer x o).resizeWrites = s.resizeWrites := rfl
@[simp] theorem State.answer_classes (s : State) (x : Status) (o : List Byte) : (s.answer x o).classes = s.classes := rfl
@[simp] theorem State.answer_homes (s : State) (x : Status) (o : List Byte) : (s.answer x o).homes = s.homes := rfl
@[simp] theorem State.answer_banks (s : State) (x : Status) (o : List Byte) : (s.answer x o).banks = s.banks := rfl
@[simp] theorem State.answer_shareFault (s : State) (x : Status) (o : List Byte) : (s.answer x o).shareFault = s.shareFault := rfl
@[simp] theorem State.answer_tide (s : State) (x : Status) (o : List Byte) : (s.answer x o).tide = s.tide := rfl
@[simp] theorem State.answer_grace (s : State) (x : Status) (o : List Byte) : (s.answer x o).grace = s.grace := rfl
@[simp] theorem State.answer_graceQueued (s : State) (x : Status) (o : List Byte) : (s.answer x o).graceQueued = s.graceQueued := rfl
@[simp] theorem State.answer_graceStarts (s : State) (x : Status) (o : List Byte) : (s.answer x o).graceStarts = s.graceStarts := rfl
@[simp] theorem State.answer_quiescent (s : State) (x : Status) (o : List Byte) : (s.answer x o).quiescent = s.quiescent := rfl
@[simp] theorem State.answer_spillways (s : State) (x : Status) (o : List Byte) : (s.answer x o).spillways = s.spillways := rfl
@[simp] theorem State.answer_links (s : State) (x : Status) (o : List Byte) : (s.answer x o).links = s.links := rfl
@[simp] theorem State.answer_pairs (s : State) (x : Status) (o : List Byte) : (s.answer x o).pairs = s.pairs := rfl
@[simp] theorem State.answer_laneMaps (s : State) (x : Status) (o : List Byte) : (s.answer x o).laneMaps = s.laneMaps := rfl
@[simp] theorem State.answer_failedSources (s : State) (x : Status) (o : List Byte) : (s.answer x o).failedSources = s.failedSources := rfl
@[simp] theorem State.answer_relocking (s : State) (x : Status) (o : List Byte) : (s.answer x o).relocking = s.relocking := rfl
@[simp] theorem State.answer_steered (s : State) (x : Status) (o : List Byte) : (s.answer x o).steered = s.steered := rfl
@[simp] theorem State.answer_relayed (s : State) (x : Status) (o : List Byte) : (s.answer x o).relayed = s.relayed := rfl
@[simp] theorem State.answer_ports (s : State) (x : Status) (o : List Byte) : (s.answer x o).ports = s.ports := rfl
@[simp] theorem State.answer_portReplays (s : State) (x : Status) (o : List Byte) : (s.answer x o).portReplays = s.portReplays := rfl
@[simp] theorem State.answer_portMasks (s : State) (x : Status) (o : List Byte) : (s.answer x o).portMasks = s.portMasks := rfl
@[simp] theorem State.answer_exports_ (s : State) (x : Status) (o : List Byte) : (s.answer x o).exports_ = s.exports_ := rfl
@[simp] theorem State.answer_peerReqs (s : State) (x : Status) (o : List Byte) : (s.answer x o).peerReqs = s.peerReqs := rfl
@[simp] theorem State.answer_inbound (s : State) (x : Status) (o : List Byte) : (s.answer x o).inbound = s.inbound := rfl
@[simp] theorem State.answer_sent (s : State) (x : Status) (o : List Byte) : (s.answer x o).sent = s.sent := rfl
@[simp] theorem State.answer_pubs (s : State) (x : Status) (o : List Byte) : (s.answer x o).pubs = s.pubs := rfl
@[simp] theorem State.answer_colls (s : State) (x : Status) (o : List Byte) : (s.answer x o).colls = s.colls := rfl
@[simp] theorem State.answer_fenceMap (s : State) (x : Status) (o : List Byte) : (s.answer x o).fenceMap = s.fenceMap := rfl
@[simp] theorem State.answer_absentChips (s : State) (x : Status) (o : List Byte) : (s.answer x o).absentChips = s.absentChips := rfl
@[simp] theorem State.answer_plim (s : State) (x : Status) (o : List Byte) : (s.answer x o).plim = s.plim := rfl
@[simp] theorem State.answer_ilim (s : State) (x : Status) (o : List Byte) : (s.answer x o).ilim = s.ilim := rfl
@[simp] theorem State.answer_wdlim (s : State) (x : Status) (o : List Byte) : (s.answer x o).wdlim = s.wdlim := rfl
@[simp] theorem State.answer_reports (s : State) (x : Status) (o : List Byte) : (s.answer x o).reports = s.reports := rfl
@[simp] theorem State.answer_ideKeys (s : State) (x : Status) (o : List Byte) : (s.answer x o).ideKeys = s.ideKeys := rfl
@[simp] theorem State.answer_hostLines (s : State) (x : Status) (o : List Byte) : (s.answer x o).hostLines = s.hostLines := rfl
@[simp] theorem State.answer_snoops (s : State) (x : Status) (o : List Byte) : (s.answer x o).snoops = s.snoops := rfl
@[simp] theorem State.answer_images (s : State) (x : Status) (o : List Byte) : (s.answer x o).images = s.images := rfl
@[simp] theorem State.answer_flash (s : State) (x : Status) (o : List Byte) : (s.answer x o).flash = s.flash := rfl
@[simp] theorem State.answer_config (s : State) (x : Status) (o : List Byte) : (s.answer x o).config = s.config := rfl
@[simp] theorem State.answer_xmssNext (s : State) (x : Status) (o : List Byte) : (s.answer x o).xmssNext = s.xmssNext := rfl
@[simp] theorem State.answer_safeTier (s : State) (x : Status) (o : List Byte) : (s.answer x o).safeTier = s.safeTier := rfl
@[simp] theorem State.answer_inReset (s : State) (x : Status) (o : List Byte) : (s.answer x o).inReset = s.inReset := rfl

end Sys2Proof.Machine
end

