-- ==== Sys2Proof/Laws/Regs.lean ====
section
/-! SUPPORT. What the shared register operations leave: naming, reuse, retiring, and the checks before an instruction. -/

namespace Sys2Proof.Machine

/-- A group with its register names replaced. -/
def Group.withNames (g : Group) (ns : Vector Nat 64) : Group := { g with names := ns }

/-- Only the group of a key and one quadrant may differ. -/
structure GroupTouch (s t : State) (gid q : Nat) : Prop where
  others : ∀ k, k ≠ gid → t.groups.look k = s.groups.look k
  quads : ∀ x, x ≠ q → t.quad x = s.quad x
  cores : t.cores = s.cores
  rest : t = s.putRegs t

theorem GroupTouch.refl (s : State) (gid q : Nat) : GroupTouch s s gid q := ⟨fun _ _ => rfl, fun _ _ => rfl, rfl, rfl⟩

theorem GroupTouch.trans {s t u : State} {gid q : Nat} (h : GroupTouch s t gid q) (h' : GroupTouch t u gid q) : GroupTouch s u gid q :=
  ⟨fun k hk => (h'.others k hk).trans (h.others k hk), fun x hx => (h'.quads x hx).trans (h.quads x hx),
    h'.cores.trans h.cores, by
    have a := h.rest; have b := h'.rest
    rw [b, a]; rfl⟩

theorem GroupTouch.modGroup (s : State) (gid q : Nat) (f : Group → Group) : GroupTouch s (s.modGroup gid f) gid q :=
  ⟨fun _ hk => Map.look_upd_ne _ _ hk, fun _ _ => rfl, rfl, rfl⟩

theorem GroupTouch.modQuad (s : State) (gid q : Nat) (f : Quad → Quad) : GroupTouch s (s.modQuad q f) gid q :=
  ⟨fun _ _ => rfl, fun _ hx => Map.lookD_put_ne _ _ _ hx, rfl, rfl⟩

theorem State.modGroup_look {s : State} {gid : Nat} {g : Group} (h : s.groups.look gid = some g) (f : Group → Group) :
    (s.modGroup gid f).groups.look gid = some (f g) := by
  simp [State.modGroup, Map.look_upd_same, h]

theorem State.modTag_look {s : State} {gid : Nat} {g : Group} (h : s.groups.look gid = some g) (tag : Nat) (f : Split → Split) :
    (s.modTag gid tag f).groups.look gid = some (g.modTag tag f) := State.modGroup_look h _

theorem State.killReuse_touch (s : State) (gid q : Nat) (p : ReuseEntry → Bool) :
    GroupTouch s (s.killReuse q p) gid q ∧ (s.killReuse q p).groups = s.groups := by
  unfold State.killReuse
  split
  · exact ⟨.modQuad .., rfl⟩
  · exact ⟨.refl .., rfl⟩

theorem State.releaseName_touch (s : State) (gid q name : Nat) :
    GroupTouch s (s.releaseName q name) gid q ∧ (s.releaseName q name).groups = s.groups := by
  unfold State.releaseName
  split
  · exact ⟨(State.killReuse_touch ..).1.trans (.modQuad ..), (State.killReuse_touch s gid q _).2⟩
  · exact ⟨.refl .., rfl⟩

theorem State.rename_touch (s : State) (q gid r name : Nat) : GroupTouch s (s.rename q gid r name) gid q := by
  unfold State.rename
  split
  · exact .refl ..
  · dsimp only; split
    · exact .refl ..
    · exact (GroupTouch.modGroup ..).trans (State.releaseName_touch ..).1

/-- Naming a register changes nothing of a group but its names. -/
theorem State.rename_look {s : State} {gid : Nat} {g : Group} (h : s.groups.look gid = some g) (q r name : Nat) :
    ∃ ns, (s.rename q gid r name).groups.look gid = some (g.withNames ns) := by
  unfold State.rename
  simp only [h]
  split
  · exact ⟨g.names, h⟩
  · exact ⟨_, by rw [(State.releaseName_touch _ gid _ _).2]; exact State.modGroup_look h _⟩

theorem State.nameReg_touch (s : State) (q gid r : Nat) : GroupTouch s (s.nameReg q gid r) gid q := by
  unfold State.nameReg
  split
  · exact .refl ..
  · exact (GroupTouch.modQuad ..).trans (State.rename_touch ..)

theorem State.nameReg_look {s : State} {gid : Nat} {g : Group} (h : s.groups.look gid = some g) (q r : Nat) :
    ∃ ns, (s.nameReg q gid r).groups.look gid = some (g.withNames ns) := by
  unfold State.nameReg
  simp only [h]
  exact State.rename_look (by rw [State.modQuad_groups]; exact h) ..

/-- Naming a run of registers touches only the group's names and the quadrant. -/
theorem State.nameRegs_spec {s : State} {gid : Nat} {g : Group} (h : s.groups.look gid = some g) (q d n : Nat) :
    GroupTouch s (s.nameRegs q gid d n) gid q ∧ ∃ ns, (s.nameRegs q gid d n).groups.look gid = some (g.withNames ns) := by
  unfold State.nameRegs
  generalize List.range n = l
  induction l generalizing s g with
  | nil => exact ⟨.refl .., g.names, h⟩
  | cons k l ih =>
    obtain ⟨ns, hn⟩ := State.nameReg_look h q (d + k)
    obtain ⟨ht, ns', hn'⟩ := ih hn
    exact ⟨(State.nameReg_touch ..).trans ht, ns', hn'⟩

/-- Retiring: the issuing split moves on, its core is charged, nothing else changes. -/
theorem State.retire_groups {s : State} {cx : Cx} {g : Group} (h : s.groups.look cx.gid = some g) (n : Nat) :
    (s.retire cx n).groups.look cx.gid = some (g.modTag cx.sp.tag Split.retire) := State.modTag_look h _ _

/-- The facts of the issuing split. -/
theorem State.cxOf_spec {s : State} {gid k : Nat} {cx : Cx} (h : s.cxOf gid k = some cx) :
    s.groups.look cx.gid = some cx.grp ∧ cx.grp.res.look cx.k = some cx.sp ∧ s.teams.look cx.uid = some cx.team
      ∧ s.kernels.look cx.team.kernel = some cx.kern ∧ s.ctxs.look cx.kern.asid = some cx.ctx := by
  unfold State.cxOf at h
  split at h
  · cases h
  · split at h
    · split at h
      · cases h
      · split at h
        · cases h
        · cases h; exact ⟨‹_›, ‹_›, ‹_›, ‹_›, ‹_›⟩
    · cases h

theorem State.issuer_chosen {s : State} {cx : Cx} (h : s.issuer = some cx) : s.probing = false ∧ s.chosen = some cx := by
  unfold State.issuer at h
  split at h
  · cases h
  · exact ⟨by simp_all, h⟩

theorem State.issuer_cxOf {s : State} {cx : Cx} (h : s.issuer = some cx) : ∃ gid k, s.cur = some (gid, k) ∧ s.cxOf gid k = some cx := by
  have h := (State.issuer_chosen h).2
  unfold State.chosen at h
  split at h
  · cases h
  · split at h
    · split at h
      · cases h; exact ⟨_, _, ‹_›, ‹_›⟩
      · cases h
    · cases h

theorem State.issuer_spec {s : State} {cx : Cx} (h : s.issuer = some cx) :
    s.groups.look cx.gid = some cx.grp ∧ cx.grp.res.look cx.k = some cx.sp ∧ s.teams.look cx.uid = some cx.team
      ∧ s.kernels.look cx.team.kernel = some cx.kern ∧ s.ctxs.look cx.kern.asid = some cx.ctx :=
  have ⟨_, _, _, h'⟩ := State.issuer_cxOf h
  State.cxOf_spec h'

/-- An instruction stalls on the overflow region only where none of its registers is free and it has not stalled long enough (R237). -/
theorem State.unlessPlaceStalls_room {s : State} {cx : Cx}
    (h : (s.quad cx.quad).overflowFull = false ∨ 64 ≤ cx.sp.placeWait.getD 0) (r : Result) : s.unlessPlaceStalls cx r = r := by
  unfold State.unlessPlaceStalls State.placeStalls
  rcases h with h | h
  · cases r <;> simp [h]
  · have : ¬ cx.sp.placeWait.getD 0 < 64 := by omega
    cases r <;> simp [this]

/-- An admitted instruction executes its effect. -/
theorem gate_admits {s : State} {cx : Cx} {u : Uses} (h : Admits s cx u) (body : Cx → State → Result) : gate u body s = body cx s := by
  obtain ⟨hp, hc⟩ := State.issuer_chosen h.issuer
  have hm : (u.firmware && !cx.sp.firmware) = false := by
    cases hf : u.firmware
    · rfl
    · simp [h.mode hf]
  simp only [gate, checked, hp, hc, h.free, hm, h.own, h.others, h.clean]
  rcases h.room with hv | hr
  · simp [hv]
  · simp [State.unlessPlaceStalls_room hr]

theorem Map.look_map_tag (m : Map Split) (k tag : Nat) (f : Split → Split) :
    Map.look (m.map fun p => if p.2.tag = tag then (p.1, f p.2) else p) k
      = (m.look k).map fun sp => if sp.tag = tag then f sp else sp := by
  induction m with
  | nil => rfl
  | cons p rest ih =>
    obtain ⟨k', sp⟩ := p
    simp only [List.map_cons]
    by_cases ht : sp.tag = tag <;> by_cases hk : k' = k <;> simp [ht, hk, Map.look_cons, ih]

theorem Group.modTag_look {g : Group} {k : Nat} {sp : Split} (h : g.res.look k = some sp) (f : Split → Split) :
    (g.modTag sp.tag f).res.look k = some (f sp) := by
  simp [Group.modTag, Map.look_map_tag, h]

/-- Moving the split on after a change of registers alone. -/
theorem Issued.of_touch {s t : State} {cx : Cx} {g : Group} (hs : s.issuer = some cx) (ht : GroupTouch s t cx.gid cx.quad)
    (hg : t.groups.look cx.gid = some g)
    (hk : g = cx.grp.putRegs g) (hr : g.res = cx.grp.res) (hst : g.stack = cx.grp.stack) (n : Nat) (f : Split → Split) :
    Issued s ((t.modTag cx.gid cx.sp.tag f).charge cx.core n) cx (g.modTag cx.sp.tag f) n f := by
  have hi := State.issuer_spec hs
  have hrest := ht.rest
  have hcy : t.cycles = s.cycles := (congrArg State.cycles hrest).trans rfl
  have hcore : ∀ c, t.core c = s.core c := fun c => by simp [State.core, ht.cores, hcy]
  have hmod : (g.modTag cx.sp.tag f).res = (cx.grp.modTag cx.sp.tag f).res ∧ (g.modTag cx.sp.tag f).stack = (cx.grp.modTag cx.sp.tag f).stack := by
    simp [Group.modTag, hr, hst]
  refine
    { group := State.modTag_look hg _ _
      next := by
        rw [hmod.1]; exact Group.modTag_look hi.2.1 _
      res := hmod.1
      stack := hmod.2
      kept := (congrArg (fun x => Group.modTag x cx.sp.tag f) hk).trans rfl
      others := fun k hk' => (Map.look_upd_ne _ _ hk').trans (ht.others k hk')
      core := ?_
      cores := fun c hc => ?_
      quads := fun q hq => (ht.quads q hq)
      rest := ?_
      memory := fun a => ?_ }
  · have h1 : ((t.modTag cx.gid cx.sp.tag f).charge cx.core n).core cx.core
        = { t.core cx.core with account := min ((t.core cx.core).account + n) (2 ^ 24 - 1) } := Map.lookD_put_same ..
    rw [h1, hcore]
  · have h1 : ((t.modTag cx.gid cx.sp.tag f).charge cx.core n).core c = t.core c := Map.lookD_put_ne _ _ _ hc
    rw [h1, hcore]
  · exact (congrArg (fun x => (State.modTag x cx.gid cx.sp.tag f).charge cx.core n) hrest).trans (by
      simp [State.charge, State.modCore, State.setCore, State.core, State.putRegs, State.modTag, State.modGroup, hcy])
  · have h1 : ((t.modTag cx.gid cx.sp.tag f).charge cx.core n).physByte a = t.physByte a := rfl
    rw [h1, hrest]; rfl

/-- Retiring after a change of registers alone. -/
theorem RegsOnly.of_retire {s t : State} {cx : Cx} {g : Group} (hs : s.issuer = some cx) (ht : GroupTouch s t cx.gid cx.quad)
    (hg : t.groups.look cx.gid = some g)
    (hk : g = cx.grp.putRegs g) (hr : g.res = cx.grp.res) (hst : g.stack = cx.grp.stack) (n : Nat) :
    RegsOnly s (t.retire cx n) cx (g.modTag cx.sp.tag Split.retire) n := Issued.of_touch hs ht hg hk hr hst n _

/-- Renaming registers after it keeps what an instruction has left. -/
theorem Issued.rename {s t : State} {cx : Cx} {g : Group} {n : Nat} {f : Split → Split} (h : Issued s t cx g n f) (r name : Nat) :
    ∃ ns, Issued s (t.rename cx.quad cx.gid r name) cx (g.withNames ns) n f := by
  obtain ⟨ns, hn⟩ := State.rename_look h.group cx.quad r name
  have ht := State.rename_touch t cx.quad cx.gid r name
  have hcy : (t.rename cx.quad cx.gid r name).cycles = t.cycles := (congrArg State.cycles ht.rest).trans rfl
  have hcore : ∀ c, (t.rename cx.quad cx.gid r name).core c = t.core c := fun c => by simp [State.core, ht.cores, hcy]
  refine ⟨ns,
    { group := hn
      next := h.next
      res := h.res
      stack := h.stack
      kept := (congrArg (fun x => Group.withNames x ns) h.kept).trans rfl
      others := fun k hk => (ht.others k hk).trans (h.others k hk)
      core := (hcore _).trans h.core
      cores := fun c hc => (hcore c).trans (h.cores c hc)
      quads := fun q hq => (ht.quads q hq).trans (h.quads q hq)
      rest := ?_
      memory := fun a => ?_ }⟩
  · have a := ht.rest
    rw [h.rest] at a ⊢
    exact a.trans rfl
  · have a : (t.rename cx.quad cx.gid r name).physByte a = t.physByte a := by rw [ht.rest]; rfl
    exact a.trans (h.memory _)

end Sys2Proof.Machine
end

