-- ==== Sys2Proof/Laws/Vec.lean ====
section
/-! SUPPORT. Reading a register after writing one. -/

namespace Sys2Proof.Machine

theorem rd_wr_same {α : Type} {n : Nat} (xs : Vector α n) {i : Nat} (h : i < n) (a d : α) : Bits.rd (Bits.wr xs i a) i d = a := by
  simp [Bits.rd, Bits.wr, h]

theorem rd_wr_ne {α : Type} {n : Nat} (xs : Vector α n) {i j : Nat} (h : j ≠ i) (a d : α) :
    Bits.rd (Bits.wr xs i a) j d = Bits.rd xs j d := by
  unfold Bits.rd Bits.wr
  split
  · exact Vector.getElem_setIfInBounds_ne _ (Ne.symm h)
  · rfl

theorem rd_wr_beyond {α : Type} {n : Nat} (xs : Vector α n) {i : Nat} (h : n ≤ i) (a : α) : Bits.wr xs i a = xs := by
  unfold Bits.wr
  exact Vector.setIfInBounds_eq_of_size_le h

theorem lane_tab (f : Nat → Word) {l : Nat} (h : l < 32) : Bits.lane (Bits.tab f) l = f l := by
  simp [Bits.lane, Bits.rd, Bits.tab, h]

theorem lane_merge (active : Word) (old new : Lanes) {l : Nat} (h : l < 32) :
    Bits.lane (Bits.merge active old new) l = if active.getLsbD l then Bits.lane new l else Bits.lane old l := by
  simp [Bits.merge, lane_tab _ h]

theorem Group.setV_vreg_same (g : Group) {r : Nat} (h : r < 64) (x : Lanes) : (g.setV r x).vreg r = x := rd_wr_same _ h ..

theorem Group.setV_vreg_ne (g : Group) {r q : Nat} (h : q ≠ r) (x : Lanes) : (g.setV r x).vreg q = g.vreg q := rd_wr_ne _ h ..

theorem Group.setG_greg_same (g : Group) {r : Nat} (h : r < 64) (x : DWord) : (g.setG r x).greg r = x := rd_wr_same _ h ..

theorem Group.setG_greg_ne (g : Group) {r q : Nat} (h : q ≠ r) (x : DWord) : (g.setG r x).greg q = g.greg q := rd_wr_ne _ h ..

theorem Group.setJ_jreg_same (g : Group) {r : Nat} (h : r < 8) (x : Word) : (g.setJ r x).jreg r = x := rd_wr_same _ h ..

theorem Group.setJ_jreg_ne (g : Group) {r q : Nat} (h : q ≠ r) (x : Word) : (g.setJ r x).jreg q = g.jreg q := rd_wr_ne _ h ..

/-- Writing lanes, one register more. -/
theorem Group.writeLanes_succ (g : Group) (active : Word) (d n : Nat) (f : Nat → BitVec 128) :
    ∃ p, g.writeLanes active d (n + 1) f =
      { (g.writeLanes active d n f).setV (d + n)
          (Bits.merge active ((g.writeLanes active d n f).vreg (d + n)) (Bits.tab fun l => (f l).extractLsb' (32 * n) 32)) with
        vPoison := p } := by
  unfold Group.writeLanes
  simp only [List.range_succ, List.foldl_append, List.foldl_cons, List.foldl_nil]
  split
  · exact ⟨_, rfl⟩
  · exact ⟨_, rfl⟩

/-- Registers outside the run keep their value. -/
theorem Group.writeLanes_keeps (g : Group) (active : Word) (d n : Nat) (f : Nat → BitVec 128) (r : Nat) (h : r < d ∨ d + n ≤ r) :
    (g.writeLanes active d n f).vreg r = g.vreg r := by
  induction n with
  | zero => rfl
  | succ n ih =>
    obtain ⟨p, hp⟩ := Group.writeLanes_succ g active d n f
    rw [hp]
    have h1 : r ≠ d + n := by omega
    exact (Group.setV_vreg_ne _ h1 _).trans (ih (by omega))

/-- The run takes the values in the active lanes and keeps the others. -/
theorem Group.writeLanes_vlane (g : Group) (active : Word) {d n : Nat} (f : Nat → BitVec 128) (hd : d + n ≤ 64) {k l : Nat}
    (hk : k < n) (hl : l < 32) :
    (g.writeLanes active d n f).vlane (d + k) l
      = if active.getLsbD l then (f l).extractLsb' (32 * k) 32 else g.vlane (d + k) l := by
  induction n with
  | zero => omega
  | succ n ih =>
    obtain ⟨p, hp⟩ := Group.writeLanes_succ g active d n f
    rw [hp]
    by_cases hkn : k = n
    · subst hkn
      have h1 : Bits.lane (Group.vreg (Group.setV (g.writeLanes active d k f) (d + k)
          (Bits.merge active ((g.writeLanes active d k f).vreg (d + k)) (Bits.tab fun l => (f l).extractLsb' (32 * k) 32))) (d + k)) l
          = if active.getLsbD l then (f l).extractLsb' (32 * k) 32 else g.vlane (d + k) l := by
        rw [Group.setV_vreg_same _ (by omega), lane_merge _ _ _ hl, lane_tab _ hl, Group.writeLanes_keeps _ _ _ _ _ _ (by omega)]
        rfl
      exact h1
    · have h1 : d + k ≠ d + n := by omega
      exact (congrArg (fun x => Bits.lane x l) (Group.setV_vreg_ne _ h1 _)).trans (ih (by omega) (by omega))

/-- Of a group, writing lanes changes vector registers and their poison alone. -/
theorem Group.writeLanes_rest (g : Group) (active : Word) (d n : Nat) (f : Nat → BitVec 128) :
    g.writeLanes active d n f = { g with v := (g.writeLanes active d n f).v, vPoison := (g.writeLanes active d n f).vPoison } := by
  induction n with
  | zero => rfl
  | succ n ih =>
    obtain ⟨p, hp⟩ := Group.writeLanes_succ g active d n f
    rw [hp, ih]
    rfl

/-- Lanes that raise nothing raise nothing together. -/
theorem orFlags_none (active : Word) : (orFlags active fun _ => 0) = 0 := by
  unfold orFlags
  induction Bits.lanes active with
  | nil => rfl
  | cons l ls ih => simpa using ih

end Sys2Proof.Machine
end

