-- ==== Sys2Proof/Laws/Trap.lean ====
section
/-! SUPPORT. What taking a trap does: the record, the stop, the delivery. -/

namespace Sys2Proof.Machine

theorem Map.put_put {α : Type} (m : Map α) (k : Nat) (a b : α) : (Map.put m k a).put k b = m.put k b := by
  induction m with
  | nil => simp [Map.put]
  | cons p rest ih =>
    obtain ⟨k', c⟩ := p
    simp only [Map.put]
    split
    · simp [Map.put]
    · split
      · simp [Map.put]
      · simp only [Map.put, *]; rfl

theorem State.faultCtx_look {s : State} {asid : Nat} {c : Ctx} (h : s.ctxs.look asid = some c) :
    (s.faultCtx asid).ctxs.look asid = some c.fault := by
  unfold State.faultCtx State.modCtx
  simp [Map.look_upd_same, h]

/-- Writing a trap record, then faulting the context, is what R153 and R141 say. -/
theorem State.trapRecord_spec {s : State} {asid : Nat} {c : Ctx} (h : s.ctxs.look asid = some c) (r : Record) :
    Recorded s ((s.trapRecord asid r).faultCtx asid) asid c r
      ∧ ∃ x, WriteOnly { s with ctxs := x } ((s.trapRecord asid r).faultCtx asid) := by
  have hlost : ∀ (t : State), t.ctxs.look asid = some c → ((t.modCtx asid Ctx.lose).faultCtx asid).ctxs.look asid = some c.lose.fault :=
    fun t ht => State.faultCtx_look (by simp [State.modCtx, Map.look_upd_same, ht])
  have hl : (Memory.ofNat 64 r.pack).length = 64 := Memory.length_ofNat ..
  by_cases hf : c.nextTail = c.tqhead.toNat
  · have e : s.trapRecord asid r = s.modCtx asid Ctx.lose := by
      unfold State.trapRecord
      rw [h]
      exact if_pos hf
    rw [e]
    exact ⟨⟨fun _ => ⟨hlost s h, rfl⟩, fun hn => absurd hf hn, fun hn => absurd hf hn⟩, _, .refl _⟩
  · cases hc : s.checkSystem asid c.recordAddr 64 1 .write with
    | cause x =>
      have e : s.trapRecord asid r
          = ((s.walkIf asid c.recordAddr 64 1).modCtx asid Ctx.lose).report (.trapDropped asid (BitVec.ofNat 64 c.recordAddr)) := by
        unfold State.trapRecord
        rw [h]
        refine (if_neg hf).trans ?_
        rw [State.writeAs_cause (by rw [hl]; exact hc), hl]
      rw [e]
      obtain ⟨k, n, q, y, b, a, hw⟩ := State.walkIf_homes s asid c.recordAddr 64 1
      rw [hw]
      refine ⟨⟨fun hn => absurd hn hf, fun _ x hx => ⟨hlost _ h, rfl, rfl⟩, fun _ pa pte bits hp => ?_⟩, ?_⟩
      · rw [hc] at hp; cases hp
      · exact ⟨_, _, _, _, _, _, _, _, _, _, _, _, _, rfl⟩
    | ok pa pte bits =>
      have e : s.trapRecord asid r
          = (((s.walkIf asid c.recordAddr 64 1).agentStore .system pa (Memory.ofNat 64 r.pack)).modCtx asid
              fun c => { c with tqtail := BitVec.ofNat 64 c.nextTail }) := by
        unfold State.trapRecord
        rw [h]
        refine (if_neg hf).trans ?_
        rw [State.writeAs_ok (by rw [hl]; exact hc), hl]
      rw [e]
      have hh := State.walkIf_homes s asid c.recordAddr 64 1
      generalize s.walkIf asid c.recordAddr 64 1 = u at hh ⊢
      have hm : u.mem = s.mem := by obtain ⟨_, _, _, _, _, _, rfl⟩ := hh; rfl
      have hg : u.migrations = s.migrations := by obtain ⟨_, _, _, _, _, _, rfl⟩ := hh; rfl
      have hkind : ∀ a, u.paKind a = s.paKind a := by obtain ⟨_, _, _, _, _, _, rfl⟩ := hh; exact fun _ => rfl
      have hreach : ∀ a, u.reachable .system a = s.reachable .system a := by obtain ⟨_, _, _, _, _, _, rfl⟩ := hh; exact fun _ => rfl
      have hcu : u.ctxs = s.ctxs := by obtain ⟨_, _, _, _, _, _, rfl⟩ := hh; rfl
      have ho := State.agentStore_writeOnly u .system pa (Memory.ofNat 64 r.pack) false
      have hb := fun hwf => State.agentStore_bytes (s := u) hwf .system pa (bs := Memory.ofNat 64 r.pack) false
      generalize u.agentStore .system pa (Memory.ofNat 64 r.pack) = w at ho hb ⊢
      have hcw : w.ctxs = s.ctxs := by
        obtain ⟨_, _, _, _, _, _, _, _, _, _, _, _, rfl⟩ := ho; exact hcu
      refine ⟨⟨fun hn => absurd hn hf, fun _ x hx => ?_, fun _ pa' pte' bits' hp => ?_⟩, ?_⟩
      · rw [hc] at hx; cases hx
      · rw [hc] at hp
        obtain ⟨rfl, rfl, rfl⟩ : pa = pa' ∧ pte = pte' ∧ bits = bits' := by cases hp; exact ⟨rfl, rfl, rfl⟩
        refine ⟨State.faultCtx_look (by simp [State.modCtx, Map.look_upd_same, hcw, h, Ctx.nextTail]), fun hwf => ?_⟩
        obtain ⟨-, b2, b3⟩ := hb (by rw [hm]; exact hwf)
        rw [hl] at b2 b3
        refine ⟨fun hr => ?_, fun a ha => ?_⟩
        · exact b3 (fun k hk => ⟨fun d => by rw [hkind]; exact (hr k hk).1 d, fun hd => by
            rw [hkind] at hd; rw [hreach]; exact (hr k hk).2 hd⟩) (by omega)
        · refine (b2 a fun k hk => ?_).trans (State.physByte_congr hm hg a)
          rw [State.redirect_congr hg, State.redirect_congr hg]; exact ha k hk
      · obtain ⟨_, _, _, _, _, _, _, _, _, _, _, _, rfl⟩ := hh.writeOnly.trans ho
        exact ⟨_, _, _, _, _, _, _, _, _, _, _, _, _, rfl⟩

/-! ### Giving up faulted lanes -/

/-- Only names of one group, sluice entries of one core at the tags that a test names, and quadrants may differ. -/
structure SluiceTouch (s t : State) (core gid : Nat) (touched : Nat → Prop) : Prop where
  others : ∀ k, k ≠ gid → t.groups.look k = s.groups.look k
  group : ∀ g, s.groups.look gid = some g → ∃ ns, t.groups.look gid = some (g.withNames ns)
  own : t.core core = { s.core core with sluice := (t.core core).sluice }
  kept : ∀ tag, ¬ touched tag → (t.core core).sluice.look tag = (s.core core).sluice.look tag
  cores : ∀ c, c ≠ core → t.core c = s.core c
  rest : t = { s with groups := t.groups, cores := t.cores, quads := t.quads }

theorem SluiceTouch.refl (s : State) (core gid : Nat) (p : Nat → Prop) : SluiceTouch s s core gid p :=
  ⟨fun _ _ => rfl, fun g h => ⟨g.names, h⟩, rfl, fun _ _ => rfl, fun _ _ => rfl, rfl⟩

theorem SluiceTouch.trans {s t u : State} {core gid : Nat} {p : Nat → Prop} (h : SluiceTouch s t core gid p)
    (h' : SluiceTouch t u core gid p) : SluiceTouch s u core gid p := by
  refine ⟨fun k hk => (h'.others k hk).trans (h.others k hk), fun g hg => ?_, ?_, fun tag ht => (h'.kept tag ht).trans (h.kept tag ht),
    fun c hc => (h'.cores c hc).trans (h.cores c hc), ?_⟩
  · obtain ⟨ns, hn⟩ := h.group g hg
    obtain ⟨ns', hn'⟩ := h'.group _ hn
    exact ⟨ns', hn'⟩
  · refine h'.own.trans ?_
    rw [h.own]
  · have a := h.rest; have b := h'.rest
    rw [b, a]

theorem SluiceTouch.foldl {α : Type} {core gid : Nat} {p : Nat → Prop} {f : State → α → State} (l : List α)
    (h : ∀ a ∈ l, ∀ s, SluiceTouch s (f s a) core gid p) (s : State) : SluiceTouch s (l.foldl f s) core gid p := by
  induction l generalizing s with
  | nil => exact .refl ..
  | cons a l ih => exact (h a (List.mem_cons_self ..) s).trans (ih (fun x hx => h x (List.mem_cons_of_mem _ hx)) _)

theorem GroupTouch.sluice {s t : State} {core gid q : Nat} {p : Nat → Prop} (h : GroupTouch s t gid q)
    (hg : ∀ g, s.groups.look gid = some g → ∃ ns, t.groups.look gid = some (g.withNames ns)) : SluiceTouch s t core gid p := by
  have hc : ∀ c, t.core c = s.core c := fun c => by
    have : t.cycles = s.cycles := (congrArg State.cycles h.rest).trans rfl
    simp [State.core, h.cores, this]
  exact ⟨h.others, hg, by rw [hc], fun _ _ => by rw [hc], fun c _ => hc c, h.rest⟩

/-- Finishing a landing register changes nothing of a group but its names. -/
theorem State.finishLanding_touch (s : State) (q gid r landing : Nat) : GroupTouch s (s.finishLanding q gid r landing) gid q
    ∧ ∀ g, s.groups.look gid = some g → ∃ ns, (s.finishLanding q gid r landing).groups.look gid = some (g.withNames ns) := by
  unfold State.finishLanding
  split
  · next h => exact ⟨(State.releaseName_touch ..).1, fun g hg => by rw [h] at hg; cases hg⟩
  · next g' h =>
    dsimp only
    split
    · refine ⟨(State.rename_touch ..).trans (State.releaseName_touch ..).1, fun g hg => ?_⟩
      obtain ⟨ns, hn⟩ := State.rename_look hg q r ‹_›
      exact ⟨ns, by rw [(State.releaseName_touch _ gid _ _).2]; exact hn⟩
    · exact ⟨.modQuad .., fun g hg => ⟨g.names, hg⟩⟩

/-- One sluice entry changes. -/
theorem SluiceTouch.entry {s : State} {core gid tag : Nat} {p : Nat → Prop} (ht : p tag) (f : Map SluiceEntry → Map SluiceEntry)
    (hf : ∀ m x, x ≠ tag → (f m).look x = m.look x) :
    SluiceTouch s (s.modCore core fun c => { c with sluice := f c.sluice }) core gid p := by
  have h1 : (s.modCore core fun c => { c with sluice := f c.sluice }).core core = { s.core core with sluice := f (s.core core).sluice } :=
    Map.lookD_put_same ..
  refine ⟨fun _ _ => rfl, fun g h => ⟨g.names, h⟩, by rw [h1], fun x hx => ?_, fun c hc => Map.lookD_put_ne _ _ _ hc, rfl⟩
  rw [h1]
  exact hf _ _ fun e => hx (e ▸ ht)

/-- A split that stops gives up the faulted lanes of its accesses, and nothing else. -/
theorem State.dropFaults_touch (s : State) (q gid tag : Nat) :
    SluiceTouch s (s.dropFaults q gid tag) (q / 4) gid fun x =>
      ∃ e, (x, e) ∈ (s.core (q / 4)).sluice ∧ e.group = gid ∧ e.split = tag ∧ e.fault ≠ 0 := by
  unfold State.dropFaults
  refine SluiceTouch.foldl _ (fun e he t => ?_) s
  obtain ⟨h1, h2⟩ := List.mem_filter.1 he
  simp only [Bool.and_eq_true, beq_iff_eq, bne_iff_ne, ne_eq] at h2
  have hp : ∃ x, (e.1, x) ∈ (s.core (q / 4)).sluice ∧ x.group = gid ∧ x.split = tag ∧ x.fault ≠ 0 := ⟨e.2, h1, h2.1.1, h2.1.2, h2.2⟩
  dsimp only
  split
  · exact SluiceTouch.entry hp (fun m => m.put e.1 e.2.dropFaults) fun m x hx => Map.look_put_ne _ _ hx
  · exact (SluiceTouch.entry hp (fun m => m.del e.1) fun m x hx => Map.look_del_ne _ hx).trans
      (SluiceTouch.foldl _ (fun p _ u => (State.finishLanding_touch ..).1.sluice (State.finishLanding_touch ..).2) _)

theorem State.walkFrom_regs (s : State) (g : Map Group) (c : Map CoreSt) (q : Map Quad) (v table level fuel : Nat) :
    State.walkFrom { s with groups := g, cores := c, quads := q } v table level fuel = s.walkFrom v table level fuel := by
  induction fuel generalizing table level with
  | zero => rfl
  | succ n ih =>
    have h1 : ∀ a, State.physRead { s with groups := g, cores := c, quads := q } a 8 = s.physRead a 8 := fun _ => rfl
    have h2 : ∀ a b, State.leafOk { s with groups := g, cores := c, quads := q } a b = s.leafOk a b := fun _ _ => rfl
    have h3 : ∀ a b, State.tableOk { s with groups := g, cores := c, quads := q } a b = s.tableOk a b := fun _ _ => rfl
    unfold State.walkFrom
    simp only [ih, h1, h2, h3]

/-- Translations outside the cores do not look at groups, cores or quadrants. -/
theorem State.checkSystem_regs (s : State) (g : Map Group) (c : Map CoreSt) (q : Map Quad) (asid v size align : Nat) (k : AccessKind) :
    State.checkSystem { s with groups := g, cores := c, quads := q } asid v size align k = s.checkSystem asid v size align k := by
  have h : ∀ a b d e, State.useLeaf { s with groups := g, cores := c, quads := q } a b d e = s.useLeaf a b d e := fun _ _ _ _ => rfl
  unfold State.checkSystem State.walk
  simp only [State.walkFrom_regs, h]

/-- A split that is stopped (R147). -/
theorem State.stopSplit_spec {s : State} {cx : Cx} (hg : s.groups.look cx.gid = some cx.grp) (hc : s.ctxs.look cx.asid = some cx.ctx)
    (r : Record) : ∃ u, s.stopSplit cx r = u.rejoin cx.asid cx.gid ∧ Stopped s u cx r := by
  have hq : cx.quad / 4 = cx.core := by unfold Cx.quad quadOf Cx.core; omega
  have hd := State.dropFaults_touch (s.modTag cx.gid cx.sp.tag Split.stop) cx.quad cx.gid cx.sp.tag
  rw [hq] at hd
  obtain ⟨ns, hn⟩ := hd.group _ (State.modTag_look hg cx.sp.tag Split.stop)
  refine ⟨_, rfl, ?_⟩
  generalize (s.modTag cx.gid cx.sp.tag Split.stop).dropFaults cx.quad cx.gid cx.sp.tag = u at hd hn ⊢
  have hcu : u.ctxs.look cx.asid = some cx.ctx := by rw [hd.rest]; exact hc
  have hum : u.mem = s.mem := by rw [hd.rest]; rfl
  have hurep : u.reports = s.reports := by rw [hd.rest]; rfl
  have hchk : ∀ a n m k, u.checkSystem cx.asid a n m k = s.checkSystem cx.asid a n m k := by
    intros; rw [hd.rest]; exact State.checkSystem_regs ..
  have hred : ∀ a, u.redirect a = s.redirect a := by rw [hd.rest]; exact fun _ => rfl
  have hbyte : ∀ a, u.physByte a = s.physByte a := by rw [hd.rest]; exact fun _ => rfl
  have hreach : ∀ pa n, s.Reaches .system pa n → u.Reaches .system pa n := by rw [hd.rest]; exact fun _ _ h => h
  obtain ⟨hrec, x, hw⟩ := State.trapRecord_spec hcu r
  generalize (u.trapRecord cx.asid r).faultCtx cx.asid = w at hrec hw ⊢
  have hwg : w.groups = u.groups := by obtain ⟨_, _, _, _, _, _, _, _, _, _, _, _, rfl⟩ := hw; rfl
  have hwc : w.cores = u.cores ∧ w.cycles = u.cycles := by obtain ⟨_, _, _, _, _, _, _, _, _, _, _, _, rfl⟩ := hw; exact ⟨rfl, rfl⟩
  have hcore : ∀ c, (w.haltCheck cx.gid).core c = u.core c := fun c => by
    show w.core c = _; simp [State.core, hwc.1, hwc.2]
  refine ⟨⟨ns, ?_⟩, fun k hk => ?_, ?_, fun tag ht => ?_, fun c hcc => ?_, ?_, ?_⟩
  · have := State.modGroup_look (s := w) (by rw [hwg]; exact hn) Group.halt
    exact this
  · refine (Map.look_upd_ne _ _ hk).trans ?_
    rw [hwg, hd.others k hk]
    exact Map.look_upd_ne _ _ hk
  · rw [hcore]; exact hd.own
  · rw [hcore]
    exact hd.kept tag fun ⟨e, he, h⟩ => ht e he h
  · rw [hcore]; exact hd.cores c hcc
  · refine ⟨fun h => ?_, fun h x hx => ?_, fun h pa pte bits hp => ?_⟩
    · obtain ⟨a, b⟩ := hrec.full h; exact ⟨a, b.trans hum⟩
    · obtain ⟨a, b, c⟩ := hrec.failed h x (by rw [hchk]; exact hx)
      exact ⟨a, b.trans hum, by rw [hurep] at c; exact c⟩
    · obtain ⟨a, b⟩ := hrec.written h pa pte bits (by rw [hchk]; exact hp)
      refine ⟨a, fun hwf => ?_⟩
      obtain ⟨b1, b2⟩ := b (by rw [hum]; exact hwf)
      exact ⟨fun hr => b1 (hreach _ _ hr), fun y hy => (b2 y fun k hk => by rw [hred, hred]; exact hy k hk).trans (hbyte y)⟩
  · obtain ⟨_, _, _, _, _, _, _, _, _, _, _, _, rfl⟩ := hw
    rw [hd.rest]; rfl

theorem toNat_append {n m : Nat} (x : BitVec n) (y : BitVec m) : (x ++ y).toNat = x.toNat * 2 ^ m + y.toNat := by
  rw [BitVec.toNat_append, ← Nat.shiftLeft_add_eq_or_of_lt y.isLt, Nat.shiftLeft_eq]

theorem Bits.lowestFrom_lt {w : Nat} (x : BitVec w) {i n k : Nat} (h : Bits.lowestFrom x i n = some k) : k < i + n := by
  induction n generalizing i with
  | zero => cases h
  | succ n ih =>
    unfold Bits.lowestFrom at h
    split at h
    · cases h; omega
    · have := ih h; omega

theorem Bits.lowest_lt {w : Nat} (x : BitVec w) (hw : 0 < w) : Bits.lowest x < w := by
  unfold Bits.lowest
  cases h : Bits.lowestFrom x 0 w with
  | none => exact hw
  | some k => have := Bits.lowestFrom_lt x h; simp; omega

/-- g63 on delivery has the fields of R148. -/
theorem g63_eq (lanes : Word) (code : BitVec 4) (c : Cause) :
    BitVec.ofNat 64 (lanes.toNat * 2 ^ 32 + code.toNat * 2 ^ 16 + Bits.lowest lanes * 2 ^ 8 + c.code)
      = lanes ++ (0 : BitVec 12) ++ code ++ (0 : BitVec 3) ++ BitVec.ofNat 5 (Bits.lowest lanes) ++ BitVec.ofNat 8 c.code := by
  have h1 := Bits.lowest_lt lanes (by omega)
  have h2 : c.code < 256 := by cases c <;> decide
  have h3 := lanes.isLt
  have h4 := code.isLt
  apply BitVec.eq_of_toNat_eq
  simp only [toNat_append, BitVec.toNat_ofNat]
  rw [Nat.mod_eq_of_lt (a := Bits.lowest lanes) (by omega), Nat.mod_eq_of_lt (a := c.code) (by omega)]
  have e1 : (0 : BitVec 12).toNat = 0 := rfl
  have e2 : (0 : BitVec 3).toNat = 0 := rfl
  rw [e1, e2]
  omega

theorem Group.modTag_look_ne {g : Group} {k tag : Nat} {sp : Split} (h : g.res.look k = some sp) (ht : sp.tag ≠ tag) (f : Split → Split) :
    (g.modTag tag f).res.look k = some sp := by
  simp [Group.modTag, Map.look_map_tag, h, ht]

/-- Writing g61 to g63 and changing a split. -/
def Group.set3 (g : Group) (a b c : DWord) (tag : Nat) (f : Split → Split) : Group := (((g.setG 61 a).setG 62 b).setG 63 c).modTag tag f

theorem Group.set3_spec (g : Group) (a b c : DWord) (tag : Nat) (f : Split → Split) :
    (g.set3 a b c tag f).greg 61 = a ∧ (g.set3 a b c tag f).greg 62 = b ∧ (g.set3 a b c tag f).greg 63 = c
      ∧ (∀ q, q ∉ [61, 62, 63] → (g.set3 a b c tag f).greg q = g.greg q) ∧ (g.set3 a b c tag f).res = (g.modTag tag f).res := by
  have h : ∀ q, (g.set3 a b c tag f).greg q = (((g.setG 61 a).setG 62 b).setG 63 c).greg q := fun _ => rfl
  refine ⟨?_, ?_, ?_, fun q hq => ?_, rfl⟩
  · rw [h, Group.setG_greg_ne _ (by decide), Group.setG_greg_ne _ (by decide), Group.setG_greg_same _ (by decide)]
  · rw [h, Group.setG_greg_ne _ (by decide), Group.setG_greg_same _ (by decide)]
  · rw [h, Group.setG_greg_same _ (by decide)]
  · simp only [List.mem_cons, List.not_mem_nil, or_false, not_or] at hq
    rw [h, Group.setG_greg_ne _ hq.2.2, Group.setG_greg_ne _ hq.2.1, Group.setG_greg_ne _ hq.1]

/-- What delivering a trap does (R147, R148). -/
theorem State.deliver_spec {s : State} {cx : Cx} (hg : s.groups.look cx.gid = some cx.grp) (hk : cx.grp.res.look cx.k = some cx.sp)
    (hc : s.ctxs.look cx.asid = some cx.ctx) (x : Trap) :
    Delivered s (s.deliver cx x) cx x.cause x.lanes x.addr x.aux (if x.atNext then cx.sp.pc + 4 else cx.sp.pc) x.code x.time x.stop := by
  unfold State.deliver
  split
  · next h hf hh =>
    unfold Delivered
    rw [hf, hh]
    obtain ⟨h61, h62, h63, hne, hres⟩ := Group.set3_spec cx.grp (if x.atNext then cx.sp.pc + 4 else cx.sp.pc) x.addr x.g63
      cx.sp.tag fun sp =>
        { sp with
          pc := h, firmware := true, nr := false, state := .ready, wait := none, waitPulses := 0, windows := [], parkOn := []
          pendingTrap := none, peerRead := [], idle := 0, trap61 := if x.atNext then cx.sp.pc + 4 else cx.sp.pc, trap62 := x.addr
          trap63 := x.g63, trapNr := sp.nr, trapAux := x.aux, trapTime := x.time, placeWait := none, drainTo := none, tshad61 := cx.grp.greg 61
          tshad62 := cx.grp.greg 62, tshad63 := cx.grp.greg 63 }
    refine ⟨_, congrArg (fun m => { s with groups := m }) (Map.upd_eq_put hg _), h61, h62, h63.trans (g63_eq ..), ?_,
      fun k sp hk ht => ?_, hne, fun _ _ => rfl, fun _ _ => rfl, fun _ _ => rfl, rfl⟩
    · refine (congrArg (Map.look · cx.k) hres).trans ((Group.modTag_look hk _).trans ?_)
      rw [h63]
    · exact (congrArg (Map.look · k) hres).trans (Group.modTag_look_ne hk ht _)
  · next hn =>
    unfold Delivered
    split
    · next h hf hh => exact absurd hh (hn h hf)
    · exact State.stopSplit_spec hg hc (trapRecordOf cx x cx.k)

/-- What a trap raised by a split's instruction does (R146 to R149, R222). -/
theorem State.raiseTrap_from {s u : State} {cx : Cx} (hg : u.groups.look cx.gid = some cx.grp) (hk : cx.grp.res.look cx.k = some cx.sp)
    (hc : u.ctxs.look cx.asid = some cx.ctx) {i : Instr} {x : Trap} (hx : x.stop = false) (he : exec i s = .next (u.raiseTrap cx x)) :
    RaisesFrom i s u cx x.cause x.lanes x.addr x.aux (if x.atNext then cx.sp.pc + 4 else cx.sp.pc) x.code := by
  refine ⟨_, he, ?_⟩
  unfold State.raiseTrap
  split
  · next hnil =>
    rw [hnil]
    simpa only [hx] using State.deliver_spec hg hk hc { x with time := u.time }
  · next hne =>
    refine ⟨_, { x with time := u.time }, ?_, rfl, rfl, rfl, rfl, rfl, rfl, rfl, hx, rfl⟩
    split
    · next h => exact absurd h hne
    · exact congrArg (fun m => { u with groups := m }) (Map.upd_eq_put hg _)

/-- What a trap of the issuing split does. -/
theorem State.raiseTrap_spec {s : State} {cx : Cx} (hs : s.issuer = some cx) {i : Instr} {x : Trap} (hx : x.stop = false)
    (he : exec i s = .next (s.raiseTrap cx x)) :
    Raises i s cx x.cause x.lanes x.addr x.aux (if x.atNext then cx.sp.pc + 4 else cx.sp.pc) x.code := by
  obtain ⟨hg, hk, -, -, hc⟩ := State.issuer_spec hs
  exact State.raiseTrap_from hg hk hc hx he

end Sys2Proof.Machine
end

