-- ==== Sys2Proof/Laws/Access.lean ====
section
/-! SUPPORT. What the shared operations of global accesses do: translation, polders, sending, and what a core sees of memory. -/

namespace Sys2Proof.Machine

/-- Only names in one group; sluice, L1 and TLB of one core; quadrants, chiplets, what belongs to the homes, events to come, peer requests,
free values drawn and memory may differ. -/
structure AccessTouch (s t : State) (core gid : Nat) : Prop where
  others : ∀ k, k ≠ gid → t.groups.look k = s.groups.look k
  group : ∀ g, s.groups.look gid = some g → ∃ ns, t.groups.look gid = some (g.withNames ns)
  own : ∃ sl sw l1 tl, t.core core = { s.core core with sluice := sl, sluiceWait := sw, l1 := l1, tlb := tl }
  cores : ∀ c, c ≠ core → t.core c = s.core c
  rest : ∃ g c q h k n a u p m x r b y z f w, t = { s with
    groups := g, cores := c, quads := q, chips := h, classes := k, snoops := n, agenda := a, uid := u, peerReqs := p, mem := m
    memPoison := x, reports := r, pubs := b, homes := y, banks := z, fresh := f, queues := w }

theorem Group.withNames_self (g : Group) : g.withNames g.names = g := rfl

theorem AccessTouch.refl (s : State) (core gid : Nat) : AccessTouch s s core gid :=
  ⟨fun _ _ => rfl, fun g h => ⟨g.names, h⟩, ⟨_, _, _, _, rfl⟩, fun _ _ => rfl, _, _, _, _, _, _, _, _, _, _, _, _, _, _, _, _, _, rfl⟩

theorem AccessTouch.trans {s t u : State} {core gid : Nat} (h : AccessTouch s t core gid) (h' : AccessTouch t u core gid) :
    AccessTouch s u core gid := by
  obtain ⟨sl, sw, l1, tl, hc⟩ := h.own
  obtain ⟨sl', sw', l1', tl', hc'⟩ := h'.own
  obtain ⟨_, _, _, _, _, _, _, _, _, _, _, _, _, _, _, _, _, hr⟩ := h.rest
  obtain ⟨_, _, _, _, _, _, _, _, _, _, _, _, _, _, _, _, _, hr'⟩ := h'.rest
  refine ⟨fun k hk => (h'.others k hk).trans (h.others k hk), fun g hg => ?_, ⟨sl', sw', l1', tl', ?_⟩,
    fun c hcc => (h'.cores c hcc).trans (h.cores c hcc), ?_⟩
  · obtain ⟨ns, hn⟩ := h.group g hg
    obtain ⟨ns', hn'⟩ := h'.group _ hn
    exact ⟨ns', hn'⟩
  · rw [hc', hc]
  · rw [hr', hr]; exact ⟨_, _, _, _, _, _, _, _, _, _, _, _, _, _, _, _, _, rfl⟩

theorem AccessTouch.foldl {α : Type} {core gid : Nat} {f : State → α → State} (h : ∀ s a, AccessTouch s (f s a) core gid) (s : State)
    (l : List α) : AccessTouch s (l.foldl f s) core gid := by
  induction l generalizing s with
  | nil => exact .refl ..
  | cons a l ih => exact (h s a).trans (ih _)

/-- Memory, stores on their way and the group's queue as a core reads them are the same, and each byte is seen as before or as it was seen
past L1. -/
structure SameBytes (s t : State) (core gid : Nat) : Prop where
  mem : t.mem = s.mem
  migrations : t.migrations = s.migrations
  inflight : (t.core core).inflight = (s.core core).inflight
  queue : (t.groups.look gid).map Group.storeQ = (s.groups.look gid).map Group.storeQ
  seen : ∀ a, t.coreByte core a false = s.coreByte core a false ∨ t.coreByte core a false = s.coreByte core a true

theorem AccessTouch.migrations {s t : State} {core gid : Nat} (h : AccessTouch s t core gid) : t.migrations = s.migrations := by
  obtain ⟨_, _, _, _, _, _, _, _, _, _, _, _, _, _, _, _, _, hr⟩ := h.rest; rw [hr]

theorem AccessTouch.inflight {s t : State} {core gid : Nat} (h : AccessTouch s t core gid) :
    (t.core core).inflight = (s.core core).inflight := by
  obtain ⟨_, _, _, _, hr⟩ := h.own; rw [hr]

theorem AccessTouch.paKind {s t : State} {core gid : Nat} (h : AccessTouch s t core gid) (a : Nat) : t.paKind a = s.paKind a := by
  obtain ⟨_, _, _, _, _, _, _, _, _, _, _, _, _, _, _, _, _, hr⟩ := h.rest; rw [hr]; rfl

theorem AccessTouch.queue {s t : State} {core gid : Nat} (h : AccessTouch s t core gid) {g : Group} (hg : s.groups.look gid = some g) :
    (t.groups.look gid).map Group.storeQ = (s.groups.look gid).map Group.storeQ := by
  obtain ⟨ns, hn⟩ := h.group g hg; rw [hn, hg]; rfl

theorem State.coreByte_bypass {s t : State} {core : Nat} (hm : t.mem = s.mem) (hg : t.migrations = s.migrations)
    (hi : (t.core core).inflight = (s.core core).inflight) (a : Nat) : t.coreByte core a true = s.coreByte core a true := by
  unfold State.coreByte CoreSt.onWay
  simp only [hi, State.physByte_congr hm hg]
  rfl

/-- With the same L1 a core sees the same bytes. -/
theorem State.coreByte_l1 {s t : State} {core : Nat} (hm : t.mem = s.mem) (hg : t.migrations = s.migrations)
    (hi : (t.core core).inflight = (s.core core).inflight) (hl : (t.core core).l1 = (s.core core).l1) (a : Nat) (b : Bool) :
    t.coreByte core a b = s.coreByte core a b := by
  unfold State.coreByte CoreSt.onWay CoreSt.l1Line
  simp only [hi, hl, State.physByte_congr hm hg]

theorem SameBytes.refl (s : State) (core gid : Nat) : SameBytes s s core gid := ⟨rfl, rfl, rfl, rfl, fun _ => .inl rfl⟩

theorem SameBytes.bypass {s t : State} {core gid : Nat} (h : SameBytes s t core gid) (a : Nat) :
    t.coreByte core a true = s.coreByte core a true := State.coreByte_bypass h.mem h.migrations h.inflight a

theorem SameBytes.trans {s t u : State} {core gid : Nat} (h : SameBytes s t core gid) (h' : SameBytes t u core gid) :
    SameBytes s u core gid := by
  refine ⟨h'.mem.trans h.mem, h'.migrations.trans h.migrations, h'.inflight.trans h.inflight, h'.queue.trans h.queue, fun a => ?_⟩
  rcases h'.seen a with e' | e'
  · rw [e']; exact h.seen a
  · exact .inr (e'.trans (h.bypass a))

theorem SameBytes.of_l1 {s t : State} {core gid : Nat} (hm : t.mem = s.mem) (hg : t.migrations = s.migrations)
    (hi : (t.core core).inflight = (s.core core).inflight) (hq : (t.groups.look gid).map Group.storeQ = (s.groups.look gid).map Group.storeQ)
    (hl : (t.core core).l1 = (s.core core).l1) : SameBytes s t core gid :=
  ⟨hm, hg, hi, hq, fun a => .inl (State.coreByte_l1 hm hg hi hl a false)⟩

/-- The bytes that a group's queue supplies are the same. -/
theorem SameBytes.ownBytes {s t : State} {core gid : Nat} (h : SameBytes s t core gid) (a n : Nat) :
    t.ownBytes gid a n = s.ownBytes gid a n := by
  have hq := h.queue
  unfold State.ownBytes
  cases hs : s.groups.look gid with
  | none =>
    rw [hs, Option.map_none, Option.map_eq_none_iff] at hq
    simp only [hq]
  | some g =>
    rw [hs] at hq
    obtain ⟨g', hg', he⟩ := Option.map_eq_some_iff.1 hq
    simp only [hg', he]

/-- A byte that a group reads comes from its queue, or is what its core sees. -/
theorem State.loadBytes_getD (s : State) (core gid a n : Nat) (bypass : Bool) {k : Nat} (hk : k < n) :
    (s.loadBytes core gid a n bypass).getD k 0
      = ((youngest (((s.groups.look gid).map Group.storeQ).getD []) .global (a + k)).getD (s.coreByte core (a + k) bypass)) := by
  unfold State.loadBytes
  rw [List.getD_eq_getElem?_getD, List.getElem?_map, List.getElem?_range hk]
  simp only [Option.map_some, Option.getD_some]
  cases s.groups.look gid <;> (dsimp only [Option.map_none, Option.map_some, Option.getD_none, Option.getD_some]; split <;> simp [*])

theorem State.loadBytes_length (s : State) (core gid a n : Nat) (bypass : Bool) : (s.loadBytes core gid a n bypass).length = n := by
  simp [State.loadBytes]

/-- What a group reads is, byte by byte, what it read before, or what it read past L1. -/
theorem SameBytes.loadBytes {s t : State} {core gid : Nat} (h : SameBytes s t core gid) (a n : Nat) (bypass : Bool) {k : Nat} (hk : k < n) :
    ∃ b, (t.loadBytes core gid a n bypass).getD k 0 = (s.loadBytes core gid a n b).getD k 0 := by
  have hc : ∃ b, t.coreByte core (a + k) bypass = s.coreByte core (a + k) b := by
    cases bypass
    · rcases h.seen (a + k) with e | e
      · exact ⟨false, e⟩
      · exact ⟨true, e⟩
    · exact ⟨true, h.bypass _⟩
  obtain ⟨b, hb⟩ := hc
  refine ⟨b, ?_⟩
  rw [State.loadBytes_getD _ _ _ _ _ _ hk, State.loadBytes_getD _ _ _ _ _ _ hk, h.queue, hb]

/-- What a group reads is the same where its core sees every byte as before. -/
theorem SameBytes.loadBytes_exact {s t : State} {core gid : Nat} (h : SameBytes s t core gid)
    (he : ∀ a, t.coreByte core a false = s.coreByte core a false) (a n : Nat) (bypass : Bool) :
    t.loadBytes core gid a n bypass = s.loadBytes core gid a n bypass := by
  apply List.ext_getElem
  · simp [State.loadBytes]
  · intro k hk hk'
    have hn : k < n := by simpa [State.loadBytes] using hk
    have hc : t.coreByte core (a + k) bypass = s.coreByte core (a + k) bypass := by
      cases bypass
      · exact he _
      · exact h.bypass _
    have e : (t.loadBytes core gid a n bypass).getD k 0 = (s.loadBytes core gid a n bypass).getD k 0 := by
      rw [State.loadBytes_getD _ _ _ _ _ _ hn, State.loadBytes_getD _ _ _ _ _ _ hn, h.queue, hc]
    simpa [List.getD_eq_getElem?_getD, hk, hk'] using e

/-! ### Steps that keep what a core sees -/

theorem State.modCore_core (s : State) (c : Nat) (f : CoreSt → CoreSt) : (s.modCore c f).core c = f (s.core c) := Map.lookD_put_same ..

theorem State.modCore_core_ne (s : State) {c x : Nat} (h : x ≠ c) (f : CoreSt → CoreSt) : (s.modCore c f).core x = s.core x :=
  Map.lookD_put_ne _ _ _ h

theorem State.modChip_core (s : State) (c : Nat) (f : Chip → Chip) (x : Nat) : (s.modChip c f).core x = s.core x := rfl

/-- Only quadrants, chiplets, what belongs to the homes, snoops, events to come and a core's TLB may differ. -/
def QuietOnly (s t : State) (core : Nat) : Prop :=
  ∃ c q h k n a y z, t = { s with
      cores := c, quads := q, chips := h, classes := k, snoops := n, agenda := a, homes := y, banks := z }
    ∧ (∀ x, x ≠ core → t.core x = s.core x) ∧ ∃ tl, t.core core = { s.core core with tlb := tl }

theorem QuietOnly.refl (s : State) (core : Nat) : QuietOnly s s core := ⟨_, _, _, _, _, _, _, _, rfl, fun _ _ => rfl, _, rfl⟩

theorem QuietOnly.trans {s t u : State} {core : Nat} (h : QuietOnly s t core) (h' : QuietOnly t u core) : QuietOnly s u core := by
  obtain ⟨_, _, _, _, _, _, _, _, e, hc, tl, ht⟩ := h
  obtain ⟨_, _, _, _, _, _, _, _, e', hc', tl', ht'⟩ := h'
  refine ⟨_, _, _, _, _, _, _, _, e'.trans (by rw [e]), fun x hx => (hc' x hx).trans (hc x hx), tl', ?_⟩
  rw [ht', ht]

theorem QuietOnly.foldl {α : Type} {core : Nat} {f : State → α → State} (h : ∀ s a, QuietOnly s (f s a) core) (s : State) (l : List α) :
    QuietOnly s (l.foldl f s) core := by
  induction l generalizing s with
  | nil => exact .refl ..
  | cons a l ih => exact (h s a).trans (ih _)

theorem HomesOnly.quiet {s t : State} (h : HomesOnly s t) (core : Nat) : QuietOnly s t core := by
  obtain ⟨c, n, q, y, z, a, rfl⟩ := h
  exact ⟨_, _, _, _, _, _, _, _, rfl, fun _ _ => rfl, _, rfl⟩

theorem QuietOnly.touch {s t : State} {core : Nat} (h : QuietOnly s t core) (gid : Nat) : AccessTouch s t core gid := by
  obtain ⟨_, _, _, _, _, _, _, _, e, hc, tl, ht⟩ := h
  exact ⟨fun _ _ => by rw [e], fun g hg => ⟨g.names, by rw [e]; exact hg⟩, ⟨_, _, _, _, ht⟩, hc, by
    rw [e]; exact ⟨_, _, _, _, _, _, _, _, _, _, _, _, _, _, _, _, _, rfl⟩⟩

theorem QuietOnly.same {s t : State} {core : Nat} (h : QuietOnly s t core) (gid : Nat) : SameBytes s t core gid := by
  obtain ⟨_, _, _, _, _, _, _, _, e, hc, tl, ht⟩ := h
  exact .of_l1 (by rw [e]) (by rw [e]) (by rw [ht]) (by rw [e]) (by rw [ht])

/-- A step that leaves L1 alone leaves every byte as the core sees it. -/
theorem QuietOnly.exact {s t : State} {core : Nat} (h : QuietOnly s t core) (a : Nat) (b : Bool) :
    t.coreByte core a b = s.coreByte core a b := by
  obtain ⟨_, _, _, _, _, _, _, _, e, hc, tl, ht⟩ := h
  exact State.coreByte_l1 (by rw [e]) (by rw [e]) (by rw [ht]) (by rw [ht]) a b

theorem State.fillTlb_quiet (s : State) (core asid v : Nat) : QuietOnly s (s.fillTlb core asid v) core := by
  unfold State.fillTlb
  split
  · exact .refl ..
  · split
    · exact .refl ..
    · split
      · exact ⟨_, _, _, _, _, _, _, _, rfl, fun x hx => (State.modChip_core ..).trans (State.modCore_core_ne _ hx _),
          _, (State.modChip_core ..).trans (State.modCore_core ..)⟩
      · exact .refl ..

theorem State.learn_quiet (s : State) (core asid v : Nat) : QuietOnly s (s.learn core asid v) core := by
  unfold State.learn
  split
  · exact .refl ..
  · exact ((State.walkTouch_homes ..).quiet core).trans (State.fillTlb_quiet ..)

theorem State.learnIf_quiet (s : State) (core asid : Nat) (fw : Bool) (v size align : Nat) :
    QuietOnly s (s.learnIf core asid fw v size align) core := by
  unfold State.learnIf
  split
  · exact State.learn_quiet ..
  · exact .refl ..

theorem State.learnOp_quiet (s : State) (cx : Cx) (o : GlobalOp) : QuietOnly s (s.learnOp cx o) cx.core :=
  .foldl (fun _ _ => State.learnIf_quiet ..) _ _

theorem State.killPages_homes (s : State) (core : Nat) (pages : List Nat) : HomesOnly s (s.killPages core pages) :=
  .foldl (fun _ _ => State.killReuse_homes ..) _ _

theorem State.killWritten_quiet (s : State) (core : Nat) (op : MemOp) (rs : List LaneReq) : QuietOnly s (s.killWritten core op rs) core := by
  unfold State.killWritten
  split
  · exact .refl ..
  · exact (State.killPages_homes ..).quiet core

theorem State.throughPolders_quiet (s : State) (core asid hint : Nat) (kind : Option Nat) (as : List (Nat × Nat)) :
    QuietOnly s (s.throughPolders core asid hint kind as) core := by
  refine QuietOnly.foldl (fun s a => ?_) _ _
  split
  · exact ⟨_, _, _, _, _, _, _, _, rfl, fun _ _ => rfl, _, rfl⟩
  · exact .refl ..

theorem State.lanesThrough_quiet (s : State) (core asid : Nat) (acc : Access) (rs : List LaneReq) :
    QuietOnly s (s.lanesThrough core asid acc rs) core := by
  unfold State.lanesThrough
  dsimp only
  split
  · exact State.throughPolders_quiet ..
  · exact State.throughPolders_quiet ..
  · exact .refl ..

/-- Touching a home changes nothing that the core sees. -/
theorem State.homeTouch_quiet (s : State) (who : Accessor) (pa : Nat) (write : Bool) (core : Nat) :
    QuietOnly s (s.homeTouch who pa write) core := (State.homeTouch_homes ..).quiet core

/-! ### L1 -/

theorem allOnes_bit {k : Nat} (h : k < 128) : (BitVec.allOnes 128).getLsbD k = true := by rw [BitVec.getLsbD_allOnes]; simp [h]

/-- A line of L1 other than the one that is put or taken out is the same. -/
theorem CoreSt.l1Line_put_ne (c : CoreSt) {n a : Nat} (l : L1Line) (h : a / 128 ≠ n) :
    ({ c with l1 := c.l1.put n l } : CoreSt).l1Line a = c.l1Line a := by
  unfold CoreSt.l1Line; simp [Map.look_put_ne _ _ h]

/-- Making room in L1 shows at worst what the core sees past L1. -/
theorem State.roomL1_same (s : State) (core gid a : Nat) : SameBytes s (s.roomL1 core a) core gid ∧ AccessTouch s (s.roomL1 core a) core gid := by
  unfold State.roomL1
  dsimp only
  split
  · exact ⟨.refl .., .refl ..⟩
  · refine ⟨⟨rfl, rfl, by rw [State.modCore_core]; rfl, rfl, fun b => ?_⟩, ⟨fun _ _ => rfl, fun g hg => ⟨g.names, hg⟩,
      ⟨_, _, _, _, (State.modCore_core ..).trans rfl⟩, fun c hc => (State.modCore_core_ne _ hc _).trans rfl,
      _, _, _, _, _, _, _, _, _, _, _, _, _, _, _, _, _, rfl⟩⟩
    generalize ((s.core core).l1.getD ((Config.freeValue s.fresh).toNat % l1Lines) (0, { bytes := [] })).1 = victim
    by_cases hb : b / 128 = victim
    · right
      unfold State.coreByte CoreSt.onWay CoreSt.l1Line
      rw [State.modCore_core]
      simp only [hb, Map.look_del_same]
      rfl
    · left
      unfold State.coreByte CoreSt.onWay CoreSt.l1Line
      rw [State.modCore_core]
      simp only [Map.look_del_ne _ hb]
      rfl

/-- Bringing a line into L1 shows what the core sees past L1 in that line, and nothing else new. -/
theorem State.fillL1_same (s : State) (core gid a : Nat) : SameBytes s (s.fillL1 core a) core gid ∧ AccessTouch s (s.fillL1 core a) core gid := by
  unfold State.fillL1
  split
  · exact ⟨.refl .., .refl ..⟩
  · obtain ⟨h1, h2⟩ := State.roomL1_same s core gid a
    generalize s.roomL1 core a = u at h1 h2 ⊢
    dsimp only
    refine ⟨h1.trans ⟨rfl, rfl, by rw [State.modCore_core], rfl, fun b => ?_⟩,
      h2.trans ⟨fun _ _ => rfl, fun g hg => ⟨g.names, hg⟩, ⟨_, _, _, _, State.modCore_core ..⟩,
        fun c hc => State.modCore_core_ne _ hc _, _, _, _, _, _, _, _, _, _, _, _, _, _, _, _, _, _, rfl⟩⟩
    by_cases hb : b / 128 = a / 128
    · right
      have hlt : b % 128 < 128 := Nat.mod_lt _ (by decide)
      unfold State.coreByte
      rw [State.modCore_core]
      simp only [CoreSt.l1Line, hb, Map.look_put_same, Bool.false_eq_true, if_false]
      rw [if_pos (allOnes_bit hlt)]
      simp only [List.getD_eq_getElem?_getD, List.getElem?_map, List.getElem?_range hlt, Option.map_some, Option.getD_some]
      rw [← hb, Nat.div_add_mod' b 128]
    · left
      unfold State.coreByte
      rw [State.modCore_core]
      simp only [CoreSt.l1Line_put_ne _ _ hb]
      rfl

theorem Map.length_put_le {α : Type} (m : Map α) (k : Nat) (a : α) : (Map.put m k a).length ≤ m.length + 1 := by
  induction m with
  | nil => simp [Map.put]
  | cons p rest ih =>
    obtain ⟨k', b⟩ := p
    unfold Map.put
    split
    · simp
    · split
      · simp
      · simp; exact ih

theorem Map.mem_put {α : Type} {m : Map α} {k : Nat} {a : α} {p : Nat × α} (h : p ∈ Map.put m k a) : p = (k, a) ∨ p ∈ m := by
  induction m with
  | nil => simpa [Map.put] using h
  | cons q rest ih =>
    obtain ⟨k', b⟩ := q
    unfold Map.put at h
    split at h
    · rcases List.mem_cons.1 h with h | h
      · exact .inl h
      · exact .inr h
    · split at h
      · rcases List.mem_cons.1 h with h | h
        · exact .inl h
        · exact .inr (List.mem_cons_of_mem _ h)
      · rcases List.mem_cons.1 h with h | h
        · exact .inr (h ▸ List.mem_cons_self ..)
        · rcases ih h with h | h
          · exact .inl h
          · exact .inr (List.mem_cons_of_mem _ h)

theorem Map.look_mem {α : Type} {m : Map α} {k : Nat} {a : α} (h : Map.look m k = some a) : (k, a) ∈ m := by
  induction m with
  | nil => cases h
  | cons q rest ih =>
    obtain ⟨k', b⟩ := q
    rw [Map.look_cons] at h
    split at h
    · cases h; subst_vars; exact List.mem_cons_self ..
    · exact List.mem_cons_of_mem _ (ih h)

/-- With room, and for an address that is no peer's, bringing a line into L1 changes nothing that the core sees. -/
theorem State.fillL1_exact {s : State} {core a n : Nat} (h : s.L1Room core (n + 1)) (hp : ∀ d, s.paKind a ≠ .peer d) :
    (∀ b c, (s.fillL1 core a).coreByte core b c = s.coreByte core b c) ∧ (s.fillL1 core a).L1Room core n := by
  obtain ⟨hlen, hwhole⟩ := h
  unfold State.fillL1
  split
  · exact ⟨fun _ _ => rfl, by omega, hwhole⟩
  · next hn =>
    have hnone : (s.core core).l1.look (a / 128) = none := by
      cases hl : (s.core core).l1.look (a / 128) with
      | none => rfl
      | some l =>
        refine absurd ?_ hn
        rcases hwhole _ (Map.look_mem hl) with hv | ⟨d, hd⟩
        · simp only at hv
          unfold CoreSt.l1Has CoreSt.l1Line
          have hlt : a % 128 < 128 := Nat.mod_lt _ (by decide)
          simp only [List.range_one, List.all_cons, List.all_nil, Nat.add_zero, hl, hv, Bool.and_true]
          rw [if_pos (allOnes_bit hlt)]; rfl
        · exact absurd (by have := hd (a % 128) (Nat.mod_lt _ (by decide)); rwa [Nat.div_add_mod] at this) (hp d)
    have hroom : s.roomL1 core a = s := by
      unfold State.roomL1
      dsimp only
      rw [if_pos (by simp; right; omega)]
    rw [hroom]
    dsimp only
    refine ⟨fun b c => ?_, ?_, fun p hp' => ?_⟩
    · have hy : ∀ (t : CoreSt → CoreSt), (∀ x, (t x).inflight = x.inflight) →
          (s.modCore core t).coreByte core b true = s.coreByte core b true := by
        intro t ht
        refine State.coreByte_bypass (s := s) (t := s.modCore core t) rfl rfl ?_ b
        rw [State.modCore_core, ht]
      cases c
      · by_cases hb : b / 128 = a / 128
        · have hs : s.coreByte core b false = s.coreByte core b true := by
            unfold State.coreByte CoreSt.l1Line; simp [hb, hnone]
          rw [hs]
          have hlt : b % 128 < 128 := Nat.mod_lt _ (by decide)
          unfold State.coreByte
          rw [State.modCore_core]
          simp only [CoreSt.l1Line, hb, Map.look_put_same, Bool.false_eq_true, if_false]
          rw [if_pos (allOnes_bit hlt)]
          simp only [List.getD_eq_getElem?_getD, List.getElem?_map, List.getElem?_range hlt, Option.map_some, Option.getD_some]
          rw [← hb, Nat.div_add_mod' b 128]
        · unfold State.coreByte
          rw [State.modCore_core]
          simp only [CoreSt.l1Line_put_ne _ _ hb]
          rfl
      · exact hy _ fun _ => rfl
    · rw [State.modCore_core]
      have := Map.length_put_le (s.core core).l1 (a / 128)
        { bytes := (List.range 128).map fun k => s.coreByte core (a / 128 * 128 + k) true
          poison := (Bits.maskBy fun w => w < 16 && (List.range 8).any fun k => s.coreBad core (a / 128 * 128 + 8 * w + k) true).setWidth 16 }
      exact Nat.le_trans (Nat.add_le_add_right this n) (by omega)
    · rw [State.modCore_core] at hp'
      rcases Map.mem_put hp' with rfl | hp'
      · exact .inl rfl
      · exact hwhole p hp'

/-! ### Performing lanes -/

/-- What performing a lane of a load does. -/
theorem State.performLane_load {s : State} {core gid size : Nat} {signed : Bool} {acc : Access} (h : acc.op = .load size signed) (q : LaneReq)
    (hp : q.peer = false) :
    SameBytes s (s.performLane core gid acc q).1 core gid ∧ AccessTouch s (s.performLane core gid acc q).1 core gid
      ∧ (∀ n, s.L1Room core (n + 1) → (∀ b c, (s.performLane core gid acc q).1.coreByte core b c = s.coreByte core b c)
          ∧ (s.performLane core gid acc q).1.L1Room core n)
      ∧ (s.performLane core gid acc q).2.lane = q.lane ∧ (s.performLane core gid acc q).2.va = q.va
      ∧ (s.performLane core gid acc q).2.pa = q.pa ∧ (s.performLane core gid acc q).2.own = s.ownBytes gid q.pa size
      ∧ ((∃ d, s.paKind q.pa = .peer d) ∧ (s.performLane core gid acc q).2.peer = true
        ∨ ((s.performLane core gid acc q).2.peer = false ∧ (s.performLane core gid acc q).2.val
          = extendLoad size signed acc.dest (Memory.toNat (s.loadBytes core gid q.pa size acc.bypass)))) := by
  have hweak : ∀ n, s.L1Room core (n + 1) → s.L1Room core n := fun n hr => ⟨by have := hr.1; omega, hr.2⟩
  unfold State.performLane
  rw [h]
  dsimp only
  generalize acc.bypass = bypass
  generalize (!bypass && (s.core core).l1Has q.pa size) = hit
  cases hk : s.paKind q.pa with
  | peer d =>
    cases hit
    · exact ⟨.refl .., .refl .., fun n hr => ⟨fun _ _ => rfl, hweak n hr⟩, rfl, rfl, rfl, rfl, .inl ⟨⟨d, rfl⟩, rfl⟩⟩
    · rw [if_neg (show ¬ ((true && !true) = true) by decide), if_pos rfl, if_pos (Bool.or_true _)]
      exact ⟨.refl .., .refl .., fun n hr => ⟨fun _ _ => rfl, hweak n hr⟩, rfl, rfl, rfl, rfl, .inr ⟨hp, rfl⟩⟩
  | _ =>
    all_goals
      rw [if_neg (show ¬ ((false && !hit) = true) by simp)]
      have h1 : QuietOnly s (if hit = true then s else s.homeTouch (coreAgent core) q.pa false) core := by
        split
        · exact .refl ..
        · exact State.homeTouch_quiet ..
      generalize (if hit = true then s else s.homeTouch (coreAgent core) q.pa false) = u at h1 ⊢
      have hku : ∀ d, u.paKind q.pa ≠ .peer d := fun d => by
        have : u.paKind q.pa = s.paKind q.pa := AccessTouch.paKind (h1.touch gid) _
        rw [this, hk]; exact fun e => nomatch e
      have hru : ∀ n, s.L1Room core n → u.L1Room core n := by
        obtain ⟨_, _, _, _, _, _, _, _, e, -, tl, ht⟩ := h1
        intro n hr
        unfold State.L1Room
        rw [ht]
        refine ⟨hr.1, fun p hp => ?_⟩
        rcases hr.2 p hp with hv | ⟨d, hd⟩
        · exact .inl hv
        · exact .inr ⟨d, fun k hk => by rw [e]; exact hd k hk⟩
      have h2 : SameBytes u (if (bypass || hit) = true then u else u.fillL1 core q.pa) core gid
          ∧ AccessTouch u (if (bypass || hit) = true then u else u.fillL1 core q.pa) core gid
          ∧ ∀ n, u.L1Room core (n + 1) → (∀ b c, (if (bypass || hit) = true then u else u.fillL1 core q.pa).coreByte core b c
              = u.coreByte core b c) ∧ (if (bypass || hit) = true then u else u.fillL1 core q.pa).L1Room core n := by
        split
        · exact ⟨.refl .., .refl .., fun n hr => ⟨fun _ _ => rfl, by have := hr.1; omega, hr.2⟩⟩
        · exact ⟨(State.fillL1_same ..).1, (State.fillL1_same ..).2, fun n hr => State.fillL1_exact hr hku⟩
      exact ⟨(h1.same gid).trans h2.1, (h1.touch gid).trans h2.2.1,
        fun n hr => ⟨fun b c => ((h2.2.2 n (hru _ hr)).1 b c).trans (h1.exact b c), (h2.2.2 n (hru _ hr)).2⟩,
        rfl, rfl, rfl, rfl, .inr ⟨hp, rfl⟩⟩

/-- Performing lanes, one after the other. -/
theorem State.performLanes_cons (s : State) (core gid : Nat) (acc : Access) (rs : List LaneReq) (pre : List LaneReq) :
    rs.foldl (fun p r => ((p.1.performLane core gid acc r).1, p.2 ++ [(p.1.performLane core gid acc r).2])) (s, pre)
      = ((s.performLanes core gid acc rs).1, pre ++ (s.performLanes core gid acc rs).2) := by
  unfold State.performLanes
  induction rs generalizing s pre with
  | nil => simp
  | cons q rest ih =>
    simp only [List.foldl_cons]
    rw [ih, ih (s := (s.performLane core gid acc q).1) (pre := [] ++ [(s.performLane core gid acc q).2])]
    simp

theorem State.performLanes_eq (s : State) (core gid : Nat) (acc : Access) (q : LaneReq) (rest : List LaneReq) :
    s.performLanes core gid acc (q :: rest)
      = (((s.performLane core gid acc q).1.performLanes core gid acc rest).1,
          (s.performLane core gid acc q).2 :: ((s.performLane core gid acc q).1.performLanes core gid acc rest).2) := by
  have := State.performLanes_cons (s.performLane core gid acc q).1 core gid acc rest [(s.performLane core gid acc q).2]
  exact this

/-- What performing the lanes of a load does: each lane's value is what the group reads at its address before any of them, where L1 has
room for their lines; elsewhere each of its bytes is what the core sees, or sees past L1. -/
theorem State.performLanes_load {s : State} {core gid size : Nat} {signed : Bool} {acc : Access} (h : acc.op = .load size signed)
    (rs : List LaneReq) (hp : ∀ q ∈ rs, q.peer = false) :
    SameBytes s (s.performLanes core gid acc rs).1 core gid ∧ AccessTouch s (s.performLanes core gid acc rs).1 core gid
      ∧ (s.performLanes core gid acc rs).2.map (fun q => (q.lane, q.va, q.pa)) = rs.map (fun q => (q.lane, q.va, q.pa))
      ∧ ∀ q ∈ (s.performLanes core gid acc rs).2, q.own = s.ownBytes gid q.pa size
        ∧ ((∃ d, s.paKind q.pa = .peer d) ∧ q.peer = true
          ∨ q.peer = false ∧ ∃ u, SameBytes s u core gid
            ∧ (s.L1Room core rs.length → ∀ a, u.coreByte core a false = s.coreByte core a false)
            ∧ q.val = extendLoad size signed acc.dest (Memory.toNat (u.loadBytes core gid q.pa size acc.bypass))) := by
  induction rs generalizing s with
  | nil => exact ⟨.refl .., .refl .., rfl, fun q hq => nomatch hq⟩
  | cons q rest ih =>
    rw [State.performLanes_eq]
    obtain ⟨h1, h2, hx, h3, h4, h5, ho, h6⟩ :=
      State.performLane_load (s := s) (core := core) (gid := gid) h q (hp q (List.mem_cons_self ..))
    obtain ⟨i1, i2, i3, i4⟩ := ih (s := (s.performLane core gid acc q).1) fun q hq => hp q (List.mem_cons_of_mem _ hq)
    refine ⟨h1.trans i1, h2.trans i2, ?_, fun x hxm => ?_⟩
    · simp only [List.map_cons, i3, h3, h4, h5]
    · rcases List.mem_cons.1 hxm with rfl | hxm
      · rw [h5]
        refine ⟨ho, ?_⟩
        rcases h6 with h6 | ⟨h6, h7⟩
        · exact .inl h6
        · exact .inr ⟨h6, s, .refl .., fun _ _ => rfl, h7⟩
      · obtain ⟨e0, e⟩ := i4 x hxm
        refine ⟨e0.trans (h1.ownBytes ..), ?_⟩
        rcases e with ⟨⟨d, e1⟩, e2⟩ | ⟨e1, u, e2, e3, e4⟩
        · exact .inl ⟨⟨d, h2.paKind _ ▸ e1⟩, e2⟩
        · exact .inr ⟨e1, u, h1.trans e2, fun hr a => (e3 (hx _ hr).2 a).trans ((hx _ hr).1 a false), e4⟩

end Sys2Proof.Machine
end

