-- ==== Sys2Proof/Laws/Group.lean ====
section
/-! SUPPORT. What a group-set instruction and a mask-writing instruction do, once for all of them. -/

namespace Sys2Proof.Machine

/-- Change the issuing group's registers, then retire: the shape of most group-set instructions. -/
theorem RegsOnly.of_modGroup {s : State} {cx : Cx} {f : Group → Group} {g : Group} (hs : s.issuer = some cx) (hf : f cx.grp = g)
    (hk : g = cx.grp.putRegs g) (hr : g.res = cx.grp.res) (hst : g.stack = cx.grp.stack) (n : Nat) :
    RegsOnly s ((s.modGroup cx.gid f).retire cx n) cx (g.modTag cx.sp.tag Split.retire) n :=
  RegsOnly.of_retire hs (.modGroup ..) (by rw [State.modGroup_look (State.issuer_spec hs).1 f, hf]) hk hr hst n

/-- The weight of a class depends on WTAB alone. -/
theorem State.weight_modGroup (s : State) (gid : Nat) (f : Group → Group) (c k : Nat) : (s.modGroup gid f).weight c k = s.weight c k := rfl

/-- A group-set instruction that writes a g register computes what its row says. -/
theorem groupG_computes {r : GroupRow} (he : exec r.instr = groupOp r.code { r.uses with gw := [r.d.toNat] } fun cx s =>
    s.modGroup cx.gid fun g => g.setG r.d.toNat (r.value cx s)) : r.Computes := by
  intro s cx ha
  refine ⟨_, _, by rw [he]; unfold groupOp; rw [gate_admits ha]; rfl, RegsOnly.of_modGroup ha.issuer rfl rfl rfl rfl _, ?_, ?_, ?_, ?_, ?_, rfl⟩
  · exact Group.setG_greg_same _ r.d.isLt _
  · intro q hq; exact Group.setG_greg_ne _ (by simpa using hq) _
  · intro _ _; rfl
  · intro _ _; rfl
  · intro _ _; rfl

theorem Group.setM_same (g : Group) {k : Nat} (h0 : k ≠ 0) (h : k < 8) (x : Word) : Bits.rd (g.setM k x).m k 0 = x := by
  unfold Group.setM; rw [if_neg h0]; exact rd_wr_same _ h ..

theorem Group.setM_ne (g : Group) {k q : Nat} (h : q ≠ k) (x : Word) : Bits.rd (g.setM k x).m q 0 = Bits.rd g.m q 0 := by
  unfold Group.setM; split
  · rfl
  · exact rd_wr_ne _ h ..

/-- Writing a mask register changes mask registers and their poison alone. -/
theorem Group.setM_rest (g : Group) (k : Nat) (x : Word) : ∃ m p, g.setM k x = { g with m := m, mPoison := p } := by
  unfold Group.setM; split
  · exact ⟨_, _, rfl⟩
  · exact ⟨_, _, rfl⟩

theorem Group.writeMask_rest (g : Group) (active : Word) (k : Nat) (f : Nat → Bool) : ∃ m p, g.writeMask active k f = { g with m := m, mPoison := p } := by
  unfold Group.writeMask
  obtain ⟨m, p, h⟩ := Group.setM_rest g k ((Bits.rd g.m k 0 &&& ~~~ active) ||| (Bits.maskBy f &&& active))
  rw [h]
  dsimp only
  split
  · exact ⟨_, _, rfl⟩
  · exact ⟨_, _, rfl⟩

theorem Group.writeMask_m (g : Group) (active : Word) (k : Nat) (f : Nat → Bool) :
    (g.writeMask active k f).m = (g.setM k ((Bits.rd g.m k 0 &&& ~~~ active) ||| (Bits.maskBy f &&& active))).m := by
  unfold Group.writeMask; dsimp only; split <;> rfl

theorem getLsbD_maskOf (ls : List Nat) (m : Word) (l : Nat) (h : l < 32) :
    (ls.foldl (fun m l => m ||| BitVec.twoPow 32 l) m).getLsbD l = (m.getLsbD l || ls.contains l) := by
  induction ls generalizing m with
  | nil => simp
  | cons a ls ih =>
    simp only [List.foldl_cons, ih, BitVec.getLsbD_or, BitVec.getLsbD_twoPow, List.contains_cons]
    by_cases ha : a = l
    · subst ha; simp [h]
    · have : (l == a) = false := by simpa using Ne.symm ha
      simp [ha, h, this]

/-- Bit l of the mask of a test. -/
theorem getLsbD_maskBy (p : Nat → Bool) {l : Nat} (h : l < 32) : (Bits.maskBy p).getLsbD l = p l := by
  unfold Bits.maskBy Bits.maskOf
  rw [getLsbD_maskOf _ _ _ h]
  by_cases hp : p l <;> simp [hp, h]

/-- A lane-set instruction that writes a mask register computes what its row says. -/
theorem laneMask_computes {r : LaneMaskRow} (he : exec r.instr = laneMask r.code r.guard r.k r.vr r.gr r.value)
    (hk : wellFormed 64 r.instr = true → r.k ≠ 0 ∧ r.k < 8) : r.Computes := by
  intro s cx hwf ha
  obtain ⟨h0, h8⟩ := hk hwf
  have hr := Group.writeMask_rest cx.grp (cx.active r.guard) r.k fun l => (r.value cx l).1
  have hm := Group.writeMask_m cx.grp (cx.active r.guard) r.k fun l => (r.value cx l).1
  have h1 := Group.setM_same cx.grp h0 h8
    ((Bits.rd cx.grp.m r.k 0 &&& ~~~ cx.active r.guard) ||| (Bits.maskBy (fun l => (r.value cx l).1) &&& cx.active r.guard))
  have h2 : ∀ q, q ≠ r.k → Bits.rd (cx.grp.writeMask (cx.active r.guard) r.k fun l => (r.value cx l).1).m q 0 = Bits.rd cx.grp.m q 0 := by
    intro q hq; rw [hm]; exact Group.setM_ne _ hq _
  rw [← hm] at h1
  obtain ⟨m, p, hg⟩ := hr
  rw [hg] at h1 h2
  have hf : (fun g : Group => (g.writeMask (cx.active r.guard) r.k fun l => (r.value cx l).1).raise
      (orFlags (cx.active r.guard) fun l => (r.value cx l).2)) cx.grp
      = { cx.grp with m := m, mPoison := p, fflags := cx.grp.fflags ||| (orFlags (cx.active r.guard) fun l => (r.value cx l).2) } := by
    simp only [hg]; rfl
  have hreg := RegsOnly.of_modGroup (f := fun g : Group => (g.writeMask (cx.active r.guard) r.k fun l => (r.value cx l).1).raise
      (orFlags (cx.active r.guard) fun l => (r.value cx l).2)) ha.issuer hf rfl rfl rfl
    (chargeOf (s.weight cx.core r.code) r.code (Bits.popcount (cx.active r.guard)) (cx.grp.narrowSources r.vr))
  refine ⟨_, _, by rw [he]; unfold laneMask; rw [gate_admits ha]; rfl, hreg, ?_, fun _ _ => rfl, fun _ _ => rfl, ?_, fun _ _ => rfl, rfl⟩
  · intro l hl
    have h1' := congrArg (fun x => BitVec.getLsbD x l) h1
    refine h1'.trans ?_
    rw [BitVec.getLsbD_or, BitVec.getLsbD_and, BitVec.getLsbD_and, BitVec.getLsbD_not, getLsbD_maskBy _ hl]
    cases (cx.active r.guard).getLsbD l <;> simp [hl]
  · intro q hq; exact h2 q (by simpa using hq)

/-- A group-set instruction that writes a mask register computes what its row says. -/
theorem groupM_computes {r : GroupMaskRow} (he : exec r.instr = groupM r.code r.uses r.k r.value)
    (hk : wellFormed 64 r.instr = true → r.k ≠ 0) : r.Computes := by
  intro s cx hwf ha
  have h0 : r.k.toNat ≠ 0 := fun h => hk hwf (BitVec.eq_of_toNat_eq h)
  have h1 := Group.setM_same cx.grp h0 r.k.isLt (r.value cx)
  have h2 : ∀ q, q ≠ r.k.toNat → Bits.rd (cx.grp.setM r.k.toNat (r.value cx)).m q 0 = Bits.rd cx.grp.m q 0 :=
    fun q hq => Group.setM_ne _ hq _
  obtain ⟨m, p, hg⟩ := Group.setM_rest cx.grp r.k.toNat (r.value cx)
  have hreg := RegsOnly.of_modGroup (f := fun g => g.setM r.k.toNat (r.value cx)) ha.issuer hg rfl rfl rfl (s.weight cx.core r.code)
  rw [hg] at h1 h2
  exact ⟨_, _, by rw [he]; unfold groupM groupOp; rw [gate_admits ha]; rfl, hreg, h1, fun q hq => h2 q (by simpa using hq),
    fun _ _ => rfl, fun _ _ => rfl, fun _ _ => rfl, rfl⟩

end Sys2Proof.Machine
end

