-- ==== Sys2Proof/Laws/Lane.lean ====
section
/-! SUPPORT. What a lane-set instruction does, once for all of them. -/

namespace Sys2Proof.Machine

/-- Making a reuse entry touches the quadrant alone. -/
theorem State.reuseMake_touch (s : State) (gid q : Nat) (e : ReuseEntry) :
    GroupTouch s (s.reuseMake q e) gid q ∧ (s.reuseMake q e).groups = s.groups := by
  unfold State.reuseMake
  dsimp only
  split
  · exact ⟨.modQuad .., rfl⟩
  · exact ⟨(GroupTouch.modQuad ..).trans (State.killReuse_touch ..).1, (State.killReuse_touch _ gid q _).2⟩

/-- The groups after `laneBody` without a hit: the lanes written, the flags raised, names only otherwise. -/
theorem laneBody_miss {o : LaneOp} {f : Cx → Word → (Nat → BitVec 128) × FlagSet} {s : State} {cx : Cx} (hs : s.issuer = some cx)
    (hm : (o.candidate && cx.reuses) = true → s.reuseFind cx.quad (o.reuseKey cx (cx.active o.guard)) = none) :
    ∃ t ns, laneBody o f cx s = t.retire cx (chargeOf (s.weight cx.core (classOf o.key)) (classOf o.key) (Bits.popcount (cx.active o.guard))
          (cx.grp.narrowSources o.vr))
      ∧ GroupTouch s t cx.gid cx.quad
      ∧ t.groups.look cx.gid = some (((cx.grp.writeLanes (cx.active o.guard) o.d o.n (f cx (cx.active o.guard)).1).raise
          (f cx (cx.active o.guard)).2).withNames ns) := by
  have hi := (State.issuer_spec hs).1
  have hhit : (if (o.candidate && cx.reuses) = true then s.reuseFind cx.quad (o.reuseKey cx (cx.active o.guard)) else none) = none := by
    split
    · exact hm ‹_›
    · rfl
  unfold laneBody
  simp only [hhit]
  generalize hs1 : (if (o.candidate && cx.reuses) = true then s.countLookup cx.quad else s) = s1
  have ht1 : GroupTouch s s1 cx.gid cx.quad := by
    subst hs1; split
    · exact .modQuad ..
    · exact .refl ..
  have hg1 : s1.groups.look cx.gid = some cx.grp := by subst hs1; split <;> exact hi
  have hg2 := State.modGroup_look hg1 fun g => (g.writeLanes (cx.active o.guard) o.d o.n (f cx (cx.active o.guard)).1).raise
          (f cx (cx.active o.guard)).2
  obtain ⟨ht3, ns, hg3⟩ := State.nameRegs_spec hg2 cx.quad o.d o.n
  have ht3' := ht1.trans ((GroupTouch.modGroup s1 cx.gid cx.quad _).trans ht3)
  have hw : ∀ t, GroupTouch s t cx.gid cx.quad → t.weight cx.core (classOf o.key) = s.weight cx.core (classOf o.key) := by
    intro t ht; unfold State.weight; rw [show t.wtabs = s.wtabs from (congrArg State.wtabs ht.rest).trans rfl]
  have conclude : ∀ t, GroupTouch s t cx.gid cx.quad → t.groups.look cx.gid = some (((cx.grp.writeLanes (cx.active o.guard) o.d o.n
      (f cx (cx.active o.guard)).1).raise (f cx (cx.active o.guard)).2).withNames ns) → ∃ t' ns',
      t.retire cx (chargeOf (t.weight cx.core (classOf o.key)) (classOf o.key) (Bits.popcount (cx.active o.guard))
          (cx.grp.narrowSources o.vr))
        = t'.retire cx (chargeOf (s.weight cx.core (classOf o.key)) (classOf o.key) (Bits.popcount (cx.active o.guard))
          (cx.grp.narrowSources o.vr))
      ∧ GroupTouch s t' cx.gid cx.quad
      ∧ t'.groups.look cx.gid = some (((cx.grp.writeLanes (cx.active o.guard) o.d o.n (f cx (cx.active o.guard)).1).raise
          (f cx (cx.active o.guard)).2).withNames ns') := fun t h1 h2 => ⟨t, ns, by rw [hw t h1], h1, h2⟩
  apply conclude
  · split
    · exact ht3'.trans (State.reuseMake_touch ..).1
    · exact ht3'
  · split
    · rw [(State.reuseMake_touch _ cx.gid _ _).2]; exact hg3
    · exact hg3

/-- Writing lanes, raising flags and naming change only that. -/
theorem Group.written_rest (g : Group) (active : Word) (d n : Nat) (f : Nat → BitVec 128) (fl : FlagSet) (ns : Vector Nat 64) :
    ∃ v p, ((g.writeLanes active d n f).raise fl).withNames ns =
      { g with v := v, vPoison := p, fflags := g.fflags ||| fl, names := ns } := by
  rw [Group.writeLanes_rest]
  exact ⟨_, _, rfl⟩

/-- A register that takes a name: its value, its poison and the names of its group change. -/
theorem Group.takeName_spec (g : Group) (r name : Nat) (p : PhysReg) :
    ∃ x ns, g.takeName r name p = { g.setV r p.value with vPoison := x, names := ns } := by
  unfold Group.takeName
  dsimp only
  split <;> exact ⟨_, _, rfl⟩

/-- The first n destinations of a reuse hit. -/
def Group.takeResults (g : Group) (pool : Map PhysReg) (d : Nat) (e : ReuseEntry) (n : Nat) : Group :=
  (List.range n).foldl (fun (g : Group) k =>
    match pool.look (e.results.getD k 2048) with
    | some p => g.takeName (d + k) (e.results.getD k 2048) p
    | none => g) g

/-- The destinations of a reuse hit take the values of their physical registers. -/
theorem Group.takeResults_spec (g : Group) (pool : Map PhysReg) (d : Nat) (e : ReuseEntry) (n : Nat)
    (hp : ∀ k, k < n → (pool.look (e.results.getD k 2048)).isSome) (hd : d + n ≤ 64) :
    (∀ k p, k < n → pool.look (e.results.getD k 2048) = some p → (g.takeResults pool d e n).vreg (d + k) = p.value)
      ∧ (∀ r, r < d ∨ d + n ≤ r → (g.takeResults pool d e n).vreg r = g.vreg r)
      ∧ ∃ v x ns, g.takeResults pool d e n = { g with v := v, vPoison := x, names := ns } := by
  induction n with
  | zero => exact ⟨fun k p hk => by omega, fun _ _ => rfl, g.v, g.vPoison, g.names, rfl⟩
  | succ n ih =>
    obtain ⟨h4, h5, v, x, ns, h6⟩ := ih (fun k hk => hp k (by omega)) (by omega)
    obtain ⟨p, hpn⟩ := Option.isSome_iff_exists.mp (hp n (by omega))
    obtain ⟨y, ns', a2⟩ := (g.takeResults pool d e n).takeName_spec (d + n) (e.results.getD n 2048) p
    have hs : g.takeResults pool d e (n + 1) = { (g.takeResults pool d e n).setV (d + n) p.value with vPoison := y, names := ns' } := by
      rw [← a2]
      unfold Group.takeResults
      rw [List.range_succ, List.foldl_append]
      simp only [List.foldl_cons, List.foldl_nil, hpn]
    rw [hs]
    refine ⟨?_, ?_, ?_⟩
    · intro k p' hk hp'
      by_cases hkn : k = n
      · subst hkn
        rw [hpn] at hp'; cases hp'
        exact Group.setV_vreg_same _ (by omega) p.value
      · exact (Group.setV_vreg_ne _ (show d + k ≠ d + n by omega) p.value).trans (h4 k p' (by omega) hp')
    · intro r hr
      exact (Group.setV_vreg_ne _ (show r ≠ d + n by omega) p.value).trans (h5 r (by omega))
    · rw [h6]; exact ⟨_, _, _, rfl⟩

/-- Releasing names touches the quadrant alone. -/
theorem State.releaseNames_touch (s : State) (gid q : Nat) (l : List Nat) :
    GroupTouch s (l.foldl (fun s n => s.releaseName q n) s) gid q ∧ (l.foldl (fun s n => s.releaseName q n) s).groups = s.groups := by
  induction l generalizing s with
  | nil => exact ⟨.refl .., rfl⟩
  | cons a l ih =>
    obtain ⟨h1, h2⟩ := State.releaseName_touch s gid q a
    obtain ⟨h3, h4⟩ := ih (s.releaseName q a)
    exact ⟨h1.trans h3, h4.trans h2⟩

/-- A reuse hit: the destinations take the entry's values, its flags are raised, nothing else of the group changes. -/
theorem State.reuseHit_spec {s : State} {gid : Nat} {g : Group} (h : s.groups.look gid = some g) (q d : Nat) (e : ReuseEntry)
    (hp : ∀ k, k < e.results.length → ((s.quad q).pool.look (e.results.getD k 2048)).isSome) (hd : d + e.results.length ≤ 64) :
    GroupTouch s (s.reuseHit q gid d e) gid q
      ∧ ∃ g', (s.reuseHit q gid d e).groups.look gid = some g'
      ∧ (∀ k p, k < e.results.length → (s.quad q).pool.look (e.results.getD k 2048) = some p → g'.vreg (d + k) = p.value)
      ∧ (∀ r, r < d ∨ d + e.results.length ≤ r → g'.vreg r = g.vreg r)
      ∧ ∃ v x ns, g' = { g with v := v, vPoison := x, names := ns, fflags := g.fflags ||| e.flags } := by
  generalize hs1 : (s.modQuad q fun x => { x with hits := x.hits + 1, reuse := (x.reuse.filter fun y => y != e) ++ [e] }) = s1
  have hpool : (s1.quad q).pool = (s.quad q).pool := by
    subst hs1; unfold State.modQuad State.quad; rw [Map.lookD_put_same]
  have h1 : s1.groups.look gid = some g := by subst hs1; exact h
  obtain ⟨a4, a5, v, x, ns, a6⟩ := g.takeResults_spec (s.quad q).pool d e e.results.length hp hd
  have hred : ∃ l : List Nat, s.reuseHit q gid d e
      = l.foldl (fun s n => s.releaseName q n) (s1.modGroup gid fun g => (g.takeResults (s.quad q).pool d e e.results.length).raise e.flags) := by
    rw [← hpool, ← hs1]; exact ⟨_, rfl⟩
  obtain ⟨l, hl⟩ := hred
  rw [hl]
  obtain ⟨b1, b2⟩ := State.releaseNames_touch
    (s1.modGroup gid fun g => (g.takeResults (s.quad q).pool d e e.results.length).raise e.flags) gid q l
  refine ⟨((show GroupTouch s s1 gid q by subst hs1; exact .modQuad ..).trans (.modGroup ..)).trans b1,
    (g.takeResults (s.quad q).pool d e e.results.length).raise e.flags, by rw [b2]; exact State.modGroup_look h1 _, a4, a5, v, x, ns, ?_⟩
  rw [a6]; rfl

/-- What a body without a reuse hit leaves is what the row says. -/
theorem laneBody_computes {r : LaneRow} {s : State} {cx : Cx} {f : Cx → Word → (Nat → BitVec 128) × FlagSet}
    (hv : f cx (cx.active r.op.guard) = r.value cx (cx.active r.op.guard)) (hd : r.op.d + r.op.n ≤ 64) (ha : s.issuer = some cx)
    (hm : r.hit s cx = none) :
    ∃ g, RegsOnly s (laneBody r.op f cx s) cx g
        (chargeOf (s.weight cx.core (classOf r.op.key)) (classOf r.op.key) (Bits.popcount (cx.active r.op.guard)) (cx.grp.narrowSources r.op.vr))
      ∧ (∀ k l, k < r.op.n → l < 32 → g.vlane (r.op.d + k) l =
          if (cx.active r.op.guard).getLsbD l then ((r.value cx (cx.active r.op.guard)).1 l).extractLsb' (32 * k) 32
          else cx.grp.vlane (r.op.d + k) l)
      ∧ cx.grp.KeepsV g r.op.d r.op.n ∧ cx.grp.KeepsG g [] ∧ cx.grp.KeepsM g [] ∧ cx.grp.KeepsJ g []
      ∧ g.fflags = cx.grp.fflags ||| (r.value cx (cx.active r.op.guard)).2 := by
  obtain ⟨t, ns, h1, h2, h3⟩ := laneBody_miss (f := f) ha (fun hc => by unfold LaneRow.hit at hm; rwa [if_pos hc] at hm)
  rw [hv] at h3
  have hl : ∀ k l, k < r.op.n → l < 32 → (((cx.grp.writeLanes (cx.active r.op.guard) r.op.d r.op.n (r.value cx (cx.active r.op.guard)).1).raise
          (r.value cx (cx.active r.op.guard)).2).withNames ns).vlane (r.op.d + k) l =
          if (cx.active r.op.guard).getLsbD l then ((r.value cx (cx.active r.op.guard)).1 l).extractLsb' (32 * k) 32
          else cx.grp.vlane (r.op.d + k) l := fun k l hk hl => Group.writeLanes_vlane _ _ _ hd hk hl
  have hk : cx.grp.KeepsV (((cx.grp.writeLanes (cx.active r.op.guard) r.op.d r.op.n (r.value cx (cx.active r.op.guard)).1).raise
          (r.value cx (cx.active r.op.guard)).2).withNames ns) r.op.d r.op.n := fun q hq => Group.writeLanes_keeps _ _ _ _ _ _ hq
  obtain ⟨v, p, hg⟩ := Group.written_rest cx.grp (cx.active r.op.guard) r.op.d r.op.n (r.value cx (cx.active r.op.guard)).1
    (r.value cx (cx.active r.op.guard)).2 ns
  rw [hg] at h3 hl hk
  have hreg := RegsOnly.of_retire ha h2 h3 rfl rfl rfl (chargeOf (s.weight cx.core (classOf r.op.key)) (classOf r.op.key)
    (Bits.popcount (cx.active r.op.guard)) (cx.grp.narrowSources r.op.vr))
  rw [← h1] at hreg
  exact ⟨_, hreg, hl, hk, fun _ _ => rfl, fun _ _ => rfl, fun _ _ => rfl, rfl⟩

/-- What a body with a reuse hit leaves is what the row says. -/
theorem laneBody_hits {r : LaneRow} {s : State} {cx : Cx} {e : ReuseEntry} (f : Cx → Word → (Nat → BitVec 128) × FlagSet)
    (hd : r.op.d + r.op.n ≤ 64) (ha : s.issuer = some cx) (hh : r.hit s cx = some e)
    (hl : e.results.length = r.op.n) (hp : ∀ k, k < r.op.n → ((s.quad cx.quad).pool.look (e.results.getD k 2048)).isSome) :
    ∃ g, RegsOnly s (laneBody r.op f cx s) cx g 0
      ∧ (∀ k p, k < r.op.n → (s.quad cx.quad).pool.look (e.results.getD k 2048) = some p → g.vreg (r.op.d + k) = p.value)
      ∧ cx.grp.KeepsV g r.op.d r.op.n ∧ cx.grp.KeepsG g [] ∧ cx.grp.KeepsM g [] ∧ cx.grp.KeepsJ g []
      ∧ g.fflags = cx.grp.fflags ||| e.flags := by
  have hi := (State.issuer_spec ha).1
  have hc : (r.op.candidate && cx.reuses) = true := by
    unfold LaneRow.hit at hh; split at hh
    · assumption
    · cases hh
  have hfind : s.reuseFind cx.quad (r.op.reuseKey cx (cx.active r.op.guard)) = some e := by
    unfold LaneRow.hit at hh; rwa [if_pos hc] at hh
  have hpool : ((s.countLookup cx.quad).quad cx.quad).pool = (s.quad cx.quad).pool := by
    unfold State.countLookup State.modQuad State.quad; rw [Map.lookD_put_same]
  have hi' : (s.countLookup cx.quad).groups.look cx.gid = some cx.grp := hi
  obtain ⟨h1, g, h2, h3, h4, v, x, ns, h5⟩ := State.reuseHit_spec hi' cx.quad r.op.d e (by rw [hpool, hl]; exact hp) (by rw [hl]; exact hd)
  rw [hpool, hl] at h3
  rw [hl] at h4
  subst h5
  have hb : laneBody r.op f cx s = ((s.countLookup cx.quad).reuseHit cx.quad cx.gid r.op.d e).retire cx 0 := by
    unfold laneBody; simp only [hc, if_true, hfind]
  have hreg := RegsOnly.of_retire ha ((GroupTouch.modQuad ..).trans h1) h2 rfl rfl rfl 0
  rw [← hb] at hreg
  exact ⟨_, hreg, h3, h4,
    fun _ _ => rfl, fun _ _ => rfl, fun _ _ => rfl, rfl⟩

/-- An instruction whose admitted effect is a lane body does what its row says. -/
theorem laneBody_executes {r : LaneRow} {cx : Cx} (f : Cx → Word → (Nat → BitVec 128) × FlagSet)
    (he : ∀ s, Admits s cx r.op.uses → exec r.instr s = .next (laneBody r.op f cx s))
    (hv : f cx (cx.active r.op.guard) = r.value cx (cx.active r.op.guard))
    (hd : wellFormed 64 r.instr = true → r.op.d + r.op.n ≤ 64) : r.ComputesAt cx ∧ r.HitsAt cx := by
  refine ⟨fun s hwf ha hm => ?_, fun s e hwf ha hh hl hp => ?_⟩
  · obtain ⟨g, h⟩ := laneBody_computes hv (hd hwf) ha.issuer hm
    exact ⟨_, g, he s ha, h⟩
  · obtain ⟨g, h⟩ := laneBody_hits f (hd hwf) ha.issuer hh hl hp
    exact ⟨_, g, he s ha, h⟩

/-- A lane-set instruction does what its row says. -/
theorem laneWhole_executes {r : LaneRow} (he : exec r.instr = laneWhole r.op r.value) (hd : wellFormed 64 r.instr = true → r.op.d + r.op.n ≤ 64)
    (hk : r.Keyed) : r.Executes :=
  ⟨hk, fun cx => laneBody_executes r.value (fun s ha => by rw [he]; unfold laneWhole; rw [gate_admits ha]) rfl hd⟩

/-- Writing lanes of a run, naming the run and retiring. -/
theorem RegsOnly.of_writeLanes {s : State} {cx : Cx} (hs : s.issuer = some cx) (active : Word) {d n : Nat} (f : Nat → BitVec 128)
    (hd : d + n ≤ 64) (c : Nat) :
    ∃ g, RegsOnly s (((s.modGroup cx.gid fun g => g.writeLanes active d n f).nameRegs cx.quad cx.gid d n).retire cx c) cx g c
      ∧ (∀ k l, k < n → l < 32 → g.vlane (d + k) l =
          if active.getLsbD l then (f l).extractLsb' (32 * k) 32 else cx.grp.vlane (d + k) l)
      ∧ cx.grp.KeepsV g d n ∧ cx.grp.KeepsG g [] ∧ cx.grp.KeepsM g [] ∧ cx.grp.KeepsJ g [] ∧ g.fflags = cx.grp.fflags := by
  have hi := (State.issuer_spec hs).1
  have h1 := State.modGroup_look hi fun g => g.writeLanes active d n f
  obtain ⟨h2, ns, h3⟩ := State.nameRegs_spec h1 cx.quad d n
  have hl : ∀ k l, k < n → l < 32 → ((cx.grp.writeLanes active d n f).withNames ns).vlane (d + k) l =
      if active.getLsbD l then (f l).extractLsb' (32 * k) 32 else cx.grp.vlane (d + k) l :=
    fun k l hk hl => Group.writeLanes_vlane _ _ _ hd hk hl
  have hk : cx.grp.KeepsV ((cx.grp.writeLanes active d n f).withNames ns) d n := fun q hq => Group.writeLanes_keeps _ _ _ _ _ _ hq
  have hg : ∃ v p, (cx.grp.writeLanes active d n f).withNames ns = { cx.grp with v := v, vPoison := p, names := ns } := by
    rw [Group.writeLanes_rest]; exact ⟨_, _, rfl⟩
  obtain ⟨v, p, hg⟩ := hg
  rw [hg] at h3 hl hk
  have hreg := RegsOnly.of_retire hs ((GroupTouch.modGroup s cx.gid cx.quad _).trans h2) h3 rfl rfl rfl c
  exact ⟨_, hreg, hl, hk, fun _ _ => rfl, fun _ _ => rfl, fun _ _ => rfl, rfl⟩

theorem State.weight_touch {s t : State} {gid q : Nat} (h : GroupTouch s t gid q) (c k : Nat) : t.weight c k = s.weight c k := by
  unfold State.weight; rw [show t.wtabs = s.wtabs from (congrArg State.wtabs h.rest).trans rfl]

end Sys2Proof.Machine
end

