-- ==== Sys2Proof/Tests/Slice0.lean ====
section
/-! SUPPORT. Tests: words written out from the spec's encodings, the well-formedness checks, the spec's worked examples, and for each statement a
state and operands that meet its hypotheses. -/

open Sys2Proof Sys2Proof.Machine

set_option Elab.async false

theorem test_decode_lane0 : ∀ p ∈ (
  [(0x0000FF00, .iadd 0 15 60 0), (0x00203105, .isub 0 3 4 5), (0x0048420C, .imul 2 4 8 12), (0x0068420C, .imulhS 2 4 8 12)
  , (0x008061C8, .imulhZ 0 6 7 8), (0x00A01083, .iaddSatS 0 1 2 3), (0x00C8420C, .iaddSatZ 2 4 8 12), (0x00E8420C, .isubSatS 2 4 8 12)
  , (0x0108420C, .isubSatZ 2 4 8 12), (0x0128420C, .iminS 2 4 8 12), (0x0148420C, .iminZ 2 4 8 12), (0x0168420C, .imaxS 2 4 8 12)
  , (0x0188420C, .imaxZ 2 4 8 12), (0x01AC2240, .iabs 3 2 9), (0x01C050C0, .ineg 0 5 3), (0x02004188, .iadd64 0 4 6 8)
  , (0x023CA283, .iadd64S 7 10 10 3), (0x0248420C, .iadd64Z 2 4 8 12), (0x0268420C, .isub64 2 4 8 12), (0x0288420C, .imulwS 2 4 8 12)
  , (0x02A02105, .imulwZ 0 2 4 5)] : List (Nat × Instr)), decodeTableWord 32 p.1 = some p.2 := by decide +kernel
theorem test_decode_lane1 : ∀ p ∈ (
  [(0x08001083, .and 0 1 2 3), (0x0828420C, .or 2 4 8 12), (0x0848420C, .xor 2 4 8 12), (0x0868420C, .andn 2 4 8 12)
  , (0x08884200, .not 2 4 8), (0x08A8420C, .shl 2 4 8 12), (0x08C04146, .shr 0 4 5 6), (0x08E8420C, .sar 2 4 8 12)
  , (0x0908420C, .rol 2 4 8 12), (0x09201080, .popc 0 1 2), (0x09484200, .clz 2 4 8), (0x09684200, .brev 2 4 8)
  , (0x09802089, .shl64 0 2 2 9), (0x09A8420C, .shr64 2 4 8 12), (0x09C8420C, .sar64 2 4 8 12), (0x09E831C0, .mov 2 3 7)] : List (Nat × Instr)), decodeTableWord 32 p.1 = some p.2 := by decide +kernel
theorem test_decode_lane2 : ∀ p ∈ (
  [(0x101C3146, .icmpEq 7 3 5 6), (0x1028320C, .icmpNe 2 3 8 12), (0x104020C4, .icmpLtS 0 2 3 4), (0x1068320C, .icmpLeS 2 3 8 12)
  , (0x1088320C, .icmpGtS 2 3 8 12), (0x10A8320C, .icmpGeS 2 3 8 12), (0x10C8320C, .icmpLtZ 2 3 8 12), (0x10E8320C, .icmpLeZ 2 3 8 12)
  , (0x1108320C, .icmpGtZ 2 3 8 12), (0x1128320C, .icmpGeZ 2 3 8 12), (0x1208320C, .fcmpEq 2 3 8 12), (0x1228320C, .fcmpNe 2 3 8 12)
  , (0x12401083, .fcmpLt 0 1 2 3), (0x1268320C, .fcmpLe 2 3 8 12), (0x1288320C, .fcmpGt 2 3 8 12), (0x12A8320C, .fcmpGe 2 3 8 12)
  , (0x12C8320C, .fcmpNan 2 3 8 12), (0x1308320C, .dcmpEq 2 3 8 12), (0x1328320C, .dcmpNe 2 3 8 12), (0x1348320C, .dcmpLt 2 3 8 12)
  , (0x1368320C, .dcmpLe 2 3 8 12), (0x1388320C, .dcmpGt 2 3 8 12), (0x13A8320C, .dcmpGe 2 3 8 12), (0x13C02106, .dcmpNan 0 2 4 6)
  , (0x14001100, .v2m 0 1 4), (0x14205080, .m2v 0 5 2)] : List (Nat × Instr)), decodeTableWord 32 p.1 = some p.2 := by decide +kernel
theorem test_decode_lane3 : ∀ p ∈ (
  [(0x18001083, .fadd 0 1 2 3), (0x1828420C, .fsub 2 4 8 12), (0x185C4103, .fmul 7 4 4 3), (0x1868420C, .fmin 2 4 8 12)
  , (0x1888420C, .fmax 2 4 8 12), (0x18A84200, .fabs 2 4 8), (0x18C420C0, .fneg 1 2 3), (0x1908420C, .faddH2 2 4 8 12)
  , (0x1928420C, .fsubH2 2 4 8 12), (0x19404146, .fmulH2 0 4 5 6), (0x1968420C, .fminH2 2 4 8 12), (0x1988420C, .fmaxH2 2 4 8 12)
  , (0x1A08420C, .faddB2 2 4 8 12), (0x1A28420C, .fsubB2 2 4 8 12), (0x1A48420C, .fmulB2 2 4 8 12), (0x1A68420C, .fminB2 2 4 8 12)
  , (0x1A9C7209, .fmaxB2 7 7 8 9)] : List (Nat × Instr)), decodeTableWord 32 p.1 = some p.2 := by decide +kernel
theorem test_decode_lane4 : ∀ p ∈ (
  [(0x20002106, .dadd 0 2 4 6), (0x2028420C, .dsub 2 4 8 12), (0x2048420C, .dmul 2 4 8 12), (0x2068420C, .dmin 2 4 8 12)
  , (0x2088420C, .dmax 2 4 8 12), (0x20A84200, .dabs 2 4 8), (0x20C84200, .dneg 2 4 8), (0x22001080, .frcp 0 1 2)
  , (0x22284200, .frsq 2 4 8), (0x22484200, .fexp2 2 4 8), (0x22684200, .flog2 2 4 8), (0x22803100, .fsin 0 3 4)
  , (0x22A84200, .fcos 2 4 8), (0x23084200, .frcpH2 2 4 8), (0x23284200, .frsqH2 2 4 8), (0x23405180, .fexp2H2 0 5 6)
  , (0x23684200, .flog2H2 2 4 8)] : List (Nat × Instr)), decodeTableWord 32 p.1 = some p.2 := by decide +kernel
theorem test_decode_lane5 : ∀ p ∈ (
  [(0x28084200, .i2fS 2 4 8), (0x28202000, .i2fZ 0 2 0), (0x28484200, .f2iS 2 4 8), (0x28603100, .f2iSTz 0 3 4), (0x28884200, .f2iZ 2 4 8)
  , (0x28A84200, .f2iZTz 2 4 8), (0x28C84200, .i2dS 2 4 8), (0x28E84200, .i2dZ 2 4 8), (0x29084200, .d2iS 2 4 8)
  , (0x29284200, .d2iSTz 2 4 8), (0x29484200, .d2iZ 2 4 8), (0x29684200, .d2iZTz 2 4 8), (0x29884200, .f2d 2 4 8)
  , (0x29A01080, .d2f 0 1 2), (0x29C04146, .f2h2 0 4 5 6), (0x29E84200, .h2fLo 2 4 8), (0x2A003100, .h2fHi 0 3 4)
  , (0x2A28420C, .f2b2 2 4 8 12), (0x2A405180, .b2fLo 0 5 6), (0x2A684200, .b2fHi 2 4 8), (0x2C008043, .nscale 0 8 1 3)
  , (0x2C208043, .npack 0 8 1 3), (0x2C409203, .nunpk 0 9 8 3)] : List (Nat × Instr)), decodeTableWord 32 p.1 = some p.2 := by decide +kernel
theorem test_decode_lane6 : ∀ p ∈ (
  [(0x300420C4, .ffma 1 2 3 4), (0x31108310, .ffms 4 8 12 16), (0x32108310, .fnma 4 8 12 16), (0x33108310, .ffmaH2 4 8 12 16)
  , (0x341461C8, .ffmaB2 5 6 7 8), (0x35084188, .dfma 2 4 6 8), (0x36108310, .dfms 4 8 12 16), (0x37108310, .dfnma 4 8 12 16)] : List (Nat × Instr)), decodeTableWord 32 p.1 = some p.2 := by decide +kernel
theorem test_decode_lane7 : ∀ p ∈ (
  [(0x380420C4, .imad 1 2 3 4), (0x39108310, .imadwS 4 8 12 16), (0x3A084146, .imadwZ 2 4 5 6), (0x3B0420C4, .sel 1 2 3 4)
  , (0x3C106201, .sel64 4 6 8 1)] : List (Nat × Instr)), decodeTableWord 32 p.1 = some p.2 := by decide +kernel
theorem test_decode_lane8 : ∀ p ∈ (
  [(0x4020C301, .iaddImm 2 3 3 1), (0x40A10801, .imulImm 2 4 8 1), (0x410146FF, .andImm 0 5 6 255), (0x41A10801, .orImm 2 4 8 1)
  , (0x42210801, .xorImm 2 4 8 1), (0x42A10801, .shlImm 2 4 8 1), (0x43004103, .shrImm 0 1 1 3), (0x43A10801, .sarImm 2 4 8 1)
  , (0x440082FD, .icmpEqImm 0 2 2 253), (0x44A0C801, .icmpNeImm 2 3 8 1), (0x4520C801, .icmpLtSImm 2 3 8 1)
  , (0x45A0C801, .icmpGtSImm 2 3 8 1), (0x46004010, .icmpLtZImm 0 1 0 16), (0x46810027, .icmpGtZImm 0 4 0 39)] : List (Nat × Instr)), decodeTableWord 32 p.1 = some p.2 := by decide +kernel
theorem test_decode_lane9 : ∀ p ∈ (
  [(0x48008148, .bfxZ 0 2 1 2 8), (0x48A10821, .bfxS 2 4 8 1 1), (0x49008314, .bfi 0 2 3 0 20), (0x49800001, .lseq 0 0 0 1)] : List (Nat × Instr)), decodeTableWord 32 p.1 = some p.2 := by decide +kernel
theorem test_decode_laneA : ∀ p ∈ (
  [(0x5001FFFE, .ldi 0 1 65534), (0x52011234, .ldih 0 1 4660), (0x54410001, .addih 1 1 1)] : List (Nat × Instr)), decodeTableWord 32 p.1 = some p.2 := by decide +kernel
theorem test_decode_laneB : ∀ p ∈ (
  [(0x58084204, .ldZb 2 4 8 4), (0x58484204, .ldSb 2 4 8 4), (0x58884204, .ldZh 2 4 8 4), (0x58C84204, .ldSh 2 4 8 4)
  , (0x590841C2, .ldW 2 4 7 2), (0x59402207, .ldD 0 2 8 7), (0x59844081, .ldQ 1 4 2 1), (0x5A001103, .ldWAcqDev 0 1 4 3)
  , (0x5A484204, .ldDAcqDev 2 4 8 4), (0x5A884204, .ldWAcqSys 2 4 8 4), (0x5AC84204, .ldDAcqSys 2 4 8 4)] : List (Nat × Instr)), decodeTableWord 32 p.1 = some p.2 := by decide +kernel
theorem test_decode_laneC : ∀ p ∈ (
  [(0x60010204, .stB 16 8 4), (0x604040C3, .stH 4 3 3), (0x60806142, .stW 6 5 2), (0x60C10204, .stD 16 8 4), (0x61004086, .stQ 4 2 6)
  , (0x62010204, .stWRelDev 16 8 4), (0x62410204, .stDRelDev 16 8 4), (0x62810204, .stWRelSys 16 8 4), (0x62C02287, .stDRelSys 2 10 7)
  , (0x6400420C, .ldsZb 4 8 1 4), (0x6440420C, .ldsSb 4 8 1 4), (0x6480420C, .ldsZh 4 8 1 4), (0x64C0420C, .ldsSh 4 8 1 4)
  , (0x65001098, .ldsW 1 2 3 0), (0x6540420C, .ldsD 4 8 1 4), (0x65804001, .ldsQ 4 0 0 1), (0x6601020C, .stsB 16 8 1 4)
  , (0x6641020C, .stsH 16 8 1 4), (0x6681020C, .stsW 16 8 1 4), (0x66C1020C, .stsD 16 8 1 4), (0x670080C1, .stsQ 8 3 0 1)
  , (0x67405180, .atsAdd 5 6 0 0), (0x6780420C, .atsXchg 4 8 1 4), (0x67C04180, .atsCas 4 6 0 0)] : List (Nat × Instr)), decodeTableWord 32 p.1 = some p.2 := by decide +kernel
theorem test_decode_laneD : ∀ p ∈ (
  [(0x68003284, .atomAdd 0 0 3 5 0 4), (0x6C48444C, .atomAnd 1 2 4 8 1 12), (0x6C88444C, .atomOr 1 2 4 8 1 12)
  , (0x6CC8444C, .atomXor 1 2 4 8 1 12), (0x6D08444C, .atomXchg 1 2 4 8 1 12), (0x6D442346, .atomCas 1 1 2 6 1 6)
  , (0x6D88444C, .atomMinS 1 2 4 8 1 12), (0x6DC8444C, .atomMaxS 1 2 4 8 1 12), (0x6E08444C, .atomMinZ 1 2 4 8 1 12)
  , (0x6E48444C, .atomMaxZ 1 2 4 8 1 12), (0x6A801084, .atomFadd 0 0 1 1 0 4), (0x6EC8444C, .atomAddD 1 2 4 8 1 12)
  , (0x6F08444C, .atomXchgD 1 2 4 8 1 12), (0x6B404008, .atomCasD 0 0 4 0 0 8), (0x6F88444C, .atomMinZD 1 2 4 8 1 12)
  , (0x6FC8444C, .atomMaxZD 1 2 4 8 1 12)] : List (Nat × Instr)), decodeTableWord 32 p.1 = some p.2 := by decide +kernel
theorem test_decode_laneE : ∀ p ∈ (
  [(0x70001881, .xlnBack 3 4 1), (0x70202110, .xlnAhead 4 8 16), (0x704028C3, .xlnRot 5 6 3), (0x70600850, .xlnFlip 1 2 16)
  , (0x70802110, .xlnPick 4 8 16), (0x70A02100, .xlnVar 4 8), (0x71002100, .redsIadd 4 8), (0x71202100, .redsIminS 4 8)
  , (0x71402100, .redsImaxS 4 8), (0x71602100, .redsIminZ 4 8), (0x71802100, .redsImaxZ 4 8), (0x71A02100, .redsAnd 4 8)
  , (0x71C02100, .redsOr 4 8), (0x71E02100, .redsXor 4 8), (0x720028C0, .redsFadd 5 6), (0x72202100, .redsFmin 4 8)
  , (0x72402100, .redsFmax 4 8), (0x72601080, .redsDadd 2 4), (0x74003901, .scanIadd 7 8 1), (0x74202101, .scanIminS 4 8 1)
  , (0x74402101, .scanImaxS 4 8 1), (0x74602101, .scanIminZ 4 8 1), (0x74802101, .scanImaxZ 4 8 1), (0x74A02101, .scanAnd 4 8 1)
  , (0x74C02101, .scanOr 4 8 1), (0x74E02101, .scanXor 4 8 1), (0x75002101, .scanFadd 4 8 1), (0x75202101, .scanFmin 4 8 1)
  , (0x75402101, .scanFmax 4 8 1), (0x75602101, .scanDadd 4 8 1), (0x76000100, .mbq 8), (0x76222042, .mdrain 1 4 2 2)
  , (0x76202048, .mdrainRaw 0 4 2 0), (0x76402840, .mfill 5 2)] : List (Nat × Instr)), decodeTableWord 32 p.1 = some p.2 := by decide +kernel
theorem test_decode_group0 : ∀ p ∈ (
  [(0x80001083, .gadd 0 1 2 3), (0x80244146, .gsub 1 4 5 6), (0x8044420C, .gmul 1 4 8 12), (0x8064420C, .gmulhS 1 4 8 12)
  , (0x80807209, .gmulhZ 0 7 8 9), (0x80A4420C, .gminS 1 4 8 12), (0x80C4420C, .gmaxS 1 4 8 12), (0x80E8420C, .gminZ 2 4 8 12)
  , (0x8108420C, .gmaxZ 2 4 8 12), (0x81201080, .gneg 0 1 2)] : List (Nat × Instr)), decodeTableWord 32 p.1 = some p.2 := by decide +kernel
theorem test_decode_group1 : ∀ p ∈ (
  [(0x8804420C, .gand 1 4 8 12), (0x8824420C, .gor 1 4 8 12), (0x8844420C, .gxor 1 4 8 12), (0x8864420C, .gandn 1 4 8 12)
  , (0x88844200, .gnot 1 4 8), (0x88A020C4, .gshl 0 2 3 4), (0x88C4420C, .gshr 1 4 8 12), (0x88E4420C, .gsar 1 4 8 12)
  , (0x89101080, .gpopc 4 1 2), (0x89244200, .gclz 1 4 8), (0x89444200, .gbrev 1 4 8)] : List (Nat × Instr)), decodeTableWord 32 p.1 = some p.2 := by decide +kernel
theorem test_decode_group2 : ∀ p ∈ (
  [(0x90141083, .gcmpEq 5 1 2 3), (0x9024320C, .gcmpNe 1 3 8 12), (0x9044320C, .gcmpLtS 1 3 8 12), (0x9064320C, .gcmpLeS 1 3 8 12)
  , (0x90803105, .gcmpLtZ 0 3 4 5), (0x90A8320C, .gcmpLeZ 2 3 8 12), (0x91001083, .gselNz 1 2 3), (0x92004240, .movG 4 9)
  , (0x922451C2, .v2g 1 5 7 2), (0x92443240, .g2v 1 3 9), (0x92605002, .s2g 5 2), (0x92804022, .s2gc 4 34)] : List (Nat × Instr)), decodeTableWord 32 p.1 = some p.2 := by decide +kernel
theorem test_decode_group3 : ∀ p ∈ (
  [(0x98061FFF, .gaddImm 3 3 2047), (0x98884001, .gmulImm 4 8 1), (0x99084001, .gandImm 4 8 1), (0x99884001, .gorImm 4 8 1)
  , (0x9A084001, .gxorImm 4 8 1), (0x9A841006, .gshlImm 2 2 6), (0x9B084001, .gshrImm 4 8 1), (0x9B884001, .gsarImm 4 8 1)
  , (0x9C021800, .gcmpEqImm 1 3 0), (0x9C864001, .gcmpLtSImm 3 8 1), (0x9D021064, .gcmpLtZImm 1 2 100)] : List (Nat × Instr)), decodeTableWord 32 p.1 = some p.2 := by decide +kernel
theorem test_decode_group4 : ∀ p ∈ (
  [(0xA1041234, .gldq 2 4 4660), (0xA284ABCD, .ginsq 1 4 43981), (0xA584FFFF, .gaddq 3 4 65535)] : List (Nat × Instr)), decodeTableWord 32 p.1 = some p.2 := by decide +kernel
theorem test_decode_group5 : ∀ p ∈ (
  [(0xA8000010, .bra 16), (0xA9400008, .braAny 2 8), (0xAA400008, .braNone 2 8), (0xAB67FFFB, .braD 3 1 262139), (0xAC000100, .call 256)
  , (0xAD040000, .join 1)] : List (Nat × Instr)), decodeTableWord 32 p.1 = some p.2 := by decide +kernel
theorem test_decode_group6 : ∀ p ∈ (
  [(0xB0001083, .mand 1 2 3), (0xB0201083, .mor 1 2 3), (0xB0401083, .mxor 1 2 3), (0xB0601083, .mandn 1 2 3), (0xB0802040, .mnot 2 1)
  , (0xB0A05080, .m2g 5 2), (0xB0C03240, .g2m 3 9), (0xB0E02040, .mpopc 2 1), (0xB1001080, .j2m 1 2), (0xB1201100, .m2j 1 4)
  , (0xB20031C0, .matchWord 3 7), (0xB2203200, .matchPair 3 8), (0xB2402140, .vote 2 5), (0xB2601000, .elect 1), (0xB3000F00, .ret 60)
  , (0xB32001C0, .brx 7), (0xB3400000, .exit)] : List (Nat × Instr)), decodeTableWord 32 p.1 = some p.2 := by decide +kernel
theorem test_decode_group7 : ∀ p ∈ (
  [(0xB8001053, .barInit 4 5 1), (0xB8101000, .barArv 4), (0xB8201060, .barArvb 4 6), (0xB8301060, .barExp 4 6)
  , (0xB8401070, .barWait 4 7), (0xB8501080, .barTest 4 8), (0xB8601000, .barInval 4), (0xB88028BD, .waita 10 11 1 5)
  , (0xB8902800, .wakea 10)] : List (Nat × Instr)), decodeTableWord 32 p.1 = some p.2 := by decide +kernel
theorem test_decode_group8 : ∀ p ∈ (
  [(0xC000290A, .cpyLd 10 16 10), (0xC01020CB, .cpySt 8 12 11), (0xC0200D40, .cpySc 3 20 0), (0xC03020C0, .cpyPf 8 12 0)
  , (0xC0800000, .cpySeal), (0xC0900002, .cpyWaitn 2)] : List (Nat × Instr)), decodeTableWord 32 p.1 = some p.2 := by decide +kernel
theorem test_decode_group9 : ∀ p ∈ (
  [(0xC8000001, .mres 1), (0xC8100000, .mrel), (0xC8202400, .mzero 9), (0xC8300000, .mfence), (0xC8400001, .mwait 1)
  , (0xCC10209A, .mma 0 1 8 9 10)] : List (Nat × Instr)), decodeTableWord 32 p.1 = some p.2 := by decide +kernel
theorem test_decode_groupA : ∀ p ∈ (
  [(0xD00220CC, .gldZb 2 8 12 12), (0xD01220CC, .gldSb 2 8 12 12), (0xD02220CC, .gldZh 2 8 12 12), (0xD03220CC, .gldSh 2 8 12 12)
  , (0xD0402450, .gldW 0 9 5 0), (0xD053086B, .gldD 3 2 6 11), (0xD08020CC, .gstB 8 12 12), (0xD09020CC, .gstH 8 12 12)
  , (0xD0A0107C, .gstW 4 7 12), (0xD0B028B0, .gstD 10 11 0), (0xD100203A, .gatomAdd 0 8 3 10), (0xD11220CC, .gatomAnd 2 8 12 12)
  , (0xD12220CC, .gatomOr 2 8 12 12), (0xD13220CC, .gatomXor 2 8 12 12), (0xD14220CC, .gatomXchg 2 8 12 12)
  , (0xD15220CC, .gatomCas 2 8 12 12), (0xD16220CC, .gatomMinS 2 8 12 12), (0xD17220CC, .gatomMaxS 2 8 12 12)
  , (0xD18220CC, .gatomMinZ 2 8 12 12), (0xD19220CC, .gatomMaxZ 2 8 12 12), (0xD1A220CC, .gatomFadd 2 8 12 12)
  , (0xD1B220CC, .gatomAddD 2 8 12 12), (0xD1C220CC, .gatomXchgD 2 8 12 12), (0xD1D004A0, .gatomCasD 0 1 10 0)
  , (0xD1E220CC, .gatomMinZD 2 8 12 12), (0xD1F220CC, .gatomMaxZD 2 8 12 12)] : List (Nat × Instr)), decodeTableWord 32 p.1 = some p.2 := by decide +kernel
theorem test_decode_groupB : ∀ p ∈ (
  [(0xD8001050, .qpost 4 5), (0xD8101870, .qsig 6 7), (0xD8200880, .qstat 2 8), (0xD8302400, .kabort 9), (0xD9002001, .region 8 1)
  , (0xD9100000, .regx), (0xD9800000, .rdenter), (0xD9900000, .rdexit), (0xD9A00000, .qpoint), (0xD9B00050, .gpstart 5)
  , (0xD9C01400, .gpwait 5), (0xD9D01460, .gppoll 5 6), (0xD9E02090, .gpfree 8 9)] : List (Nat × Instr)), decodeTableWord 32 p.1 = some p.2 := by decide +kernel
theorem test_decode_groupC : ∀ p ∈ (
  [(0xE0001000, .publ 4), (0xE0101000, .pdef 4), (0xE0201050, .presize 4 5), (0xE0301800, .tlbiPage 6), (0xE0301401, .tlbiAsid 5)
  , (0xE0300002, .tlbiAll), (0xE0301803, .tlbi2m 6), (0xE0301804, .tlbi1g 6), (0xE0401050, .pmig 4 5), (0xE0501080, .pclass 4 8)
  , (0xE0601080, .pstat 4 8), (0xE1001050, .coll 4 5), (0xE1101800, .pubv 6), (0xE1201870, .psub 6 7), (0xE1300880, .lstat 2 8)] : List (Nat × Instr)), decodeTableWord 32 p.1 = some p.2 := by decide +kernel
theorem test_decode_groupD : ∀ p ∈ (
  [(0xE8000000, .nop), (0xE8100005, .trap 5), (0xE8200000, .eret), (0xE8300000, .trapret), (0xE8400050, .sysr 0 5 0)
  , (0xE85004C1, .sysw 1 12 1), (0xE8600004, .fence 4), (0xE8700050, .time 5), (0xE8800060, .clock 6), (0xE8900000, .yield)
  , (0xE8A00000, .noreuse)] : List (Nat × Instr)), decodeTableWord 32 p.1 = some p.2 := by decide +kernel

/-! ### Well-formedness: for each check of R99 an instruction that it refuses, and one that it lets pass -/

/-- R94: a register at or above the declared count, and a pair at an odd register. -/
theorem test_wf_register : (∀ i ∈ [Instr.iadd 0 63 0 0, .iadd 0 0 63 0, .iadd 0 0 0 63, .ldW 0 63 0 0, .mbq 56], wellFormed 63 i = false)
    ∧ (∀ i ∈ [Instr.dadd 0 1 2 4, .dadd 0 2 1 4, .dadd 0 2 4 1, .ldQ 0 2 0 0, .mbq 4], wellFormed 64 i = false)
    ∧ wellFormed 64 (.iadd 0 63 63 63) = true ∧ wellFormed 64 (.dadd 0 62 62 62) = true ∧ wellFormed 64 (.mbq 56) = true := by
  decide +kernel

/-- R90: with gd = 7 the b operand is a g register and takes any number. -/
theorem test_wf_broadcast : wellFormed 8 (.iadd 7 0 0 63) = true ∧ wellFormed 8 (.iadd 0 0 0 63) = false := by decide +kernel

/-- R117: an address pair beyond the registers. -/
theorem test_wf_address_pair : wellFormed 62 (.atomAdd 0 0 0 31 0 0) = false ∧ wellFormed 64 (.atomAdd 0 0 0 31 0 0) = true := by
  decide +kernel

/-- R92: base 7 takes the address from a pair. -/
theorem test_wf_lane_address : wellFormed 64 (.ldW 0 0 1 7) = false ∧ wellFormed 64 (.ldW 0 0 1 6) = true := by decide +kernel

/-- R89: gd = 7 where there is no b operand. -/
theorem test_wf_guard : ∀ i ∈ [Instr.iabs 7 0 0, .iaddImm 7 0 0 0, .ldi 7 0 0, .v2m 7 1 0, .nscale 7 0 0 0], wellFormed 64 i = false := by
  decide +kernel

/-- R94: m0 as a destination. -/
theorem test_wf_mask_zero : ∀ i ∈ [Instr.icmpEq 0 0 0 0, .gcmpEq 0 0 0 0, .mand 0 1 1, .g2m 0 0, .vote 0 0, .elect 0, .mres 0],
    wellFormed 64 i = false := by decide +kernel

/-- R94: a run of g registers beyond g63. -/
theorem test_wf_run : wellFormed 64 (.cpyLd 0 61 0) = false ∧ wellFormed 64 (.cpyLd 0 60 0) = true ∧ wellFormed 64 (.region 63 1) = false
    ∧ wellFormed 64 (.region 63 0) = true ∧ wellFormed 64 (.gatomCas 0 0 63 0) = false := by decide +kernel

/-- R96, R269: width 7, and the widths that a signed or an unsigned minor does not have. -/
theorem test_wf_width : wellFormed 64 (.gadd 7 0 0 0) = false ∧ wellFormed 64 (.gmulhS 2 0 0 0) = false
    ∧ wellFormed 64 (.gmulhZ 1 0 0 0) = false ∧ wellFormed 64 (.gmulhS 5 0 0 0) = true ∧ wellFormed 64 (.gmulhZ 6 0 0 0) = true
    ∧ wellFormed 64 (.v2g 3 0 0 0) = false ∧ wellFormed 64 (.v2g 2 0 0 0) = true := by decide +kernel

/-- R62, R95: a scope of 6, an order nibble with a scope and no flag, a condition code of 6, a relaxed atomic with a scope bit. -/
theorem test_wf_order : wellFormed 64 (.fence 6) = false ∧ wellFormed 64 (.fence 5) = true ∧ wellFormed 64 (.gldW 0 0 0 4) = false
    ∧ wellFormed 64 (.gldW 0 0 0 14) = false ∧ wellFormed 64 (.gldW 0 0 0 13) = true ∧ wellFormed 64 (.waita 0 0 0 6) = false
    ∧ wellFormed 64 (.waita 0 0 0 5) = true ∧ wellFormed 64 (.atomAdd 0 0 0 0 1 0) = false ∧ wellFormed 64 (.atomAdd 1 0 0 0 1 0) = true := by
  decide +kernel

/-- R201, R202, R145: special and system registers that no row lists. -/
theorem test_wf_special : wellFormed 64 (.s2g 0 13) = false ∧ wellFormed 64 (.s2g 0 35) = true ∧ wellFormed 64 (.s2gc 0 35) = false
    ∧ wellFormed 64 (.s2gc 0 34) = true ∧ wellFormed 64 (.sysr 0 0 15) = false ∧ wellFormed 64 (.sysr 1 0 3) = false
    ∧ wellFormed 64 (.sysr 1 0 2) = true := by decide +kernel

/-! ### A small state: one group of one team on core 0 -/

namespace Sys2Proof.Tests

/-- The state of `placeWord` with its one split issuing. -/
def demo : State := { State.reset.placeWord 0xE8000000 with cur := some (32, 0), issueQ := [] }

/-- Its split. -/
def demoSp : Split := { pc := 0x20000, mask := BitVec.allOnes 32, tag := 0 }

/-- Its group, with g registers and vector registers set and a split. -/
def demoGrp (gs : List (Nat × DWord)) (vs : List (Nat × List Word)) (sp : Split) : Group :=
  { team := 1, index := 0, res := [(0, sp)], g := gs.foldl (fun x p => Bits.wr x p.1 p.2) (Vector.replicate 64 0)
    v := vs.foldl (fun x p => Bits.wr x p.1 (Bits.tab fun l => p.2.getD l 0)) (Vector.replicate 64 (Vector.replicate 32 0)) }

/-- The state with a group in place of its own. -/
def demoOf (g : Group) : State := { demo with groups := [(32, g)] }

/-- The state with registers set. -/
def demoRegs (gs : List (Nat × DWord)) (vs : List (Nat × List Word)) : State := demoOf (demoGrp gs vs demoSp)

/-- What issues in a state whose group is g and whose split is sp. -/
def demoCx (g : Group) (sp : Split) : Cx :=
  { gid := 32, k := 0, grp := g, sp := sp, uid := 1, team := { kernel := 1, linear := 0, slot := 0, core := 0 }, kern := fetchKernel
    ctx := fetchCtx }

/-- The group after an instruction, when it ends in a next state. -/
def grpAfter (i : Instr) (s : State) : Option Group :=
  match exec i s with
  | .next t => t.groups.look 32
  | _ => none

/-- A g register after an instruction. -/
def gAfter (i : Instr) (s : State) (r : Nat) : Option DWord := (grpAfter i s).map fun g => g.greg r

/-- The first lanes of a vector register after an instruction. -/
def vAfter (i : Instr) (s : State) (r n : Nat) : Option (List Word) := (grpAfter i s).map fun g => (List.range n).map (g.vlane r)

/-! ### The spec's worked examples -/

/-- "Wrap, saturation and high products" (10_integer.md). -/
theorem test_integer_table : ∀ p ∈ ([(.iadd 0 3 1 2, [0x80000010, 0x00000010, 0x80000020])
    , (.iaddSatS 0 3 1 2, [0x7FFFFFFF, 0x00000010, 0x80000020]), (.iaddSatZ 0 3 1 2, [0x80000010, 0xFFFFFFFF, 0x80000020])
    , (.isubSatS 0 3 1 2, [0x7FFFFFD0, 0xFFFFFFD0, 0x80000000]), (.isubSatZ 0 3 1 2, [0x7FFFFFD0, 0xFFFFFFD0, 0x7FFFFFE0])
    , (.imul 0 3 1 2, [0xFFFFFE00, 0xFFFFFE00, 0]), (.imulhS 0 3 1 2, [0xF, 0xFFFFFFFF, 0xFFFFFFF0])
    , (.imulhZ 0 3 1 2, [0xF, 0x1F, 0x10]), (.iminS 0 3 1 2, [0x20, 0xFFFFFFF0, 0x80000000]), (.iminZ 0 3 1 2, [0x20, 0x20, 0x20])
    , (.iabs 0 3 1, [0x7FFFFFF0, 0x10, 0x80000000])] : List (Instr × List Word)),
    vAfter p.1 (demoRegs [] [(1, [0x7FFFFFF0, 0xFFFFFFF0, 0x80000000]), (2, List.replicate 32 0x20)]) 3 3 = some p.2 := by decide +kernel

/-- "One pair of operands at several widths" (10_integer.md). -/
theorem test_width_table : ∀ p ∈ ([(.gadd 0 1 2 3, 0x180000001), (.gadd 1 1 2 3, 0xFFFFFFFF80000001), (.gadd 2 1 2 3, 0x80000001)
    , (.gminS 0 1 2 3, 1), (.gminS 1 1 2 3, 0xFFFFFFFF80000000), (.gmulhS 1 1 2 3, 0xFFFFFFFFFFFFFFFF), (.gclz 0 1 2, 31)
    , (.gclz 2 1 2, 0)] : List (Instr × DWord)), gAfter p.1 (demoRegs [(2, 0x180000000), (3, 1)] []) 1 = some p.2 := by decide +kernel

/-- "Lane addresses beyond a 32-bit carry" (10_integer.md): IMADW.z v2:v3, v0, v1, v4:v5. -/
theorem test_wide_multiply_add :
    let s := demoRegs [] [(0, (List.range 32).map fun l => BitVec.ofNat 32 (3 * l)), (1, List.replicate 32 0x100000)
      , (4, List.replicate 32 0xFFF80000), (5, List.replicate 32 0xF0)]
    (vAfter (.imadwZ 2 0 1 4) s 2 32).map (fun x => (x.getD 0 0, x.getD 1 0, x.getD 2 0, x.getD 31 0))
      = some (0xFFF80000, 0x00280000, 0x00580000, 0x05C80000)
    ∧ (vAfter (.imadwZ 2 0 1 4) s 3 32).map (fun x => (x.getD 0 0, x.getD 1 0, x.getD 31 0)) = some (0xF0, 0xF1, 0xF1) := by decide +kernel

/-- The state of "One F8 block" (11_float.md): slot 3 is F8 with MICRO = 1; lanes 0 to 3 of v1 hold 3.0, 0.5, 1.0 and −0.3. -/
def f8Block (v8 : List Word) : State :=
  { demoRegs [] [(1, [0x40400000, 0x3F000000, 0x3F800000, 0xBE99999A]), (8, v8)] with
    kernels := [(1, { fetchKernel with launch := { fetchKernel.launch with slots := [0, 0, 0, 0x42] } })] }

/-- Its scale record, its elements and what they decode to, with NX alone raised. -/
theorem test_f8_block :
    (vAfter (.nscale 0 8 1 3) (f8Block []) 8 17).map (fun x => (x.getD 0 0, x.getD 15 0, x.getD 16 0)) = some (0xFE780000, 0xFE780000, 0)
    ∧ vAfter (.npack 0 8 1 3) (f8Block (List.replicate 16 0xFE780000)) 8 5
      = some [0xFE78007C, 0xFE780068, 0xFE780078, 0xFE7800EA, 0xFE780000]
    ∧ (grpAfter (.npack 0 8 1 3) (f8Block (List.replicate 16 0xFE780000))).map Group.fflags = some 1
    ∧ vAfter (.nunpk 0 9 8 3) (f8Block [0xFE78007C, 0xFE780068, 0xFE780078, 0xFE7800EA]) 9 4
      = some [0x40400000, 0x3F000000, 0x3F800000, 0xBEA00000] := by decide +kernel

/-- "Decoding two elements" and "converting to TS8" (02_numbers.md). -/
theorem test_narrow_elements : (fp32.pack (Narrow.value .f8 true 0x7C 0x02 0x5C 2)).1 = 0x3FC00000
    ∧ (fp32.pack (Narrow.value .ts8 true 0x80 0x00 0x13 5)).1 = 0x3FA00000
    ∧ Narrow.under .ts8 false 127 0 0 (fp32.unpack 0x3F333333) = (0x12, 1)
    ∧ Narrow.under .ts8 false 127 0 0 (fp32.unpack 0x3F300000) = (0x13, 1)
    ∧ Narrow.under .ts8 false 127 0 0 (fp32.unpack 0xBE800000) = (0xA7, 0) := by decide +kernel

/-- "Order-free chunk sums" (02_numbers.md). -/
theorem test_chunk_sums : chunkSum [.fin false 1 0, .fin false 3 (-30), .fin true 1 0] = (fp32.pack (.fin false 3 (-30))).1
    ∧ chunkSum [.fin false 1 0, .fin false 1 (-45), .fin true 1 0] = (fp32.pack (.fin false 1 (-43))).1 := by decide +kernel

/-- "The tree against a running sum" (11_float.md): lanes 0 to 3 alone. -/
theorem test_reduction_tree :
    let s := demoOf (demoGrp [] [(6, [0x3F800000, 0x33800000, 0x33800000, 0xBF800000])] { demoSp with mask := 0xF })
    vAfter (.redsFadd 5 6) s 5 5 = some [0x33800000, 0x33800000, 0x33800000, 0x33800000, 0]
    ∧ vAfter (.scanFadd 7 6 0) s 7 5 = some [0x3F800000, 0x3F800000, 0x3F800000, 0x33800000, 0]
    ∧ vAfter (.scanFadd 8 6 1) s 8 5 = some [0x80000000, 0x3F800000, 0x3F800000, 0x3F800000, 0]
    ∧ (grpAfter (.redsFadd 5 6) s).map Group.fflags = some 1 := by decide +kernel

/-- The state of "A handled TRAP" (05_context.md), with a handler or none. -/
def trapState (h : DWord) : State :=
  { demoOf (demoGrp [(61, 7), (63, 0x30)] [] { demoSp with pc := 0x401230, mask := 0xFF }) with ctxs := [(1, { fetchCtx with traph := h })] }

/-- Its handler, and after the ERET the program again. -/
theorem test_trap_delivered : (grpAfter (.trap 5) (trapState 0xFF00000000020000)).map (fun g => [g.greg 61, g.greg 62, g.greg 63]
      ++ g.res.flatMap fun p => [p.2.pc, p.2.tshad61, p.2.tshad62, p.2.tshad63])
    = some [0x401234, 0, 0x000000FF0005000F, 0xFF00000000020000, 7, 0, 0x30] := by decide +kernel

theorem test_trap_returned : ((grpAfter (.trap 5) (trapState 0xFF00000000020000)).bind fun g => grpAfter .eret (demoOf g)).map (fun g =>
      [g.greg 61, g.greg 62, g.greg 63] ++ g.res.map fun p => p.2.pc) = some [7, 0, 0x30, 0x401234] := by decide +kernel

/-- Without a handler, the split stops at its instruction, the context is FAULTED, and the record names the next instruction
(05_context.md, R154). -/
theorem test_trap_stops : (match exec (.trap 5) (trapState 0) with
    | .next t => some ((t.groups.map fun p => p.2.state), (t.ctxs.map fun p => p.2.state), [t.physRead 0x100030 8, t.physRead 0x100020 8
      , t.physRead 0x10001C 4])
    | _ => none) = some ([.halted], [.faulted], [5, 0x401234, 0xFF]) := by decide +kernel

/-- "Reading a column" (12_access.md): LDS.w.x3 reads lane 1 at 0x204 and lane 4 at 0x854. -/
theorem test_swizzled_load :
    let s := { demoRegs [] [(2, (List.range 32).map fun l => BitVec.ofNat 32 (512 * l + 20))] with
      teams := [(1, { kernel := 1, linear := 0, slot := 0, core := 0, scratch := [(0x14, 5), (0x204, 6), (0x854, 7)] })] }
    (vAfter (.ldsW 1 2 3 0) s 1 5) = some [5, 6, 0, 0, 7] := by decide +kernel

/-- "Lanes of one atomic" (12_access.md): the old values 10 to 13, and 14 in memory. -/
theorem test_lanes_of_one_atomic :
    let s := { demoOf (demoGrp [] [(4, List.replicate 32 1), (10, List.replicate 32 0x40000)] { demoSp with mask := 0xF }) with
      mem := Memory.write demo.mem 0x40000 4 10 }
    (match exec (.atomAdd 0 0 3 5 0 4) s with
    | .next t => some ((t.core 0).sluice.map (fun e => e.2.reqs.map LaneReq.val), t.physRead 0x40000 4)
    | _ => none) = some ([[10, 11, 12, 13]], 14) := by decide +kernel

/-- "Two copies, a fast group and a slow group" (13_barrier.md): BAR.TEST at 535 ns. -/
theorem test_barrier_test : gAfter (.barTest 4 8) { demoRegs [(4, 3)] [] with
    teams := [(1, { kernel := 1, linear := 0, slot := 0, core := 0, barriers := [(3, { band := false, phase := true, expect := 4, arrived := 1 })] })] }
    8 = some 0x6004001000000000 := by decide +kernel

/-- "A box at a tensor corner" (14_copy.md): its record, its in-bounds elements and the address of element (43, 3). -/
def cornerBox : Layout := layoutOf (Memory.ofNat 8 0x2000000000 ++ Memory.ofNat 4 300 ++ Memory.ofNat 4 100 ++ List.replicate 12 0
  ++ Memory.ofNat 4 0x22 ++ Memory.ofNat 6 0x500 ++ List.replicate 18 0 ++ [0x3F, 0x0F] ++ List.replicate 6 0)

theorem test_copy_box : cornerBox.valid = true ∧ cornerBox.size = 4096
    ∧ ((List.range 1024).filter fun k => cornerBox.inb [256, 96, 0, 0, 0] (4 * k)).length = 176
    ∧ cornerBox.gaddr [256, 96, 0, 0, 0] (172 + 768) = 0x200001F3AC ∧ cornerBox.gaddr [256, 96, 0, 0, 0] 0 = 0x200001E400 := by
  decide +kernel

/-- The stage depth at λ = 1,800 ns, τ = 700 ns with .depth 2, 6 (14_copy.md). -/
theorem test_stage_depth : stageDepth { fetchKernel.launch with dmin := 1, dmax := 5 }
    { kernel := 1, linear := 0, slot := 0, core := 0, lambda := some 1800, tau := some 700 } = 4 := by decide +kernel

/-- "One element of an F8-by-TS8 product" (15_matrix.md), and its BF16 drain. -/
theorem test_matrix_element :
    mmaElement 0x02 0x106 0 [((0x38, 0x7F, 0, 0), (0x13, 0x7E, 0, 0)), ((0x40, 0x7F, 0, 1), (0x12, 0x7E, 0, 1))
      , ((0xB0, 0x7F, 0, 2), (0xA7, 0x7E, 0, 2)), ((0, 0x7F, 0, 3), (0x77, 0x7E, 0, 3))] = 0x3F900000
    ∧ drainValue (some 0) 0x3F900000 = 0x3F90 := by decide +kernel

/-- "Six readers and one writer of one line" (16_polder.md): the fifth sharer makes the entry COARSE; the polder's record. -/
theorem test_coarse_sharers : [0, 32, 64, 96].foldl Sharers.add (.shared []) = .shared [0, 32, 64, 96]
    ∧ [0, 32, 64, 96, 128].foldl Sharers.add (.shared []) = .coarse 0x11111
    ∧ [0, 32, 64, 96, 128, 160].foldl Sharers.add (.shared []) = .coarse 0x111111 := by decide +kernel

/-- "One load and its colours" (01_oz7.md) and "15 survivors" (17_page.md). -/
theorem test_store_chiplets : demo.storeOf 0x1234567A40 = 10 ∧ demo.localOf 0x1234567A40 = 0x123456740
    ∧ (let s := { demo with fenceMap := BitVec.twoPow 256 198 }
       s.storeOf 0x1234567A40 = 4 ∧ s.localOf 0x1234567A40 = 0x136B06E40 ∧ s.storeOf (0x1234567A40 + 0x100) = 5
         ∧ s.storeOf (0x1234567A40 + 0x200) = 7) := by decide +kernel

/-- "Encoding and placing a banded kernel" (07_kernel.md). -/
theorem test_launch_record :
    (launchOf (Memory.ofNat 8 0x00050000038B0001 ++ List.replicate 60 0 ++ Memory.ofNat 8 0x3100001000000000
      ++ Memory.ofNat 8 0x0100001000100000 ++ Memory.ofNat 8 0 ++ Memory.ofNat 4 0x00040100
      ++ (List.range 8).flatMap (fun _ => Memory.ofNat 4 0xF))).map (fun l =>
        (l.grid, l.groups, l.bandR, l.bandC, l.vregs, l.scratch, l.barriers)) = some ((6, 1, 1), 8, 1, 2, 32, 65536, 8) := by decide +kernel

/-- "32 lanes waking at once" (20_current.md): the account without new charges, and a halved pulse. -/
theorem test_account_decay :
    ((({ account := 8652, stretch := 6, halving := 64 } : CoreSt).cycle 4).account, ((({ account := 8112 } : CoreSt).cycle 5).account))
      = (8112, 7605)
    ∧ (({ account := 8652, stretch := 6, halving := 64 } : CoreSt).cycle 4).swallow = true := by decide +kernel

/-- "A comb source fails during a replay" (19_link.md): the NAK naming 0x414 on plane A of (5, 26). -/
theorem test_link_nak :
    let s : State := { State.reset with links := [(412, { replay := [{ seq := 0x414, payload := [] }, { seq := 0x416, payload := [] }] })] }
    (match exec (.linkNak 412 0x414) s with
    | .next t => some ((t.link 412).state, (t.link 412).resent)
    | _ => none) = some (.replay, [0x414, 0x416]) := by decide +kernel

/-- LSTAT of that link at 30 µs (19_link.md, R471): STATE 3, MODE 2, COLOUR 21, SOURCE 5, LANES 0xFF. -/
theorem test_lstat : gAfter (.lstat 1 2) { demoRegs [(1, 5 + 26 * 64)] [] with
    links := [(412, { state := .half })], pairs := [(206, { route := 2 })] } 2
    = some (BitVec.ofNat 64 (2 * 2 ^ 32 + 5 * 2 ^ 28 + 0xFF * 2 ^ 20 + 21 * 2 ^ 14 + 3)) := by decide +kernel

/-- "Three readers and two writers" (18_tide.md): the targets that GPSTART names. -/
theorem test_grace_targets : gAfter (.gpstart 5) { demo with tide := 40 } 5 = some 41
    ∧ gAfter (.gpstart 5) { demo with tide := 40, grace := some { started := true, holding := [⟨1, 1, 0, 3⟩] } } 5 = some 42 := by
  decide +kernel

/-- The first division of "Four divisions, a stack push and three joins" (08_group.md). -/
theorem test_division :
    (grpAfter (.braD 1 0 11) (demoOf { demoGrp [] [] demoSp with m := Bits.wr (Vector.replicate 8 0) 1 0xFFFF })).map (fun g =>
      (g.res.map (fun p => (p.1, p.2.pc, p.2.mask)), g.jreg 0))
    = some ([(0, 0x20004, 0xFFFF0000), (1, 0x2002C, 0xFFFF)], 0xFFFFFFFF) := by decide +kernel

/-! ### Witnesses: for each statement, a state and operands that meet its hypotheses -/

/-- A split issues, nothing is in flight on its core, and its group has no poisoned register. -/
def calm (s : State) (cx : Cx) : Bool :=
  decide (s.issuer = some cx) && decide ((s.core cx.core).sluice = []) && decide ((s.core cx.core).matrixQ = [])
    && decide ((s.quad cx.quad).overflowFull = false) && decide (cx.grp.vPoison = 0) && decide (cx.grp.gPoison = 0) && decide (cx.grp.mPoison = 0) && decide (cx.grp.jPoison = 0)

theorem admits_of {s : State} {cx : Cx} (h : calm s cx = true) (u : Uses) (hf : u.firmware = false ∨ cx.sp.firmware = true) :
    Admits s cx u := by
  simp only [calm, Bool.and_eq_true, decide_eq_true_eq] at h
  obtain ⟨⟨⟨⟨⟨⟨⟨h, hs⟩, hm⟩, ho⟩, hv⟩, hg⟩, hk⟩, hj⟩ := h
  refine ⟨h, ?_, fun hu => hf.resolve_left (by simp [hu]), ?_, ?_, ?_, .inr (.inl ho)⟩
  · simp [parkTags, State.owed, hs, hm]
  · simp [Uses.touches, State.pending, hs, hm, overlap]
  · simp [Uses.touches, State.pending, hs, hm, overlap]
  · simp [Uses.poisoned, hv, hg, hk, hj]

/-- The plain state and its split. -/
def s0 : State := demoRegs [] []
def cx0 : Cx := demoCx (demoGrp [] [] demoSp) demoSp

theorem s0_admits (u : Uses) (h : u.firmware = false) : Admits s0 cx0 u := admits_of (by decide +kernel) u (.inl h)

/-- The same in firmware mode, with a trap held. -/
def spF : Split := { demoSp with firmware := true, trap63 := 0xFF0000000F }
def sF : State := demoOf (demoGrp [] [] spF)
def cxF : Cx := demoCx (demoGrp [] [] spF) spF

theorem sF_admits (u : Uses) : Admits sF cxF u := admits_of (by decide +kernel) u (.inr rfl)

/-- LaneIntegerResults, LaneFloatResults, LaneExchangeResults: the highest registers, and no reuse entry. -/
theorem witness_lane_rows :
    (let r := rowWords .iadd 0 0 (fun x y => (x + y, 0)) 7 63 63 63
     wellFormed 64 r.instr = true ∧ Admits s0 cx0 r.op.uses ∧ r.hit s0 cx0 = none)
    ∧ (let r := rowPairs .dadd 4 0 (fun x y => toD (fp64.add x.toNat y.toNat)) 1 62 62 62
       wellFormed 64 r.instr = true ∧ Admits s0 cx0 r.op.uses ∧ r.hit s0 cx0 = none)
    ∧ (let r := rowX (.xlnBack 63 63 31) 0 31 1 [] 63 63 fun cx _ => (fun l => word1 (cx.grp.vlane 63 l), 0)
       wellFormed 64 r.instr = true ∧ Admits s0 cx0 r.op.uses ∧ r.hit s0 cx0 = none) := by
  refine ⟨⟨?_, s0_admits _ rfl, ?_⟩, ⟨?_, s0_admits _ rfl, ?_⟩, ?_, s0_admits _ rfl, ?_⟩ <;> decide +kernel

/-- A state whose quadrant holds a reuse entry for IADD v3, v1, v2. -/
def hitEntry : ReuseEntry :=
  { key := (rowWords .iadd 0 0 (fun x y => (x + y, 0)) 0 3 1 2).op.reuseKey cx0 (BitVec.allOnes 32), results := [5], flags := 1, pages := [] }
def sHit : State := { s0 with quads := [(0, { pool := [(5, { value := Vector.replicate 32 9 })], reuse := [hitEntry] })] }

theorem witness_lane_hit :
    let r := rowWords .iadd 0 0 (fun x y => (x + y, 0)) 0 3 1 2
    wellFormed 64 r.instr = true ∧ Admits sHit cx0 r.op.uses ∧ r.hit sHit cx0 = some hitEntry ∧ hitEntry.results.length = r.op.n
      ∧ ∀ k, k < r.op.n → ((sHit.quad cx0.quad).pool.look (hitEntry.results.getD k 2048)).isSome := by
  refine ⟨by decide +kernel, admits_of (by decide +kernel) _ (.inl rfl), ?_, ?_, ?_⟩ <;> decide +kernel

/-- LaneCompareResults: the lowest and the highest mask register that a compare may name. -/
theorem witness_lane_compares : ∀ k ∈ ([1, 7] : List (BitVec 3)), ∀ g ∈ ([0, 7] : List (BitVec 3)),
    let r := cmpWords .icmpEq (fun x y => (x == y, 0)) g k 63 63
    wellFormed 64 r.instr = true ∧ Admits s0 cx0 { vr := r.vr, gr := r.gr, mr := [r.guard] } := fun k hk g hg =>
  ⟨by revert k g; decide +kernel, s0_admits _ rfl⟩

/-- LaneNarrowResults: an accepted slot, with no hit, and one that is not accepted. -/
theorem witness_narrow :
    (let s := f8Block []
     let cx := { demoCx (demoGrp [] [(1, [0x40400000, 0x3F000000, 0x3F800000, 0xBE99999A]), (8, [])] demoSp) demoSp with
       kern := { fetchKernel with launch := { fetchKernel.launch with slots := [0, 0, 0, 0x42] } } }
     slotNarrow (cx.slotWord 3) ≠ none ∧ slotNarrow (cx.slotWord 0) = none ∧ wellFormed 64 (.nscale 0 8 1 3) = true
       ∧ Admits s cx { vr := [1], vw := [8] }) := by
  refine ⟨?_, ?_, ?_, admits_of (by decide +kernel) _ (.inl rfl)⟩ <;> decide +kernel

/-- GroupIntegerResults, SpecialRegisterReads, MaskRegisterResults: every use that needs no firmware, S2GC of $fflags, and SYSR of a
register that only firmware reads. -/
theorem witness_group_rows : Admits s0 cx0 { gr := [63], gw := [63] } ∧ wellFormed 64 (.s2gc 0 34) = true
    ∧ Admits s0 cx0 { gw := [0] } ∧ sysProgram 3 = false ∧ Admits sF cxF { firmware := !sysProgram 3, gw := [0] }
    ∧ wellFormed 64 (.gcmpEq 0 1 0 63) = true ∧ wellFormed 64 (.g2v 0 62 0) = true ∧ Admits s0 cx0 { gr := [0], vw := regRun 62 (pairOf 0) } :=
  ⟨s0_admits _ rfl, by decide +kernel, s0_admits _ rfl, by decide +kernel, sF_admits _, by decide +kernel, by decide +kernel, s0_admits _ rfl⟩

/-- BranchResults: an aligned and a misaligned target, a mask with a lane and one without. -/
theorem witness_branches :
    (let g := { demoGrp [(1, 0x20000), (2, 0x20002)] [] demoSp with m := Bits.wr (Vector.replicate 8 0) 1 0x80000000 }
     Admits (demoOf g) (demoCx g demoSp) { mr := [1] } ∧ Admits (demoOf g) (demoCx g demoSp) { gr := [2] }
       ∧ (g.greg 1).toNat % 4 = 0 ∧ (g.greg 2).toNat % 4 ≠ 0
       ∧ (∃ l < 32, demoSp.mask.getLsbD l = true ∧ (g.mreg demoSp 1).getLsbD l = true)
       ∧ ¬ ∃ l < 32, demoSp.mask.getLsbD l = true ∧ (g.mreg demoSp 2).getLsbD l = true) := by
  refine ⟨admits_of (by decide +kernel) _ (.inl rfl), admits_of (by decide +kernel) _ (.inl rfl), ?_, ?_, ?_, ?_⟩ <;> decide +kernel

/-- TrapTaken, MarksAndMaskMoves, ExitResults, SwapResults. -/
theorem witness_plain : Admits s0 cx0 {} ∧ Admits s0 cx0 { mr := [7] } ∧ Admits s0 cx0 { ends := true } :=
  ⟨s0_admits _ rfl, s0_admits _ rfl, s0_admits _ rfl⟩

/-- A sluice entry of the split for g5, of its own or of another split. -/
def owedG5 (split : Nat) : SluiceEntry :=
  { group := 32, split := split, pc := 0x1FFFC, access := { op := .load 8 false, dest := .grp 5 }, pend := 1, fault := 0, reqs := [] }
def sOwed (split : Nat) (ws : List Window) : State :=
  { demoOf (demoGrp [] [] { demoSp with windows := ws }) with cores := [(0, { sluice := [(3, owedG5 split)] })] }

/-- ChecksBeforeExecution: program mode, a poisoned source, and a pending register in each of its three cases. -/
theorem witness_checks : (s0.issuer = some cx0 ∧ cx0.sp.firmware = false ∧ s0.owed cx0.core cx0.gid cx0.sp.tag = [])
    ∧ (let g := { demoGrp [] [] demoSp with vPoison := 1, gPoison := 2 ^ 63 }
       (demoOf g).issuer = some (demoCx g demoSp) ∧ ((demoOf g).core 0).sluice = [] ∧ ((demoOf g).core 0).matrixQ = []
         ∧ g.vPoison.getLsbD 0 = true ∧ g.gPoison.getLsbD 63 = true)
    ∧ (∀ x ∈ ([(0, []), (1, []), (0, [⟨3, 1, false⟩]), (0, [⟨3, 0, false⟩])] : List (Nat × List Window)),
        (sOwed x.1 x.2).issuer = some (demoCx (demoGrp [] [] { demoSp with windows := x.2 }) { demoSp with windows := x.2 })
          ∧ ((sOwed x.1 x.2).core 0).sluice = [(3, owedG5 x.1)] ∧ ((sOwed x.1 x.2).core 0).matrixQ = [] ∧ (owedG5 x.1).pend ≠ 0) := by
  decide +kernel

/-- TrapReturns: g61 aligned and not, and a split that holds a trap of a known cause. -/
theorem witness_trap_returns : Admits sF cxF { gr := [61], gw := [61, 62, 63], firmware := true } ∧ (cxF.grp.greg 61).toNat % 4 = 0
    ∧ Admits sF cxF { firmware := true, ends := true } ∧ cxF.sp.trap63.toNat % 256 = Cause.software.code
    ∧ (let g := demoGrp [(61, 0x20002)] [] spF
       Admits (demoOf g) (demoCx g spF) { gr := [61], gw := [61, 62, 63], firmware := true } ∧ (g.greg 61).toNat % 4 ≠ 0) := by
  refine ⟨sF_admits _, by decide +kernel, sF_admits _, by decide +kernel, admits_of (by decide +kernel) _ (.inr rfl), by decide +kernel⟩

/-- A group with resident splits and a stack. -/
def grpOf (res : List (Nat × Split)) (stack : List Split) : Group := { demoGrp [] [] demoSp with res := res, stack := stack }

/-- Four resident splits of eight lanes each; the second is the oldest of the others. -/
def four : List (Nat × Split) :=
  [(0, { demoSp with mask := 0xFF, age := 9 }), (1, { demoSp with mask := 0xFF00, tag := 1, age := 3 })
  , (2, { demoSp with mask := 0xFF0000, tag := 2, age := 5 }), (3, { demoSp with mask := 0xFF000000, tag := 3, age := 3 })]

/-- The group of `four` with half of its first split's lanes in m1, and n stacked splits. -/
def gFour (n : Nat) : Group :=
  { grpOf four (List.replicate n { demoSp with tag := 4 }) with m := Bits.wr (Vector.replicate 8 0) 1 0xF }
def spFour : Split := { demoSp with mask := 0xFF, age := 9 }

/-- A context whose spill rings lie where no page is. -/
def noRing (s : State) : State := { s with ctxs := [(1, { fetchCtx with stkbase := 0xFF00000080000000 })] }

def gMask (w : Nat) : Group := { demoGrp [] [] demoSp with m := Bits.wr (Vector.replicate 8 0) 1 (BitVec.ofNat 32 w) }

theorem masks_calm : ∀ w ∈ [0, 0xFFFFFFFF, 0xF], calm (demoOf (gMask w)) (demoCx (gMask w) demoSp) = true := by decide +kernel

/-- DivisionResults: no lane, every lane, and some lanes with room. -/
theorem witness_divisions : (∀ w ∈ [0, 0xFFFFFFFF, 0xF],
      Admits (demoOf (gMask w)) (demoCx (gMask w) demoSp) { mr := [1], ends := true })
    ∧ (gMask 0xF).res.length < 4 ∧ (gMask 0xF).res.look 3 = none :=
  ⟨fun w hw => admits_of (masks_calm w hw) _ (.inl rfl), by decide +kernel, by decide +kernel⟩

theorem four_calm : ∀ n ∈ [0, 31], calm (demoOf (gFour n)) (demoCx (gFour n) spFour) = true := by decide +kernel

/-- Four resident splits, with 31 entries in the SRAM, and with 32 and no ring. -/
theorem witness_division_pushes : (∀ n ∈ [0, 31], Admits (demoOf (gFour n)) (demoCx (gFour n) spFour) { mr := [1], ends := true })
    ∧ (let r := (demoOf (gFour 31)).pushOldest (demoCx (gFour 31) spFour)
       r.2 = true ∧ (r.1.groups.look 32).map (fun g0 => (g0.res.look 1, g0.res.look 0)) = some (none, some spFour))
    ∧ (let s := noRing (demoOf (gFour 32))
       let r := s.pushOldest { demoCx (gFour 32) spFour with ctx := { fetchCtx with stkbase := 0xFF00000080000000 } }
       r.2 = false ∧ r.1.groups = s.groups ∧ r.1.ctxs = s.ctxs) :=
  ⟨fun n hn => admits_of (four_calm n hn) _ (.inl rfl), by decide +kernel, by decide +kernel⟩

/-- The push of a division: room in the SRAM, none with a ring that takes the entry, and none with a ring that does not. -/
theorem witness_pushes : Map.sorted (gFour 0).res = true ∧ (gFour 0).res.look 1 = some { demoSp with mask := 0xFF00, tag := 1, age := 3 }
    ∧ (∀ p ∈ four, p.1 ≠ 0 → 3 < p.2.age ∨ (3 = p.2.age ∧ 1 ≤ p.1))
    ∧ (demoOf (gFour 31)).sramUsed 0 < 32 ∧ 32 ≤ (demoOf (gFour 32)).sramUsed 0
    ∧ (noRing (demoOf (gFour 32))).checkSystem 1 0xFF00000080010000 64 1 .write = .cause .page
    ∧ (match (demoOf (gFour 32)).checkSystem 1 0xFF00000000310000 64 1 .write with | .ok pa _ _ => some pa | _ => none) = some 0x310000 := by
  decide +kernel

/-- SwapResults: a split that has waited 256 slots, under a stacked one; YIELD with and without a stack. -/
theorem witness_swaps :
    (let sp := { demoSp with state := .waiting, idle := 256, wait := some (.matrix 0) }
     let g := grpOf [(0, sp)] [{ demoSp with tag := 1 }]
     (demoOf g).cxOf 32 0 = some (demoCx g sp) ∧ (demoOf g).sramUsed 0 < 32 ∧ g.spilled = 0)
    ∧ (let g := grpOf [(0, demoSp)] [{ demoSp with tag := 1 }]
       Admits (demoOf g) (demoCx g demoSp) { ends := true }) ∧ Admits s0 cx0 { ends := true } := by
  refine ⟨by decide +kernel, admits_of (by decide +kernel) _ (.inl rfl), s0_admits _ rfl⟩

/-- Two splits, of the lower and the upper lanes. -/
def half (x : Split) (low : Bool) : Split := { x with mask := if low then 0xFFFF else 0xFFFF0000, tag := if low then 0 else 1 }
def joinSp : Split := { demoSp with state := .waiting, wait := some (.join 2) }
def gJoin : Group := { grpOf [(0, half joinSp true), (1, half joinSp false)] [] with j := Bits.wr (Vector.replicate 8 0) 2 0xFFFFFFFF }

/-- JoinAndMergeResults: a JOIN, none that has arrived, one that has, and two splits that merge. -/
theorem witness_joins : Admits s0 cx0 { jr := [7], ends := true } ∧ (demoGrp [] [] demoSp).joinsSettled
    ∧ ((demoOf gJoin).groups.look 32 = some gJoin ∧ Map.sorted gJoin.res = true ∧ (gJoin.splits.map Split.tag).Nodup
      ∧ gJoin.res.look 0 = some (half joinSp true) ∧ (half joinSp true).joins (half joinSp true) 2 ∧ gJoin.arrived (half joinSp true) 2
      ∧ ∀ y ∈ gJoin.splits, ∀ j, y.joins y j → ¬ (half joinSp true).joins y 2 → ¬ gJoin.arrived y j)
    ∧ (let g := grpOf [(0, half demoSp true), (3, half demoSp false)] []
       (demoOf g).cxOf 32 0 = some (demoCx g (half demoSp true)) ∧ g.res.look 3 = some (half demoSp false)) := by
  refine ⟨s0_admits _ rfl, ?_, ⟨by decide +kernel, by decide +kernel, by decide +kernel, by decide +kernel, ?_, ?_, ?_⟩, by decide +kernel⟩
  · intro sp h j hj
    simp [demoGrp, Group.splits] at h
    subst h
    exact absurd hj.1 (by decide)
  · unfold Split.joins; decide +kernel
  · unfold Group.arrived Split.joins; decide +kernel
  · intro y h j hj hn
    refine absurd ?_ hn
    have : ∀ y ∈ gJoin.splits, (half joinSp true).joins y 2 := by unfold Split.joins; decide +kernel
    exact this y h

/-- SystemRegisterWrites: the first and the last system register that software may write, in firmware mode. -/
theorem witness_system_writes : wellFormed 64 (.sysw 0 5 3) = true ∧ wellFormed 64 (.sysw 1 5 1) = true
    ∧ Admits sF cxF { gr := [5], firmware := true } := ⟨by decide +kernel, by decide +kernel, sF_admits _⟩

/-- FenceResults: a store still in the queue, none, and a posted store that failed with a handler in place. -/
theorem witness_fences :
    (let g := { demoGrp [] [] demoSp with storeQ := [{ pieces := [] }] }
     Admits (demoOf g) (demoCx g demoSp) { ends := true, memory := true } ∧ g.storeQ ≠ [])
    ∧ (Admits s0 cx0 { ends := true, memory := true } ∧ cx0.grp.storeQ = [] ∧ (s0.core 0).inflight = [] ∧ s0.peerReqs = [])
    ∧ (let g := { demoGrp [] [] demoSp with postedFault := some (true, 7) }
       let c := { fetchCtx with traph := 0xFF00000000020000 }
       Admits { demoOf g with ctxs := [(1, c)] } { demoCx g demoSp with ctx := c } { ends := true, memory := true }
         ∧ c.handler = some 0xFF00000000020000) := by
  refine ⟨⟨admits_of (by decide +kernel) _ (.inl rfl), by decide⟩, ⟨s0_admits _ rfl, ?_⟩, admits_of (by decide +kernel) _ (.inl rfl), ?_⟩ <;> decide +kernel

/-- A split whose pc lies elsewhere. -/
def atPc (pc : DWord) : State := demoOf (demoGrp [] [] { demoSp with pc := pc })

/-- FetchFaultsAndDelayedTraps: no page, a non-canonical pc, a poisoned word; a trap that waited; a wait past WDLIM. -/
theorem witness_fetch_faults :
    (atPc 0x40000000).checkGlobal 0 1 false 0x40000000 4 4 .fetch = .cause .page
    ∧ (atPc 0x0100000000000000).checkGlobal 0 1 false 0x0100000000000000 4 4 .fetch = .cause .noncanon
    ∧ (let s := { s0 with memPoison := [0x20000 / 8] }
       (match s.checkGlobal 0 1 false 0x20000 4 4 .fetch with | .ok pa _ _ => some pa | _ => none) = some 0x20000
         ∧ s.homeReady (.core 0) 0x20000 false = true ∧ ∃ k < 4, s.redirect (0x20000 + k) / 8 ∈ s.memPoison)
    ∧ (let sp := { demoSp with state := .parked, pendingTrap := some { cause := .lookahead, lanes := 1 } }
       (demoOf (demoGrp [] [] sp)).cxByTag 32 0 = some (demoCx (demoGrp [] [] sp) sp) ∧ (demoOf (demoGrp [] [] sp)).owed 0 32 0 = [])
    ∧ (let sp := { demoSp with state := .waiting, wait := some (.matrix 0), waitPulses := 2 ^ 32 }
       (demoOf (demoGrp [] [] sp)).cxByTag 32 0 = some (demoCx (demoGrp [] [] sp) sp) ∧ s0.wdlim ≠ 0 ∧ s0.wdlim ≤ sp.waitPulses) := by
  decide +kernel

/-- The vector registers hold, in every lane, the word address 0x40000 + 4 l at v0 and 1 at v4. -/
def sMem : State := demoRegs [(1, 0x40000)] [(0, (List.range 32).map fun l => BitVec.ofNat 32 (4 * l)), (4, List.replicate 32 1)
  , (6, (List.range 32).map fun l => BitVec.ofNat 32 (0x40000 + 4 * l))]
def cxMem : Cx := demoCx (demoGrp [(1, 0x40000)] [(0, (List.range 32).map fun l => BitVec.ofNat 32 (4 * l)), (4, List.replicate 32 1)
  , (6, (List.range 32).map fun l => BitVec.ofNat 32 (0x40000 + 4 * l))] demoSp) demoSp

/-- GlobalLoadResults, GlobalStoreResults, AtomicResults: an access of each kind and set that executes. -/
theorem witness_global_accesses : (rowLoad .ldW 4 4 1 false none 15 8 0 1).Runs sMem cxMem
    ∧ (rowGld .gldD 8 false 1 1 2 0).Runs sMem cxMem ∧ (rowStore .stWRelSys 4 1 (some 5) 4 0 1).Runs sMem cxMem
    ∧ (rowGst (.qsig 1 2) 27 4 1 2 (some 5)).Runs sMem cxMem
    ∧ (rowAtom .atomAdd 0 1 false 1 0 8 3 1 4).Runs sMem cxMem ∧ (rowGatom .gatomCasD 13 8 true 0 1 2 13).Runs sMem cxMem := by
  refine ⟨⟨⟨?_, admits_of ?_ _ (.inl rfl), ?_, ?_, ?_, ?_, ?_, ?_⟩, ?_, ?_⟩, ⟨⟨?_, admits_of ?_ _ (.inl rfl), ?_, ?_, ?_, ?_, ?_, ?_⟩, ?_, ?_⟩,
    ⟨⟨?_, admits_of ?_ _ (.inl rfl), ?_, ?_, ?_, ?_, ?_, ?_⟩, ?_, ?_⟩, ⟨⟨?_, admits_of ?_ _ (.inl rfl), ?_, ?_, ?_, ?_, ?_, ?_⟩, ?_, ?_⟩,
    ⟨⟨?_, admits_of ?_ _ (.inl rfl), ?_, ?_, ?_, ?_, ?_, ?_⟩, ?_, ?_⟩, ⟨⟨?_, admits_of ?_ _ (.inl rfl), ?_, ?_, ?_, ?_, ?_, ?_⟩, ?_, ?_⟩⟩ <;>
  decide +kernel

/-- AccessTrapsAndPageFaults: lane 0 misaligned in a store, and a load whose lanes lie in no page. -/
theorem witness_access_faults :
    (let r := rowStore .stD 8 2 none 4 0 1
     r.Checks sMem cxMem ∧ r.check sMem cxMem ((r.reqs cxMem).getD 0 { lane := 0, va := 0 }) = none
       ∧ r.check sMem cxMem ((r.reqs cxMem).getD 1 { lane := 0, va := 0 }) = some .misalign)
    ∧ (let r := rowLoad .ldW 4 4 1 false none 0 8 0 2
       let s := demoRegs [(2, 0x40000000)] []
       let cx := demoCx (demoGrp [(2, 0x40000000)] [] demoSp) demoSp
       r.Checks s cx ∧ (∀ q ∈ r.reqs cx, r.check s cx q = some .page) ∧ s.lanesWait 0 32 r.access (r.homed s cx) = false) := by
  refine ⟨⟨⟨?_, admits_of ?_ _ (.inl rfl), ?_, ?_, ?_, ?_, ?_, ?_⟩, ?_, ?_⟩,
    ⟨?_, admits_of ?_ _ (.inl rfl), ?_, ?_, ?_, ?_, ?_, ?_⟩, ?_, ?_⟩ <;> decide +kernel

/-- ScratchpadResults: a load, a store and an atomic that execute, a lane that fails. -/
theorem witness_scratch : (rowLds .ldsW 4 1 8 0 0 0).Runs sMem cxMem (fun l => (1, 4 * l))
    ∧ (rowSts .stsB 1 1 4 0 7 0).Runs sMem cxMem (fun l => (1, (rowSts .stsB 1 1 4 0 7 0).addr cxMem l))
    ∧ (rowAts .atsCas 2 4 0 0 0).Runs sMem cxMem (fun l => (1, 4 * l)) ∧ cxMem.grp.storeQ = []
    ∧ (rowLds .ldsW 4 1 8 0 0 0).check (demoRegs [(0, 0x80000)] []) (demoCx (demoGrp [(0, 0x80000)] [] demoSp) demoSp) 0 = .inr .perm := by
  refine ⟨⟨?_, admits_of ?_ _ (.inl rfl), ?_, ?_, ?_⟩, ⟨?_, admits_of ?_ _ (.inl rfl), ?_, ?_, ?_⟩, ⟨?_, admits_of ?_ _ (.inl rfl), ?_, ?_, ?_⟩,
    ?_, ?_⟩ <;>
  decide +kernel

/-- The scratchpad addresses where the clauses meet: the last word, the first beyond it, the windows 0, 1, 2 and 13, bit 24, a misaligned one. -/
theorem witness_scratch_addresses : ([0x7FFFC, 0x80000, 0x100000, 0x17FFFC, 0x200000, 0xD00000, 0x1000000, 0x7FFFE].map fun a =>
      s0.checkScratch 1 a 4 4) = [.inl (1, 0x7FFFC), .inr .perm, .inl (1, 0), .inl (1, 0x7FFFC), .inr .perm, .inr .perm, .inr .perm
      , .inr .misalign] ∧ s0.kernels.look 1 = some fetchKernel ∧ (s0.teams.look 1).isSome := by decide +kernel

/-- RepliesAndStores: a reply owed to one lane, a store at the head of its queue, and a store on its way. -/
def owedLane : SluiceEntry :=
  { group := 32, split := 0, pc := 0x1FFFC, access := { op := .load 4 false, dest := .vec 63 1 }, pend := 0x80000000, fault := 0
    reqs := [{ lane := 31, va := 0x40000, pa := 0x40000, val := 7 }] }
def piece (a : Nat) : Piece := { kind := .global, addr := a, bytes := [1, 2] }

theorem witness_replies_and_stores :
    (let s := { s0 with cores := [(0, { sluice := [(3, owedLane)] })] }
     (s.core 0).sluice.look 3 = some owedLane ∧ s.groups.look 32 = some cx0.grp
       ∧ (∀ r ∈ owedLane.reqs, r.peer = false ∧ r.err = none ∧ r.bad = false) ∧ (owedLane.reqs.map LaneReq.lane).Nodup)
    ∧ (let e : StoreEntry := { pieces := [{ kind := .scratch 1, addr := 0, bytes := [9] }, piece 0x40000] }
       let g := { demoGrp [] [] demoSp with storeQ := [e] }
       (demoOf g).groups.look 32 = some g ∧ ((demoOf g).teams.look g.team).isSome ∧ ∀ p ∈ e.pieces, s0.paKind p.addr = .device)
    ∧ (let f : InFlight := { group := 32, entry := { pieces := [piece 0x40000] } }
       let s := { s0 with cores := [(0, { inflight := [f] })] }
       (s.core 0).inflight[0]? = some f
         ∧ s.homesReady (.core 0) true ((f.entry.pieces.filter fun p => p.kind == .global).map Piece.addr) = true) := by decide +kernel

/-- A team with a barrier 3. -/
def sBar (x : Barrier) (gs : List (Nat × DWord)) : State :=
  { demoRegs gs [] with teams := [(1, { kernel := 1, linear := 0, slot := 0, core := 0, barriers := [(3, x)] })] }
def cxBar (x : Barrier) (gs : List (Nat × DWord)) : Cx :=
  { demoCx (demoGrp gs [] demoSp) demoSp with team := { kernel := 1, linear := 0, slot := 0, core := 0, barriers := [(3, x)] } }

/-- BarrierResults: the operands where naming a barrier begins and ends. -/
theorem witness_barrier_names : ([95, 96, 127, 128, 223, 224, 255, 256].map fun x => cx0.barrierOf s0 (BitVec.ofNat 64 x))
      = [some (1, 95, false), none, none, some (1, 0, true), some (1, 95, true), none, none, none]
    ∧ Admits s0 cx0 { gr := [63, 63], ends := true } ∧ Admits s0 cx0 { gr := [0], gw := [1], ends := true }
    ∧ (cx0.grp.greg 0).toNat ≤ 4095 ∧ (∃ th, s0.teams.look 1 = some th ∧ th.barriers.look 0 = none) :=
  ⟨by decide +kernel, s0_admits _ rfl, s0_admits _ rfl, by decide +kernel, { kernel := 1, linear := 0, slot := 0, core := 0 }, by decide +kernel⟩

/-- A barrier with room for an arrival and 1 byte, one that is complete but for bytes, and stores that hold an arrival back. -/
theorem witness_barrier_updates :
    (∀ x ∈ ([{ band := false, expect := 4, arrived := 3, pending := 2 ^ 31 - 2 }, { band := false, expect := 4, arrived := 4, pending := 1 }]
      : List Barrier), ∀ n ∈ [0, 1, 2, 2 ^ 32],
      (cxBar x [(1, 3), (2, BitVec.ofNat 64 n)]).barrierOf (sBar x [(1, 3), (2, BitVec.ofNat 64 n)]) 3 = some (1, 3, false)
      ∧ (sBar x [(1, 3), (2, BitVec.ofNat 64 n)]).barrier 1 3 false = some x ∧ calm (sBar x [(1, 3), (2, BitVec.ofNat 64 n)])
          (cxBar x [(1, 3), (2, BitVec.ofNat 64 n)]) = true ∧ (sBar x []).storesLeft 32 = true)
    ∧ (demoOf { demoGrp [] [] demoSp with storeQ := [{ pieces := [] }] }).storesLeft 32 = false := by decide +kernel

/-- WordWaits: a word of the team's scratchpad, one of memory, one misaligned, one in no page, one in the system window; and a wait to read
again on each kind of word. -/
theorem witness_word_waits :
    ([0x8000000000000008, 0x40000, 0x40002, 0x40000000, 0xFF00000000000000].map fun a => s0.wordAt cx0 (BitVec.ofNat 64 a) 4)
      = [.scratch 1 8, .global 0x40000, .cause .misalign, .cause .page, .cause .perm]
    ∧ Admits s0 cx0 { gr := [0, 63], ends := true, memory := true } ∧ s0.scratchBad 32 1 8 4 = false
    ∧ (s0.learn 0 1 0x40000).homeReady (.core 0) 0x40000 false = true ∧ s0.inflightMeets 0 (.scratch 1) 8 4 = false
    ∧ s0.loadPoisoned 0 32 0x40000 4 true = false
    ∧ (∀ a ∈ [0x8000000000000008, 0x40000], let sp := { demoSp with state := .waiting, wait := some (.word (BitVec.ofNat 64 a) 1 false 0) }
        (demoOf (demoGrp [] [] sp)).cxByTag 32 0 = some (demoCx (demoGrp [] [] sp) sp)) :=
  ⟨by decide +kernel, s0_admits _ rfl, by decide +kernel, by decide +kernel, by decide +kernel, by decide +kernel, by decide +kernel⟩

/-- TideResults: depths 0 and 15, a store that holds a request back, a grace period that is asked for, one that runs, and a quiescent point. -/
theorem witness_tide :
    (∀ d ∈ [0, 1, 15], calm (demoOf { demoGrp [] [] demoSp with depth := BitVec.ofNat 4 d })
      (demoCx { demoGrp [] [] demoSp with depth := BitVec.ofNat 4 d } demoSp) = true)
    ∧ s0.drained cx0 = true ∧ (demoOf { demoGrp [] [] demoSp with storeQ := [{ pieces := [] }] }).drained cx0 = false
    ∧ s0.groupName 32 = some ⟨1, 1, 0, 0⟩
    ∧ (let s := { s0 with grace := some { started := true, holding := [⟨1, 1, 0, 0⟩] }, quiescent := [{ group := 32, name := ⟨1, 1, 0, 0⟩ }] }
       s.quiescent[0]? = some { group := 32, name := ⟨1, 1, 0, 0⟩ } ∧ (s.core 0).sluice = [] ∧ s.storesAcked 0 32 = true
         ∧ s.peerStoresAcked 32 = true)
    ∧ (let x : Quiescence := { group := 32, name := ⟨1, 1, 0, 0⟩, left := some (0, 1, [7]) }
       let s := { s0 with grace := some { started := true, holding := [⟨1, 1, 0, 0⟩] }, quiescent := [x] }
       s.quiescent[0]? = some x ∧ (s.core 0).inflight = [] ∧ s.peerReqs.look 7 = none) := by
  decide +kernel

/-- A record of one dimension of 16 words at 0x50000. -/
def rowRecord : List Byte := Memory.ofNat 8 0x50000 ++ Memory.ofNat 4 16 ++ List.replicate 16 0 ++ Memory.ofNat 4 0x21 ++ List.replicate 24 0
  ++ [15] ++ List.replicate 7 0
def sCopy (at_ : DWord) : State := { demoRegs [(1, at_)] [] with mem := Memory.setBytes demo.mem 0x40000 rowRecord }
def cxCopy (at_ : DWord) : Cx := demoCx (demoGrp [(1, at_)] [] demoSp) demoSp

/-- CopyResults: a record that is read and passes its checks, with every slot free, and one of zeros that does not. -/
theorem witness_copies : calm (sCopy 0x40000) (cxCopy 0x40000) = true ∧ wellFormed 64 (.cpyLd 1 60 8) = true
    ∧ (match (sCopy 0x40000).readRecord (cxCopy 0x40000) false 0x40000 64 64 0x40000 true with
      | .bytes u bs => decide (bs = rowRecord) && decide (copyChecks u (cxCopy 0x40000) .load 1 60 (layoutOf bs) = .inr (1, .none))
          && !u.engineWaits (cxCopy 0x40000) (uniformScope 8) && decide ((u.core 0).copies.look 0 = none)
          && decide (List.range ((layoutOf bs).size / 16) ≠ []) && decide ((layoutOf bs).inUnits (coordsOf (cxCopy 0x40000).grp 60) ≠ [])
      | .stop _ => false) = true
    ∧ (match (sCopy 0x60000).readRecord (cxCopy 0x60000) false 0x60000 64 64 0x60000 true with
      | .bytes u bs => decide (copyChecks u (cxCopy 0x60000) .load 1 60 (layoutOf bs) = .inl (.perm, 0x60000, 0))
      | .stop _ => false) = true := by decide +kernel

/-- A copy of the record with units left. -/
def copyReq (k : CopyKind) (left : List Nat) : CopyReq :=
  { kind := k, group := 32, split := 0, splitIndex := 0, lanes := 1, firmware := false, pc := 0, team := 1, placement := 0, asid := 1, serial := 5
    accepted := 0, layout := layoutOf rowRecord, coord := [0, 0, 0, 0, 0], localAddr := 0x100, target := 1, signal := .none, left := left }

/-- Landings: a unit of a load, a unit of a store, and the end. -/
theorem witness_landings :
    (let r := copyReq .load [0, 1, 2, 3]
     let s := { s0 with cores := [(0, { copies := [(7, r)] })] }
     (s.core 0).copies.look 7 = some r ∧ r.signal = .none ∧ r.failedAt = none ∧ r.live s = true ∧ (s.teams.look r.target).isSome
       ∧ (r.left.filter fun x => 16 ≤ 16 * x && 16 * x < 32) = [1] ∧ (r.left.filter fun x => x != 1) ≠ []
       ∧ r.layout.parts r.coord 1 = [(16, 0x50010, 16)] ∧ s.homeReady (.core 0) 0x50010 false = true
       ∧ (match s.engineXlate (some 0) 1 0x50010 false with | .ok pa => pa == 0x50010 | _ => false) = true)
    ∧ (let r := copyReq .store [0, 1, 2, 3]
       r.layout.parts r.coord 3 = [(48, 0x50030, 16)] ∧ r.written.look 3 = none ∧ s0.tracked (0x50030 / 128) = false
         ∧ s0.acksOwed 0 [0x50030 / 128] = false
         ∧ (match s0.engineXlate (some 0) 1 0x50030 true with | .ok pa => pa == 0x50030 | _ => false) = true
         ∧ s0.homeReady (.core 0) 0x50030 true = true)
    ∧ (copyReq .load []).live s0 = true ∧ s0.groups.look 32 = some cx0.grp := by decide +kernel

/-- CPY.SEAL and CPY.WAITN. -/
theorem witness_seals : Admits s0 cx0 {} ∧ Map.sorted s0.groups = true ∧ (s0.teams.look 1).isSome ∧ cx0.grp.copyBatches.length < 16
    ∧ Admits s0 cx0 { ends := true } :=
  ⟨s0_admits _ rfl, by decide +kernel, by decide +kernel, by decide +kernel, s0_admits _ rfl⟩

/-- MatrixResults: the engine free, held by the team, and held by another. -/
def sHold (h : MatrixHold) : State :=
  { s0 with cores := [(0, { hold := h, marks := [(0, (32, 8)), (1, (32, 8)), (2, (32, 8)), (3, (32, 8))] })] }

theorem witness_matrix : (∀ h ∈ ([.free, .held 1, .held 2] : List MatrixHold), calm (sHold h) cx0 = true ∧ ((sHold h).core 0).hold = h)
    ∧ wellFormed 64 (.mres 7) = true ∧ cx0.grp.matBatches.length < 16 ∧ ((sHold (.held 1)).core 0).matrixQ.length < 64
    ∧ ((sHold (.held 1)).core 0).fourMarks = some [(32, 8), (32, 8), (32, 8), (32, 8)] := by decide +kernel

/-- The operations that a team with tiles and BF16 slots may queue. -/
theorem witness_matrix_operations :
    let k := { fetchKernel with launch := { fetchKernel.launch with acc := 8, slots := [0, 0] } }
    let s := { sHold (.held 1) with kernels := [(1, k)] }
    let cx := { cx0 with kern := k }
    calm s cx = true ∧ (cx.grp.greg 1).toNat < cx.kern.launch.acc ∧ mmaSlotOk k.launch 0 = true ∧ accKind 0 0 = some .fp32
      ∧ mmaAddress cx 0 0 (cx.grp.greg 1) = some (0, 0, 0)
      ∧ (∀ mk ∈ [(32, 8)], overlap (regRun mk.2 (quarterRegs (quarterBytes 0 0))) (s.pending 0 mk.1 fun _ => true).1 = false)
      ∧ s.engineWaits cx (uniformScope 0) = false ∧ slotValid (cx.slotWord 0) = true
      ∧ ∀ l ∈ Bits.lanes cx.sp.mask, (cx.grp.vlane 2 l).toNat < 2 ^ 21 ∧ (cx.grp.vlane 2 l).toNat / 4096 < cx.kern.launch.acc := by
  decide +kernel

/-- The oldest operation of each kind at the head of an engine queue. -/
theorem witness_matrix_completions : ∀ op ∈ ([.zero 0, .fill [(0, 1), (4095, 2)], .mma 0 0 0 0 0 0 [] [], .drain 32 0 63 2048 none [(31, 0)]]
      : List MatrixOp), let e : MatrixEntry := { serial := 1, group := 32, team := 1, op := op }
    let s := { s0 with cores := [(0, { matrixQ := [e] })] }
    (s.core 0).matrixQ = [e] ∧ (s.teams.look 1).isSome ∧ (s.groups.look 32).isSome := by decide +kernel

/-- A state with 8-byte words of memory set. -/
def mem8 (s : State) (ws : List (Nat × Nat)) : State := { s with mem := ws.foldl (fun m p => Memory.write m p.1 8 p.2) s.mem }

/-- A range translates to a physical address of this device. -/
def mapsTo (s : State) (va n align : Nat) (k : AccessKind) (pa : Nat) : Bool :=
  (match s.checkSystem 1 va n align k with
   | .ok x _ _ => x == pa
   | .cause _ => false) && (List.range n).all fun i => s.paKind (pa + i) == .device && s.reachable .system (pa + i)

theorem maps_of {s : State} {va n align : Nat} {k : AccessKind} {pa : Nat} (h : mapsTo s va n align k pa = true) : s.Maps 1 va n align k pa := by
  simp only [mapsTo, Bool.and_eq_true, List.all_eq_true, List.mem_range, beq_iff_eq] at h
  obtain ⟨h, hr⟩ := h
  refine ⟨?_, fun i hi => ⟨fun d => by rw [(hr i hi).1]; exact PaKind.noConfusion, fun _ => (hr i hi).2⟩⟩
  split at h
  · next x pte bits e => exact ⟨pte, bits, by rw [e, eq_of_beq h]⟩
  · exact absurd h (by decide)

/-- The bytes that a record read ends with, when it leaves the state as it is. -/
def recordAt (s : State) (cx : Cx) (fw : Bool) (va : DWord) (n align : Nat) : Option (State × List Byte) :=
  match s.readRecord cx fw va n align va with
  | .bytes u bs => some (u, bs)
  | .stop _ => none

theorem record_of {s u : State} {cx : Cx} {fw : Bool} {va : DWord} {n align : Nat} {bs : List Byte}
    (h : recordAt s cx fw va n align = some (u, bs)) : s.readRecord cx fw va n align va = .bytes u bs := by
  unfold recordAt at h
  split at h
  · next e => rw [e]; injection h with h; injection h with h1 h2; rw [h1, h2]
  · exact absurd h (by simp)

/-- Page tables that map page 0x4000 to a frame by a leaf at 0x14000, whose twin is at 0x14100. -/
def sLeaf (s : State) (leaf twin : Nat) : State := mem8 s [(0x12008, 0x13001), (0x13000, 0x14001), (0x14000, leaf), (0x14100, twin)]

/-- PageInstructions: TLBI at each operand, PMIG, PCLASS. -/
theorem witness_tlbi : Admits sF cxF { gr := [63], firmware := true } ∧ sF.accessesOut (fun _ _ _ => true) = false
    ∧ (cxF.grp.greg 63).toNat < 65536
    ∧ (let g := demoGrp [(1, 65536)] [] spF
       Admits (demoOf g) (demoCx g spF) { gr := [1], firmware := true } ∧ 65536 ≤ (g.greg 1).toNat) :=
  ⟨sF_admits _, by decide +kernel, by decide +kernel, admits_of (by decide +kernel) _ (.inr rfl), by decide +kernel⟩

theorem witness_pmig : (∀ x ∈ ([(0, 1), (0x40000000, 0x40), (0x40000000, 0x7F), (0x40000000, 2), (0xFF00000000000000, 0), (0x1000000000000000, 0)]
      : List (Nat × Nat)), let gs := [(1, BitVec.ofNat 64 x.1), (2, BitVec.ofNat 64 x.2)]
      calm (demoRegs gs []) (demoCx (demoGrp gs [] demoSp) demoSp) = true)
    ∧ (sLeaf s0 0x50001F 0).canMigrate 1 0x4000 = true ∧ s0.canMigrate 1 0 = false
    ∧ canonical 0x40000000 = true ∧ inWindow 0x40000000 = false ∧ inWindow 0xFF00000000000000 = true ∧ canonical 0x1000000000000000 = false := by
  decide +kernel

theorem witness_pclass : Admits s0 cx0 { gr := [0], gw := [63] } ∧ s0.paKind (leafFrame 0x1F + 0x20000 % 2 ^ 30) = .device :=
  ⟨s0_admits _ rfl, by decide +kernel⟩

/-- PUBL: a record of one page whose leaf and twin may be exchanged, one whose page may not, and one with no page. -/
def sPubl (base count : Nat) : State :=
  { mem8 (sLeaf (demoRegs [(1, 0x40000)] []) 0x50009F 0x60001F) [(0x40000, base), (0x40008, count)] with
    classes := [(4, { cls := .shared })] }
def cxPubl : Cx := demoCx (demoGrp [(1, 0x40000)] [] demoSp) demoSp

theorem witness_publ : calm (sPubl 0x40000000 1) cxPubl = true
    ∧ (recordAt (sPubl 0x40000000 1) cxPubl false 0x40000 16 16).any (fun r => field r.2 0 8 == 0x40000000 && field r.2 8 8 == 1
        && (r.1.publishable 1 0x4000).isSome && decide (r.1.migration 1 0x4000 = none) && !r.1.releaseWaits cxPubl 5
        && !r.1.accessesOut (fun _ _ _ => true) && Memory.wf r.1.mem) = true
    ∧ cxPubl.grp.postedFault = none
    ∧ (recordAt (sPubl 0x40000000 2) cxPubl false 0x40000 16 16).any (fun r => field r.2 8 8 == 2
        && (r.1.publishable 1 0x4000).isSome && (r.1.publishable 1 0x4001).isNone) = true
    ∧ (recordAt (sPubl 0x40000000 0) cxPubl false 0x40000 16 16).any (fun r => field r.2 8 8 == 0) = true
    ∧ (sPubl 0 1).publishable 1 0x4000 = some (0x50009F, 0x14000, 0x60001F)
    ∧ (∀ i < 8, ∀ j < 8, (sPubl 0 1).redirect (0x14000 + i) ≠ (sPubl 0 1).redirect (0x14100 + j)) := by decide +kernel

/-- PolderInstructions: a definition of polder 1 with eight shares, its removal, and an id of 0, which is no polder to define. -/
def sPdef (w id : Nat) : State :=
  { mem8 sF [(0x40000, 0x40200), (0x40008, w + id * 2 ^ 32), (0x40200, 0xFF)] with groups := [(32, demoGrp [(1, 0x40000)] [] spF)] }
def cxPdef : Cx := demoCx (demoGrp [(1, 0x40000)] [] spF) spF

theorem witness_pdef : ∀ x ∈ [(0x10025, 1, true), (0x10025, 0, false), (0x10024, 1, false)],
    calm (sPdef x.1 x.2.1) cxPdef = true
    ∧ (match recordAt (sPdef x.1 x.2.1) cxPdef true 0x40000 32 32 with
      | some (u, bs) => (polderDescOf bs).valid == (x.1 % 2 == 1) && decide ((polderDescOf bs).id = x.2.1)
          && (match recordAt u cxPdef true (BitVec.ofNat 64 (polderDescOf bs).grantAddr) 512 64 with
            | some (v, gs) => v.pdefOk (polderDescOf bs) (shareMap gs) == x.2.2
            | none => false)
      | none => false) = true := by decide +kernel

/-- PRESIZE of a polder to the set it has, to another, and while it is RESIZING; PSTAT of ids 255 and 256. -/
def sPre (st : PolderState) (cur : Nat) : State :=
  { mem8 (demoRegs [(1, 1), (2, 0x40000)] []) [(0x40000, 0xF), (0x40200, 0x50000), (0x40208, 7)] with
    polders := demo.polders ++ [(1, { state := st, owner := 1, grant := 0xFF, current := BitVec.ofNat 4096 cur })] }
def cxPre : Cx := demoCx (demoGrp [(1, 1), (2, 0x40000)] [] demoSp) demoSp

theorem witness_presize : (∀ x ∈ [(PolderState.active, 0xF), (.active, 3), (.resizing, 0xF)], calm (sPre x.1 x.2) cxPre = true
      ∧ (sPre x.1 x.2).polders.look 1 = some { state := x.1, owner := 1, grant := 0xFF, current := BitVec.ofNat 4096 x.2 }
      ∧ (recordAt (sPre x.1 x.2) cxPre false 0x40000 576 64).any (fun r => decide (r.1.polders = (sPre x.1 x.2).polders)
          && decide (Memory.toNat ((r.2.drop 0x200).take 8) = 0x50000) && (List.range 52).all (fun k => r.2.getD (0x20C + k) 0 == 0)
          && decide (shareMap (r.2.take 512) = 0xF)) = true)
    ∧ Admits s0 cx0 { gr := [63], gw := [0] } := ⟨by decide +kernel, s0_admits _ rfl⟩

/-- PagerAndMigration: a split parked at a fetch, with room in its store queue and without. -/
def spPage : Split := { demoSp with state := .faulted, faultAddr := 0x40000000 }
def sPager (q : List StoreEntry) : State :=
  { demoOf { demoGrp [] [] spPage with storeQ := q } with
    pageReqs := [{ asid := 1, page := 0x4000, kinds := [.fetch], requesters := [.split 32 0] }] }

theorem witness_pager : (∀ n ∈ [31, 32], ((sPager (List.replicate n { pieces := [] })).openRequest 1 0x4000).any (fun q => decide (q.requesters = [.split 32 0]))
      ∧ ((sPager (List.replicate n { pieces := [] })).cxByTag 32 0).any (fun cx => decide (cx.team.state = .resident) && decide (cx.sp.state = .faulted)
          && decide (cx.grp.storeQ.length = n) && decide (cx.grp.res.look cx.k = some cx.sp)))
    ∧ (sPager []).faultTags 0 32 0 = [] ∧ (sPager []).owed 0 32 0 = []
    ∧ (let s := sLeaf s0 0 0
       let pte : DWord := BitVec.ofNat 64 0x50001F
       s.openRequest 1 0x4000 = none ∧ (List.range 8).all (fun i => s.reachable .system (0x14000 + i)) = true ∧ s.walk fetchCtx 0x40000000 = .absent 4 0 0x14000 ∧ pte.getLsbD 0 = true ∧ pte.getLsbD 1 = true
         ∧ pte.getLsbD 6 = false ∧ s.leafOk pte 4 = true ∧ s.paKind (leafFrame pte) = .device ∧ Memory.wf s.mem = true ∧ s.migrations = []) := by
  decide +kernel

/-- A migration before its first line, at line 511, complete, and on its way back. -/
def sMig (bound leaf : Nat) (ab : Bool) : State :=
  { sLeaf s0 leaf 0 with migrations := [{ asid := 1, page := 0x4000, frame := 0x50, target := 0x60, bound := bound, aborting := ab }] }

theorem witness_migration :
    ((sLeaf s0 0x50001F 0).leafAt 1 0x4000 = some (0x50001F, 0x14000) ∧ (sLeaf s0 0x50001F 0).paKind (0x60 * 65536) ≠ .nothing)
    ∧ (∀ p ∈ [(0, false), (511, false), (2, true)], Memory.wf (sMig p.1 0x50005F p.2).mem = true)
    ∧ ((sMig 512 0x50005F false).migration 1 0x4000).any (fun m => m.bound == 512 && !m.aborting)
    ∧ (sMig 512 0x50005F false).accessesOut (fun _ _ pa => pa / 65536 == 0x50) = false
    ∧ (sMig 512 0x50005F false).leafAt 1 0x4000 = some (0x50005F, 0x14000) ∧ leafFrame 0x50005F / 65536 = 0x50
    ∧ (∀ b ∈ [0, 2, 511, 512], (sMig b 0x50005F false).checkpointing = false)
    ∧ ({ s0 with mailbox := { background := some (.ckpt [2]) } } : State).checkpointing = true := by decide +kernel

/-- A migration to a frame of peer d, whose frames begin at 2^35 + 2^24 × d. -/
def sMigPeer (d : Nat) : State :=
  { s0 with migrations := [{ asid := 1, page := 0x4000, frame := 0x50, target := 2 ^ 35 + 2 ^ 24 * d, bound := 3 }] }

theorem witness_migration_peer : ∃ d : Nat, (sMigPeer d).rangeKind ((2 ^ 35 + 2 ^ 24 * d) * 65536 + 128 * 3) = .peer d
    ∧ (sMigPeer d).rangeKind (0x50 * 65536 + 128 * 3) = .device ∧ (sMigPeer d).checkpointing = false := by
  have h0 : s0.deviceBytes = 48 * 2 ^ 30 * 16 := by decide +kernel
  have hb : ∀ d, (sMigPeer d).deviceBytes = 48 * 2 ^ 30 * 16 := fun _ => h0
  by_cases h : Config.deviceNumber.toNat = 3
  · exact ⟨5, by simp [State.rangeKind, hb, h], by simp [State.rangeKind, hb], rfl⟩
  · exact ⟨3, by simp [State.rangeKind, hb]; omega, by simp [State.rangeKind, hb], rfl⟩

/-- A queue of 16 entries. -/
def queue0 (st : QueueState) (poster : Bool) (head tail : Nat) : Queue :=
  { asid := 1, maxk := 2, poster := poster, prio := 3, logsize := 4, headAddr := 0x70000, tailAddr := 0x70008, ringBase := 0x60000
    head := BitVec.ofNat 64 head, tail := BitVec.ofNat 64 tail, tailPa := 0x70008, state := st }
def sQ (gs : List (Nat × DWord)) (q : Queue) : State := { demoRegs gs [] with queues := [(0, q)] }
def cxQ (gs : List (Nat × DWord)) : Cx := demoCx (demoGrp gs [] demoSp) demoSp

/-- QueueInstructions: a queue with room for one entry and a full one; one that takes no post; a ring in no page, and one that may not be written. -/
theorem witness_qpost : (∀ t ∈ [15, 16], calm (sQ [(2, 0x40000)] (queue0 .armed true 0 t)) (cxQ [(2, 0x40000)]) = true)
    ∧ (match (sQ [] (queue0 .armed true 0 15)).checkGlobal 0 1 false 0x40000 128 128 .read with
      | .cause _ => false
      | .ok _ _ _ => true) = true
    ∧ s0.releaseWaits cx0 5 = false ∧ cx0.grp.postedFault = none ∧ s0.postFault (queue0 .armed true 0 15) = none
    ∧ (recordAt (sQ [(2, 0x40000)] (queue0 .armed true 0 15)) (cxQ [(2, 0x40000)]) false 0x40000 128 128).isSome = true
    ∧ s0.postFault { queue0 .armed true 0 0 with ringBase := 0x40000000 } = some (.page, 0x40000000)
    ∧ s0.postFault { queue0 .armed true 0 0 with ringBase := BitVec.ofNat 64 (2 ^ 60) } = some (.noncanon, 2 ^ 60) := by decide +kernel

theorem witness_post_entry :
    let s := sQ [] (queue0 .armed true 0 15)
    s.Maps 1 (0x60000 + 128 * 15) 128 128 .write 0x60780
    ∧ (s.writeAs .system 1 (0x60000 + 128 * 15) 128 (List.replicate 128 1)).1.Maps 1 0x70008 8 8 .write 0x70008 :=
  ⟨maps_of (by decide +kernel), maps_of (by decide +kernel)⟩

theorem witness_qstat_kabort : Admits s0 cx0 { gr := [0], gw := [63] } ∧ Admits s0 cx0 { gr := [63] } ∧ s0.kernels.look 1 = some fetchKernel
    ∧ Map.sorted s0.teams = true ∧ (sQ [] (queue0 .running false 3 5)).queues.look 0 = some (queue0 .running false 3 5) :=
  ⟨s0_admits _ rfl, s0_admits _ rfl, by decide +kernel, by decide +kernel, by decide +kernel⟩

/-- RegionsAndDeferral: REGION of the last registers, with a slot that may be written and one that may not. -/
theorem witness_region : Admits s0 cx0 { gr := regRun 48 16, ends := true, memory := true }
    ∧ cx0.ctx.regbase.toNat + cx0.team.slot * 8192 + cx0.grp.index * 256 = 0xFF00000000200000
    ∧ (match s0.checkGlobal 0 1 true 0xFF00000000200000 256 256 .write with
      | .ok pa _ _ => pa == 0x200000 && s0.homeReady (.core 0) pa true
      | .cause _ => false) = true
    ∧ Memory.wf s0.mem = true ∧ Admits s0 cx0 {} :=
  ⟨s0_admits _ rfl, by decide +kernel, by decide +kernel, by decide +kernel, s0_admits _ rfl⟩

/-- A spillway with its areas; a context that has none is the plain one. -/
def ctxSpill : Ctx := { fetchCtx with spillbase := 0xFF00000000080000 }
def spillWay : Spillway := { base := 0xFF00000000080000, starting := false, head := 1, tail := 2 }
def sSpill (target : Nat) (w : Spillway) : State :=
  { mem8 s0 [(0x80000, 0xFF00000000090000), (0x80008, 8), (0x80010, 0xA0000), (0x80018, 4), (0x80020, 0xB0000), (0x80028, 0xB0008)
      , (0x90020, 5), (0x90030, target)] with
    ctxs := [(1, ctxSpill)], spillways := [(1, w)] }
def cxSpill : Cx := { cx0 with ctx := ctxSpill }
def descSpill : SpillDesc :=
  { spbase := 0xFF00000000090000, splog := 8, rrbase := 0xA0000, rrlog := 4, rrhead := 0xB0000, rrtail := 0xB0008 }

theorem witness_gpfree : s0.spillways.look 1 = none
    ∧ ∀ t ∈ [256, 257], calm (sSpill 0 { spillWay with tail := t }) cxSpill = true
      ∧ (recordAt (sSpill 0 { spillWay with tail := t }) cxSpill true 0xFF00000000080000 64 64).any (fun r => decide (spillDescOf r.2 = some descSpill)
        && !r.1.ringElsewhere 1 descSpill && !r.1.releaseWaits cxSpill 4
        && mapsTo r.1 (0xFF00000000090000 + 32 * (t % 256)) 32 32 .write (0x90000 + 32 * (t % 256))) = true := by decide +kernel

theorem witness_spill_move : ∀ x ∈ [0, 1], let s := sSpill x spillWay
    s.checkpointing = false ∧ spillDescOf (s.physBytes 0x80000 64) = some descSpill ∧ s.physRead (0x90020 + 16) 8 = x ∧ s.tide = 0
    ∧ (mapsTo s 0xFF00000000080000 64 64 .read 0x80000 && mapsTo s 0xFF00000000090020 32 32 .read 0x90020 && mapsTo s 0xB0000 8 8 .read 0xB0000
      && mapsTo s 0xA0000 16 16 .write 0xA0000 && mapsTo s 0xB0008 8 8 .write 0xB0008) = true ∧ s.physRead 0xB0000 8 = 0 := by decide +kernel

/-- DispatchAndKernels: a queue whose head is a launch of one team, alone and beside one of higher priority; a queue with a head of no type; the 50 ns
after a take. -/
def sHead (word : Nat) (more : Map Queue) (last : Option Nat) : State :=
  { mem8 s0 [(0x60000, word)] with queues := (0, queue0 .running true 0 1) :: more, lastTake := last, time := 100 }

theorem witness_dispatch :
    (∀ q ∈ ([[], [(1023, { queue0 .running true 0 1 with prio := 7 })]] : List (Map Queue)), let s := sHead 1 q (some 50)
      let u := s.queues.keys.foldl State.validateHead s
      s.checkpointing = false ∧ 50 + 50 ≤ s.time.toNat ∧ Map.sorted u.queues = true ∧ u.queues ≠ []
      ∧ (∀ p ∈ u.queues, p.1 < 1024 ∧ p.2.prio < 8 ∧ u.takeable p.1 p.2 = true) ∧ (∀ p < 8, Bits.rd u.lastServed p 1023 < 1024))
    ∧ (sHead 1 [] (some 51)).time.toNat < 51 + 50
    ∧ (sHead 0 [] none).headEnd 0 (queue0 .running true 0 1) = .fault .type ∧ (sHead 0 [] none).takeable 0 (queue0 .running true 0 1) = false
    ∧ (match (sHead 1 [] none).headEnd 0 (queue0 .running true 0 1) with
      | .launch _ _ => true
      | _ => false) = true
    ∧ mapsTo (sHead 1 [] none) 0x70000 8 8 .write 0x70000 = true := by decide +kernel

/-- A watched tail that lies in the written line and one that does not, with a tail in range and one out of range. -/
theorem witness_watched : ∀ x ∈ [(3, true), (20, true), (3, false)],
    let s := { mem8 s0 [(0x70008, x.1)] with queues := [(0, queue0 .armed false 0 0)] }
    Map.sorted s.queues = true ∧ s.watchedTail (queue0 .armed false 0 0) = 0x70008 ∧ mapsTo s 0x70008 8 8 .read 0x70008 = true
    ∧ s.paKind 0x70008 = .device ∧ s.physRead 0x70008 8 = x.1
    ∧ (0x70008 / 128 = (if x.2 then 0x70008 else 0x60000) / 128) = (x.2 = true) := by decide +kernel

/-- A kernel with a team to place, on a part with room on core 1 and with no slot left; one with no team to place and none on a core. -/
def kernelOf (st : KernelState) (next : Nat) : Kernel := { fetchKernel with state := st, nextTeam := next }
def sPlace (k : Kernel) (slots : Nat) : State :=
  { s0 with
    queues := [(0, queue0 .armed true 0 0)], ctxs := [(1, { fetchCtx with maxteams := slots })], kernels := [(1, fetchKernel), (2, k)] }

theorem witness_placer :
    (∀ n ∈ [1, 2], let s := sPlace (kernelOf .placing 0) n
      s.kernels.look 2 = some (kernelOf .placing 0) ∧ s.placeable (kernelOf .placing 0) = true ∧ s.wantsPlace 2 (kernelOf .placing 0) = true
      ∧ s.offerOrder = [(1, fetchKernel), (2, kernelOf .placing 0)] ∧ (s.placeBand 2 (kernelOf .placing 0)).isSome = (n == 2))
    ∧ ({ sPlace (kernelOf .placing 0) 2 with kernels := [(2, kernelOf .placing 0)] } : State).offerOrder = [(2, kernelOf .placing 0)]
    ∧ (sPlace (kernelOf .placing 0) 2).freeSlots 1 1 = some [1]
    ∧ (sPlace (kernelOf .placing 0) 2).rectOrder fetchKernel.launch = [0] ++ 1 :: (rectangles fetchKernel.launch).drop 2
    ∧ (sPlace (kernelOf .placing 0) 2).hasRoom 0 fetchKernel.launch = false ∧ (sPlace (kernelOf .placing 0) 2).hasRoom 1 fetchKernel.launch = true
    ∧ (∀ p ∈ (sPlace (kernelOf .placing 0) 2).teams, p.2.kernel ≠ 2) := by decide +kernel

theorem witness_kernel_done : ∀ c ∈ [0, 0x50000],
    let k := { kernelOf .retiring 1 with launch := { fetchKernel.launch with caddr := BitVec.ofNat 64 c } }
    let s := sPlace k 2
    s.kernels.look 2 = some k ∧ s.queues.look 0 = some (queue0 .armed true 0 0) ∧ (∀ p ∈ s.teams, p.2.kernel = 2 → p.2.retired = true)
    ∧ mapsTo s 0x50000 4 4 .write 0x50000 = true := by decide +kernel

/-- QueueCommands: a payload that names queue 0 of context 1, with the queue in each state, with a kernel in flight and without. -/
theorem witness_queue_commands :
    (∀ st ∈ [QueueState.created, .armed, .running, .draining, .suspended, .faulted], let s := sQ [] (queue0 st true 0 1)
      s.mailbox.background = none ∧ payloadOk [0, 0, 1, 0] [(0, 2), (2, 2)] = true ∧ field [0, 0, 1, 0] 0 2 = 0 ∧ field [0, 0, 1, 0] 2 2 = 1
      ∧ s.queues.look 0 = some (queue0 st true 0 1) ∧ Map.sorted s.teams = true)
    ∧ (∃ k ∈ (sQ [] (queue0 .armed true 0 1)).kernels, k.2.queue = 0) ∧ (sQ [] (queue0 .armed true 0 1)).postFault (queue0 .armed true 0 1) = none
    ∧ payloadOk ([0, 0, 1, 0, 0, 0, 0, 0] ++ List.replicate 128 7) [(0, 2), (2, 2), (8, 128)] = true
    ∧ payloadOk ([0, 0] ++ List.replicate 6 0 ++ [1] ++ List.replicate 7 0 ++ [9, 9, 9, 9]) [(0, 2), (8, 8), (0x10, 4)] = true
    ∧ (let s := { sQ [] (queue0 .draining true 0 1) with mailbox := { background := some (.qsuspend 0) } }
       s.teamsOn (fun k => k.queue == 0) = true ∧ ({ s with teams := [] } : State).teamsOn (fun k => k.queue == 0) = false) := by decide +kernel

/-- QCREATE's descriptor of 16 entries. -/
theorem witness_qcreate : let s := mem8 s0 [(0x40000, 0x60000), (0x40008, 0x70008), (0x40010, 0x70000), (0x40018, 0x0184)]
    (queueOf 1 (s.physBytes 0x40000 64) 5).isSome = true ∧ mapsTo s 0x40000 64 64 .read 0x40000 = true ∧ s.queues.look 0 = none
    ∧ (queueOf 1 (s.physBytes 0x40000 64) 5).any (fun q => decide (q.headAddr = 0x70000) && decide (q.tailAddr = 0x70008)
        && decide (q.maxk = 1) && q.poster) = true
    ∧ mapsTo s 0x70000 8 8 .write 0x70000 = true ∧ mapsTo s 0x70008 8 8 .write 0x70008 = true
    ∧ payloadOk ([0, 0, 1, 0, 0, 0, 0, 0, 0, 0, 4] ++ List.replicate 5 0 ++ [5] ++ List.replicate 7 0) [(0, 2), (2, 2), (8, 8), (0x10, 8)] = true := by
  decide +kernel

/-- TeamEvents: a team in each state, with a group that runs, one that has exited, and none; a restart that is allowed. -/
def teamIn (st : TeamState) : Team := { kernel := 1, linear := 0, slot := 0, core := 0, state := st }
def sTeam (st : TeamState) (g : List Group) (restart : Bool) : State :=
  { s0 with
    teams := [(1, teamIn st)], groups := g.map fun x => (32, x), queues := [(0, queue0 .armed true 0 0)]
    kernels := [(1, { fetchKernel with launch := { fetchKernel.launch with restart := restart } })] }

theorem witness_team_events :
    (∀ st ∈ [TeamState.resident, .saving, .saved, .discarding, .ending], ∀ g ∈ ([[], [cx0.grp]] : List (List Group)), let s := sTeam st g true
      s.teams.look 1 = some (teamIn st) ∧ Map.sorted s.teams = true ∧ Map.sorted s.groups = true ∧ s.bandOfTeam (teamIn st) = [(1, teamIn st)]
      ∧ s.teamQuiet 1 = true ∧ s.saveReady 1 = true ∧ (s.core 0).matrixQ = [])
    ∧ (sTeam .resident [cx0.grp] true).bandDiscardable (teamIn .resident) = false
    ∧ (sTeam .resident [{ cx0.grp with region := true }] true).bandDiscardable (teamIn .resident) = true
    ∧ (sTeam .discarding [{ cx0.grp with storeQ := [{ pieces := [] }] }] true).teamQuiet 1 = false
    ∧ (let s := sTeam .saved [] false
       let k := { fetchKernel with launch := { fetchKernel.launch with restart := false } }
       s.kernels.look 1 = some k ∧ s.placeable k = true ∧ 5 ∈ rectangles k.launch ∧ s.restoreFits k (s.bandOfTeam (teamIn .saved)) 5 = true) := by
  decide +kernel

/-- ContextCommands: a BIND of ASID 2, and of one that is SUSPENDED; the payload of one ASID, with the context in each state. -/
def bindPayload (asid : Byte) : List Byte := [asid, 0, 0xFF, 0x3F, 4, 0, 0, 0] ++ Memory.ofNat 8 0x30000 ++ Memory.ofNat 8 0xFF00000000100000
  ++ Memory.ofNat 8 0xFF00000001000000 ++ Memory.ofNat 8 0xFF00000000200000 ++ Memory.ofNat 8 0xFF00000000300000 ++ Memory.ofNat 8 0

theorem witness_contexts :
    (∀ n ∈ [0, 1, 2], let a : Byte := BitVec.ofNat 8 n
      payloadOk (bindPayload a) [(0, 2), (2, 2), (4, 1), (8, 8), (0x10, 8), (0x18, 8), (0x20, 8), (0x28, 8), (0x30, 8)] = true
      ∧ field (bindPayload a) 0 2 = a.toNat ∧ field (bindPayload a) 2 2 = 16383 ∧ field (bindPayload a) 4 1 = 4)
    ∧ field (bindPayload 2) 8 8 = 0x30000 ∧ s0.paKind 0x30000 = .device ∧ field (bindPayload 2) 0x10 8 % 64 = 0
    ∧ inWindow (field (bindPayload 2) 0x10 8) = true ∧ field (bindPayload 2) 0x28 8 % 2048 = 0 ∧ inWindow (field (bindPayload 2) 0x28 8) = true
    ∧ s0.ctxs.look 2 = none ∧ (∀ x ∈ s0.ctxs, x.2.slot ≠ some 31)
    ∧ (∀ st ∈ [CtxState.active, .faulted, .suspending, .suspended], let s := { s0 with ctxs := [(1, { fetchCtx with state := st })] }
        s.mailbox.background = none ∧ payloadOk [1, 0] [(0, 2)] = true ∧ (s.ctxs.look (field [1, 0] 0 2)).any (fun c => c.state == st) = true)
    ∧ (let s := { s0 with mailbox := { background := some (.suspend 1) } }
       s.teamsOn (fun k => k.asid == 1) = true ∧ ({ s with teams := [] } : State).teamsOn (fun k => k.asid == 1) = false) := by decide +kernel

/-- SoftErrors: each site that names a thing. -/
theorem witness_soft_errors : s0.groups.look 32 = some cx0.grp ∧ (∃ t, s0.teams.look cx0.grp.team = some t ∧ 4 * t.core + cx0.grp.index % 4 = 0)
    ∧ Map.sorted s0.groups = true ∧ Bits.rd cx0.grp.names 63 2048 = 2048 :=
  ⟨by decide +kernel, ⟨{ kernel := 1, linear := 0, slot := 0, core := 0 }, by decide +kernel⟩, by decide +kernel, by decide +kernel⟩

/-- HomesAndBanks: a page in each class, for its owner and for another core. -/
def sClass (r : ClassRec) : State := { s0 with classes := [(5, r)], time := 4000000 }

theorem witness_classes :
    s0.paKind 0x50000 = .device ∧ s0.reachable (.core 7) 0x50000 = true ∧ s0.hostLines = [] ∧ s0.classes.look 5 = none
    ∧ (∀ r ∈ ([{ cls := .priv (.core 7) true }, { cls := .priv (.core 3) false }, { cls := .priv .host true }, { cls := .readOnly }, { cls := .shared }
        , { cls := .shared, held := true }] : List ClassRec), (sClass r).classes.look 5 = some r)
    ∧ (sClass { cls := .shared }).pageEntries 5 = [] ∧ 0 + 1024 ≤ (sClass { cls := .shared }).time.toNat / 2000 := by decide +kernel

/-- A polder of two shares, a line of it in a bank, and the line's directory entry. -/
def p1 : Polder := { state := .active, owner := 1, grant := 3, current := 3 }
def place1 : Nat := (p1.placeBy 3 false 0 2560).getD 0
def dir1 (e : DirEntry) : Map Home := [(s0.homeOf 2560, { dir := [(2560, e)] })]
def line1 : BankLine := { polder := 1, share := place1, number := 2560, set_ := 0, way := 0 }
def sBank (ls : List BankLine) (e : DirEntry) : State :=
  { sClass { cls := .shared } with polders := demo.polders ++ [(1, p1)], banks := [(0, { lines := ls })], homes := dir1 e }

theorem witness_banks : s0.polderInUse 1 = none
    ∧ (let s := sBank [line1] { lines := 1, sharers := .shared [0] }
       s.polderInUse 1 = some p1 ∧ (s.lookup 1 p1 0 2560).2 = some place1 ∧ s.findLine 1 place1 2560 = some line1
         ∧ (s.bank (place1 / 8)).asleep = none ∧ place1 < 2)
    ∧ (let s := sBank [] { lines := 1, sharers := .shared [] }
       (s.lookup 1 p1 0 2560).2 = none ∧ s.place p1 0 2560 = some place1 ∧ s.awaited (p1.dirLines 2560) = [] ∧ s.tracked 2560 = true)
    ∧ (let s := sBank [] { lines := 1, sharers := .shared [], awaiting := [4] }
       s.awaited (p1.dirLines 2560) ≠ [] ∧ s.dirEntry 2560 = some (2560, { lines := 1, sharers := .shared [], awaiting := [4] }))
    ∧ s0.dirEntry 2560 = none := by decide +kernel

/-- Two quiet siblings of 256 lines, and two of 512, which do not merge. -/
theorem witness_merge : ∀ n ∈ [256, 512], let x : DirEntry := { lines := n, sharers := .shared [1], conflictOldest := true }
    let s := { s0 with homes := [(s0.homeOf 2560, { dir := [(2560, x), (2560 + n, x)] })] }
    s.dirEntry 2560 = some (2560, x) ∧ (n = 256 → (s.home (s.homeOf 2560)).dir.look (2560 / (2 * n) * (2 * n)) = some x)
    ∧ (s.home (s.homeOf 2560)).dir.look (2560 + n) = some x ∧ 50 ≤ ageOf 0 0 true := by decide +kernel

/-- A bank whose generation is behind and one whose generation is due at a sweep; a sleep; a resize that drains, with a completion word. -/
theorem witness_generations :
    (let s := { s0 with banks := [(511, { generation := 8191 })], homes := [(15, { generation := 8191 })], time := 16384000 }
     s.banks.look 511 = some { generation := 8191 } ∧ s.homes.look 15 = some { generation := 8191 }
       ∧ (s.time.toNat / 2000 + 65536 - 8191) % 65536 ≠ 0 ∧ s.time.toNat / 2000 % 65536 ≠ 8191)
    ∧ (let p := { p1 with state := .resizing, old := 1, completion := some {
        asid := 1, addr := 0x50000, value := 7, pc := 0, lanes := 1, kernel := 1, team := 0, group := 0, split := 0, core := 0, firmware := false } }
       let s := { s0 with polders := demo.polders ++ [(1, p)] }
       s.polders.look 1 = some p ∧ mapsTo s 0x50000 4 4 .write 0x50000 = true ∧ s.shareFault.getLsbD 4095 = false) := by decide +kernel

/-- LinksAndPorts: a flit that arrives intact and one that does not, on the first and the last link; the states of a link. -/
theorem witness_links :
    (let f : Flit := { seq := 4095, payload := [1, 2, 3] }
     flitIntact (flitBytes f 1) = true ∧ flitIntact ((flitBytes f 1).set 0 9) = false
       ∧ ∀ x ∈ [2, 2 * (36 * 33 + 32) + 1], let s := { s0 with pairs := [(x / 2, { nextSeq := 4095, expect := 4095 })] }
         validPair (x / 2) = true ∧ x < 4096 ∧ s.carries x = true ∧ (s.pair (x / 2)).nextSeq = 4095 ∧ (s.link x).rxOld = none ∧ (s.link x).toSend = []
           ∧ (s.link x).swap = false ∧ (s.link x).oldFlits = [] ∧ (∀ t < 36, (s.pair (36 * (x / 2 / 36) + t)).resend = []) ∧ s.relayed = []
           ∧ s.txEntry x = s.rxEntry x)
    ∧ (let s : State := { s0 with laneMaps := [(laneKey 1 0 0 1, 0)] }
       s.carries 2 = true ∧ s.txEntry 2 ≠ s.rxEntry 2)
    ∧ (∀ l ∈ ([{}, { state := .replay, naks := 7, nakSeq := 5 }, { state := .half }, { state := .down }, { swap := true, swapAt := 5 }, { state := .replay, swap := true, swapWait := true, resent := [5] }
        , { replay := [{ seq := 5, payload := [] }], toSend := [5] }] : List Link),
        ({ s0 with links := [(2, l)] } : State).link 2 = l)
    ∧ s0.relayOk 1 0 = false ∧ s0.relayOk 1 31 = true ∧ validPair 0 = false
    ∧ (0x1F * 2 ^ 16 + 2 ^ 8 + 4 * 31 + 3) / 4 % 64 = 31 := by decide +kernel

theorem witness_ports :
    (∀ k ∈ [1, 2], (s0.pair k).down = false) ∧ s0.pairs = [] ∧ (s0.laneEntry 0 1 0 4).getLsbD 15 = true ∧ (s0.laneEntry 0 1 0 4).toNat / 256 % 16 = 1
    ∧ (∀ x ∈ [PortState.training, .up, .replay, .down], ({ s0 with ports := [(19, x)] } : State).ports.look 19 = some x)
    ∧ ({ s0 with relocking := [(0, 9, 8, 0)] } : State).relocking = [(0, 9, 8, 0)] ∧ s0.portMask 63 ≠ 0
    ∧ Admits s0 cx0 { gr := [0], gw := [63] } ∧ (cx0.grp.greg 0).toNat = 0 :=
  ⟨by decide +kernel, by decide +kernel, by decide +kernel, by decide +kernel, by decide +kernel, by decide +kernel, by decide +kernel
  , s0_admits _ rfl, by decide +kernel⟩

/-- MasterCycles: cycles at and beside a multiple of 16, a pulse and a swallowed one; candidates that starve and that do not. -/
theorem witness_cycles : Map.sorted s0.groups = true ∧ (s0.core 0).ckpat ≠ 0 ∧ (({ swallow := true } : CoreSt).cycle 16).pulsed = false
    ∧ (({} : CoreSt).cycle 17).pulsed = true := by decide +kernel

/-- PowerEvents: a core in service and one fenced; a warning 20 µs old; register values at the ends of their ranges. -/
theorem witness_power :
    s0.inService 0 = true ∧ ({ s0 with fenceMap := 1 } : State).inService 0 = false
    ∧ (let s := { s0 with chips := [(15, { canary := true, canaryAt := 0 })], time := 20000 }
       (s.chip 15).canary = true ∧ (s.chip 15).canaryClamp = false ∧ (s.chip 15).canaryAt + 20000 ≤ s.time.toNat)
    ∧ (({ s0 with chips := [(15, { trip := true })] } : State).chip 15).trip = true
    ∧ (10 * 2 ^ 52 + 0xFFFFFF * 2 ^ 28) / 2 ^ 24 = 10 * 2 ^ 28 + 0xFFFFFF * 2 ^ 4 ∧ (2 ^ 16 + 1000) % 2 ^ 32 = Bool.toNat true * 2 ^ 16 + 1000 := by
  decide +kernel

/-- InboundAccesses: a device without an export context, and one with an export context at a mapped page, at one that denies the access, and at none. -/
def sExport : State := { s0 with exports_ := [(63, 1)] }

theorem witness_inbound : sExport.exports_.look 0 = none ∧ sExport.exports_.look 63 = some 1 ∧ sExport.ctxs.look 1 = some fetchCtx
    ∧ sExport.checkpointing = false ∧ 0xFFF8 % 65536 + 8 ≤ 65536
    ∧ sExport.walk fetchCtx 0x50000 = .leaf 0x1F 30 0x12000
    ∧ (∀ k ∈ [AccessKind.read, .write, .atomic], sExport.useLeaf 0x1F 30 0x50000 k = .ok 0x50000 0x1F 30)
    ∧ (∀ w ∈ [true, false], (sExport.walkTouch 1 0x50000).homeReady (.peer 63) 0x50000 w = true) ∧ sExport.paKind 0x50000 = .device
    ∧ sExport.walk fetchCtx 0x40000000 = .absent 2 0 0x12008 ∧ sExport.physPoisoned 0x50000 8 = false
    ∧ sExport.inReset = false ∧ (List.range 16).all (fun i => s0.reachable (.peer 63) (0x50000 + i)) = true
    ∧ (let s := { sLeaf s0 0x500003 0 with exports_ := [(63, 1)] }
       s.walk fetchCtx 0x40000000 = .leaf 0x500003 16 0x14000 ∧ s.useLeaf 0x500003 16 0x40000000 .write = .cause .perm)
    ∧ payloadOk [63, 0, 1, 0] [(0, 1), (2, 2)] = true ∧ payloadOk [64, 0, 0, 0] [(0, 1), (2, 2)] = true := by decide +kernel

/-- Every port of a mask that names all that are present. -/
def allPorts (s : State) : List Nat := (List.range 20).filter fun k => (s.portMask 5).getLsbD k && s.portPresent k

theorem port_of_some (s : State) (n : Nat) (h : allPorts s = List.range 20) : (s.portOf 5 n).isSome = true := by
  have h' : ((List.range 20).filter fun k => (s.portMask 5).getLsbD k && s.portPresent k) = List.range 20 := h
  simp only [State.portOf, h']
  rw [if_neg (by decide), List.getElem?_eq_getElem (by simpa using Nat.mod_lt _ (by decide))]
  rfl

/-- PeerReplies: a request for one lane, in time and timed out, and a posted store. -/
def peerLane (lanes : Word) : PeerReq := { device := 5, sent := 0, core := 0, tag := some 3, lanes := lanes }
def sPeer (e : SluiceEntry) (r : PeerReq) : State := { s0 with cores := [(0, { sluice := [(3, e)] })], peerReqs := [(7, r)], time := 2000000 }

theorem witness_peer_replies :
    (∀ p ∈ [0x80000000, 0xC0000000], let e := { owedLane with pend := BitVec.ofNat 32 p }
      let s := sPeer e (peerLane 0x80000000)
      s.peerReqs.look 7 = some (peerLane 0x80000000) ∧ s.peerReqs.look 6 = none ∧ (s.core 0).sluice.look 3 = some e
      ∧ s.groups.look e.group = some cx0.grp ∧ (∀ q ∈ e.reqs, q.err = none ∧ q.bad = false) ∧ (e.reqs.map LaneReq.lane).Nodup ∧ e.fault = 0
      ∧ e.landing = [] ∧ e.reuse = none ∧ e.access.acquire = none ∧ (peerLane 0x80000000).lanes &&& ~~~ e.pend = 0
      ∧ (e.pend &&& ~~~ (peerLane 0x80000000).lanes ≠ 0) = (p = 0xC0000000) ∧ s.time.toNat ≥ 0 + 2000000 ∧ allPorts s = List.range 20)
    ∧ (let f : InFlight := { group := 32, entry := { pieces := [piece 0x40000] } }
       let r : PeerReq := { peerLane 1 with tag := none, entry := some f }
       let s := sPeer owedLane r
       s.peerReqs.look 7 = some r ∧ s.groups.look 32 = some cx0.grp ∧ (s.teams.look 1).isSome = true ∧ cx0.grp.postedFault = none)
    ∧ (let r : PeerReq := { peerLane 1 with tag := none, waiter := some (32, 0), bytes := 4 }
       let s := sPeer owedLane r
       s.peerReqs.look 7 = some r ∧ s.groups.look 32 = some cx0.grp ∧ allPorts s = List.range 20) := by
  decide +kernel

/-- PublishSubscribe: a region of one page. -/
def reg (subs : List Subscriber) : PubRegion := { asid := 1, base := 0x50000, pages := 1, vaddr := 0x40008, subs := subs }
def sPub (subs : List Subscriber) (x : DWord) : State := { demoRegs [(1, x), (2, 0x80000)] [] with pubs := [(255, reg subs)] }
def cxPub (x : DWord) : Cx := demoCx (demoGrp [(1, x), (2, 0x80000)] [] demoSp) demoSp

theorem witness_publish :
    (∀ x ∈ [254, 255, 256, 0x3FFF, 0x4000], calm (sPub [] (BitVec.ofNat 64 x)) (cxPub (BitVec.ofNat 64 x)) = true)
    ∧ (sPub [] 0).pubs.look 255 = some (reg []) ∧ (sPub [] 0).pubs.look 254 = none ∧ (sPub [] 0).releaseWaits (cxPub 0) 5 = false
    ∧ (match (sPub [] 0).checkSystem 1 0x40008 8 8 .atomic with
      | .ok pa _ _ => pa == 0x40008 && (sPub [] 0).homeReady (.core 0) pa true
      | .cause _ => false) = true
    ∧ ((sPub [] 0).physWrite 0x50010 [7]).walk fetchCtx 0x50000 = .leaf 0x1F 30 0x12000
    ∧ (leafFrame 0x1F + 0x50000 % 2 ^ 30) / 65536 = 0x50010 / 65536 ∧ (0x80000 : DWord).toNat % 65536 = 0
    ∧ (match (sPub [] 0).engineXlateAt none 1 0x80000 true false with
      | .ok pa => pa == 0x80000
      | _ => false) = true
    ∧ (sPub [] 0).copyPresent 1 0x80000 255 = true ∧ (sPub [] 0).copyPresent 1 0x40000000 255 = false := by decide +kernel

/-- A subscriber at this device or at another, with each kind of work left. -/
theorem witness_subscribers : (∃ d < 2, d ≠ Config.deviceNumber.toNat) ∧
    ∀ d, ∀ w ∈ ([([], [(0, 4)], 3), ([(5, 9)], [(1, 4)], 2), ([(5, 9)], [], 3), ([], [], 2)] : List (List (Nat × Byte) × List (Nat × DWord) × Nat)),
      let x : Subscriber := { device := d, copy := 0x80000, asid := 1, queue := w.1, version := BitVec.ofNat 64 w.2.2, ends := w.2.1 }
      (sPub [x] 0).pubs.look 255 = some (reg [x]) ∧ (reg [x]).subs[0]? = some x := by
  constructor
  · by_cases h : Config.deviceNumber.toNat = 0
    · exact ⟨1, by omega, by omega⟩
    · exact ⟨0, by omega, by omega⟩
  · intro d w _
    exact ⟨rfl, rfl⟩

/-- A subscription request that waits at its split, to this device and to another. -/
theorem witness_psub : ∀ d, let r : PeerReq := { device := d, sent := 0, core := 0, lanes := 1, vaddr := 0x80000, asid := 1, psub := some (32, 0), bytes := 255, tag := none }
    let s := { sPub [] 0 with peerReqs := [(7, r)] }
    s.peerReqs.look 7 = some r ∧ s.cxByTag 32 0 = some (cxPub 0) ∧ (cxPub 0).gid = 32 ∧ (cxPub 0).sp.tag = 0 := fun _ =>
  ⟨rfl, by rfl, rfl, rfl⟩

theorem witness_pubdef : let p := [7, 1, 1, 0, 0, 0, 0, 0] ++ Memory.ofNat 8 0x50000 ++ Memory.ofNat 8 1 ++ Memory.ofNat 8 0x40008 ++ List.replicate 40 0
    payloadOk p [(0, 1), (1, 1), (2, 2), (8, 64)] = true ∧ field p 0 1 = 7 ∧ field p 1 1 = 1 ∧ field p 2 2 = 1 ∧ field p 8 8 = 0x50000
    ∧ field p 0x10 8 = 1 ∧ field p 0x18 8 = 0x40008 ∧ field p 0x20 40 = 0 ∧ mapsTo s0 0x40008 8 8 .write 0x40008 = true ∧ s0.paKind 0x40008 = .device := by
  decide +kernel

/-- CollectiveResults: a descriptor over 64 ranks, valid at whatever device number this device has, of an all-reduce of 128 words. -/
def collDesc (rank : Nat) : List Byte := Memory.ofNat 8 0x50000 ++ Memory.ofNat 8 0x60000 ++ Memory.ofNat 8 0x40040 ++ Memory.ofNat 8 0 ++ Memory.ofNat 8 0
  ++ Memory.ofNat 4 7 ++ Memory.ofNat 4 (64 * 2 ^ 16 + rank * 2 ^ 8) ++ Memory.ofNat 8 128 ++ Memory.ofNat 8 0
def collRing : List Byte := (List.range 64).map (BitVec.ofNat 8)

theorem witness_coll_descriptor : ∃ rank < 64, (collOf 1 (collDesc rank) collRing).isSome = true ∧ field (collDesc rank) 0x10 8 % 64 = 0 := by
  obtain ⟨n, hn⟩ : ∃ n, n = Config.deviceNumber.toNat := ⟨_, rfl⟩
  have hlt : n < 64 := hn ▸ Config.deviceNumber.isLt
  refine ⟨n, hlt, ?_, ?_⟩
  · unfold collOf
    rw [← hn]
    clear hn
    revert n
    decide +kernel
  · clear hn
    revert n
    decide +kernel

/-- The descriptor and its ring in memory, read for step 0 and for a step that is not due. -/
theorem witness_coll : (∀ n ∈ [0, 63], let s := { demoRegs [(1, 0x40000), (2, BitVec.ofNat 64 (n % 2))] [] with
        mem := Memory.setBytes demo.mem 0x40000 (collDesc n ++ collRing) }
      let cx := demoCx (demoGrp [(1, 0x40000), (2, BitVec.ofNat 64 (n % 2))] [] demoSp) demoSp
      calm s cx = true ∧ (match recordAt s cx false 0x40000 64 64 with
        | some (u, bs) => decide (bs = collDesc n) && (match recordAt u cx false 0x40040 64 64 with
          | some (v, ring) => decide (ring = collRing) && decide (v.colls = []) && (match v.checkGlobal 0 1 false 0x40000 64 64 .read with
            | .ok key _ _ => key == 0x40000 && decide (v.paKind key = .device)
            | .cause _ => false)
          | none => false)
        | none => false) = true)
    ∧ collSteps 0 64 = 126 := by decide +kernel

/-- Steps of an all-reduce over two ranks in direct mode: the first of them issued, the last of them due, and a failed one. -/
def coll2 : Collective :=
  { asid := 1, src := 0x50000, dst := 0x60000, caddr := 0x70000, stepAddr := 0x70010, cval := 7, ring := [3, 5], rank := 1, shadow := false, op := 3
    count := 4, issued := 2, finished := 1, teams := [1], origRing := [3, 5] }

/-- A range within a page reaches a physical address for an engine. -/
def engineAt (s : State) (va n : Nat) (write : Bool) (pa : Nat) : Bool :=
  0 < n && va / 65536 == (va + n - 1) / 65536 && decide (s.rangeKind pa = .device)
    && (List.range n).all (fun i => s.paKind (pa + i) == .device && s.reachable .system (pa + i))
    && match s.engineXlateAt none 1 va write false with
    | .ok x => x == pa
    | _ => false

theorem engine_of {s : State} {va n pa : Nat} {write : Bool} (h : engineAt s va n write pa = true) : s.EngineMaps 1 va n write pa := by
  simp only [engineAt, Bool.and_eq_true, decide_eq_true_eq, beq_iff_eq, List.all_eq_true, List.mem_range] at h
  obtain ⟨⟨⟨⟨h0, h1⟩, h2⟩, hr⟩, h3⟩ := h
  refine ⟨h0, h1, ?_, fun d => by rw [h2]; exact PaKind.noConfusion,
    fun i hi => ⟨fun d => by rw [(hr i hi).1]; exact PaKind.noConfusion, fun _ => (hr i hi).2⟩⟩
  split at h3
  · next e => rw [e, eq_of_beq h3]
  · exact absurd h3 (by decide)

theorem witness_coll_steps :
    (let s := { s0 with colls := [(0x40000, coll2)] }
     s.colls.look 0x40000 = some coll2 ∧ coll2.rank < coll2.ranks ∧ 2 ≤ coll2.ranks ∧ coll2.finished < coll2.issued
       ∧ coll2.finished + 1 = collSteps coll2.op coll2.ranks ∧ coll2.issued = collSteps coll2.op coll2.origRing.length
       ∧ List.length (List.replicate 8 (1 : Byte)) = (coll2.chunk (coll2.plan coll2.finished).2.1).2 * collSize coll2.op
       ∧ engineAt s (coll2.dst.toNat + (coll2.chunk (coll2.plan 1).1).1 * 4) 8 false 0x60000 = true
       ∧ engineAt s (coll2.dst.toNat + (coll2.chunk (coll2.plan 1).2.1).1 * 4) 8 true 0x60008 = true
       ∧ (coll2.plan 0).2.2 = true ∧ engineAt s 0x50000 8 false 0x50000 = true
       ∧ (match s.collMove 0x40000 coll2 (List.replicate 8 1) with
         | .ok u _ => decide (u.groups = s.groups) && decide (u.teams = s.teams) && engineAt u 0x70010 4 true 0x70010 && engineAt u 0x70000 4 true 0x70000
         | _ => false) = true)
    ∧ engineAt s0 0x70000 4 true 0x70000 = true := by decide +kernel

/-- CREFORM and CABORT of a collective in shadow mode that has failed: payloads that name it. -/
theorem witness_collective_commands :
    (let p := [1, 0, 0, 0, 0, 0, 0, 0] ++ Memory.ofNat 8 0x40000
     payloadOk p [(0, 2), (8, 8)] = true ∧ field p 8 8 = 0x40000
       ∧ payloadOk (p ++ [0, 2] ++ List.replicate 62 0 ++ [2, 1]) [(0, 2), (8, 8), (0x10, 64), (0x50, 1), (0x51, 1)] = true)
    ∧ mapsTo s0 0x40000 64 64 .read 0x40000 = true ∧ List.Sublist [0, 2] [0, 1, 2]
    ∧ (match s0.checkSystem 1 0x40001 64 64 .read with
      | .ok _ _ _ => false
      | .cause _ => true) = true := by decide +kernel

/-- HostAndMailbox: a line that the host may have and one whose page is a core's; a held line; a payload too short, one with a byte outside its fields,
and one that is right. -/
theorem witness_host :
    s0.rangeKind 0x50000 = .device ∧ s0.inReset = false ∧ (List.range 65536).all (fun i => i % 128 != 0 || s0.reachable .host (0x50000 + i)) = true
    ∧ 0x50000 % 65536 + 65536 ≤ 0x50000 % 65536 + 65536 ∧ s0.homeReady .host 0x50000 true = true
    ∧ (sClass { cls := .priv (.core 7) true }).homeReady .host 0x50000 true = false
    ∧ (0x50000 / 128 ∈ ({ s0 with hostLines := [0xA00] } : State).hostLines)
    ∧ s0.mailbox.background = none ∧ payloadOk [1] [(0, 2)] = false ∧ payloadOk [1, 0, 3] [(0, 2)] = false ∧ payloadOk [1, 0, 0] [(0, 2)] = true := by
  decide +kernel

/-- HostCommands: REGREAD at the ends of its range, IMGLOAD of an image within the range of lengths and of one below it, ATTEST with an index left,
IDEKEY, CKPT of one device and of none; and each background operation. -/
theorem witness_host_commands :
    payloadOk (Memory.ofNat 4 0x1BF00 ++ Memory.ofNat 4 64) [(0, 4), (4, 4)] = true
    ∧ payloadOk (Memory.ofNat 8 (2 ^ 48 - 9796) ++ Memory.ofNat 8 9796) [(0, 8), (8, 8)] = true
    ∧ payloadOk (List.replicate 32 9) [(0, 32)] = true ∧ s0.xmssNext < 2 ^ 20
    ∧ payloadOk ([1, 1, 2, 1] ++ List.replicate 12 0 ++ List.replicate 44 8) [(0, 1), (1, 1), (2, 1), (3, 1), (0x10, 32), (0x30, 12)] = true
    ∧ payloadOk [1, 0, 0, 0, 0, 0, 0, 0, 63] [(0, 1), (8, field [1, 0, 0, 0, 0, 0, 0, 0, 63] 0 1)] = true
    ∧ payloadOk [0, 0, 0, 0, 0, 0, 0, 0] [(0, 1), (8, field [0, 0, 0, 0, 0, 0, 0, 0] 0 1)] = true
    ∧ (∃ c ∈ s0.ctxs, c.2.state ≠ .suspended) ∧ (∀ c ∈ State.reset.ctxs, c.2.state = .suspended)
    ∧ Memory.wf s0.mem = true ∧ Memory.wf s0.safeTier = true := by decide +kernel

/-- BootAndPower, MemoryStaysCanonical: a memory that is not empty. -/
theorem witness_boot : Memory.wf s0.mem = true ∧ s0.mem ≠ [] := by decide +kernel

/-- WordsOfTheSpec. -/
theorem test_words_of_the_spec :
    (∀ p ∈ [(0x00000000, Instr.iadd 0 0 0 0), (0x4020C301, .iaddImm 2 3 3 1), (0x300420C4, .ffma 1 2 3 4), (0x590841C2, .ldW 2 4 7 2)
      , (0xAB67FFFB, .braD 3 1 (-5)), (0xA1041234, .gldq 2 4 0x1234), (0xE8600004, .fence 4), (0xE8000000, .nop), (0xE8100005, .trap 5)
      , (0xE8400050, .sysr 0 5 0), (0xE1001050, .coll 4 5), (0xE1101800, .pubv 6), (0xE1201870, .psub 6 7), (0xE1300880, .lstat 2 8)],
    decodeTableWord 32 p.1 = some p.2)
    ∧ decodeTableWord 32 0x78000000 = none ∧ decodeTableWord 32 0x40700000 = none := by decide +kernel

/-- The words of BranchResults, TrapTaken and MarksAndMaskMoves. -/
theorem test_words_of_control : decodeTableWord 32 0xB3000F00 = some (.ret 60) ∧ decodeTableWord 32 0xB32001C0 = some (.brx 7)
    ∧ decodeTableWord 32 0xE8000000 = some .nop ∧ ∀ c < 16, decodeTableWord 32 (0xE8100000 + c) = some (.trap (BitVec.ofNat 4 c)) := by
  decide +kernel

/-- DecodeAndEncodeAgree: a well-formed instruction of the first family and of the last, with its word. -/
theorem witness_encodings : encode (.iaddImm 2 3 3 1) = some 0x4020C301 ∧ wellFormed 8 (.iaddImm 2 3 3 1) = true
    ∧ encode (.lstat 2 8) = some 0xE1300880 ∧ wellFormed 8 (.lstat 2 8) = true := by decide +kernel

/-- StepRunsDecoded: a split whose word decodes, one whose word decodes to none, one that cannot fetch, and one that cannot issue. -/
def sStep (w pc : Nat) (st : SplitState) : State :=
  { State.reset.placeWord w with groups := [(32, demoGrp [] [] { demoSp with pc := BitVec.ofNat 64 pc, state := st, ready := true })] }

theorem witness_step :
    (∀ p ∈ [(0xE8000000, 0x20000, SplitState.ready), (0x78000000, 0x20000, .ready), (0, 0x40000000, .ready), (0, 0x20000, .parked)],
      let s := sStep p.1 p.2.1 p.2.2
      s.agenda = [] ∧ s.inReset = false ∧ s.mergeNow = none ∧ s.probeQ = [] ∧ s.picking = false ∧ s.probed = true ∧ s.issueQ = [(32, 0)]
      ∧ ({ s with probed := false, probeQ := [(32, 0)] } : State).mergeNow = none
      ∧ (s.cxOf 32 0).any (fun cx => cx.canIssue == (p.2.2 == .ready) && cx.sp.ready
          && (match ({ s with issueQ := [] } : State).fetch cx with
            | .word w _ => w.toNat == p.1 && p.2.1 == 0x20000
            | .page => p.2.1 == 0x40000000
            | _ => false)) = true)
    ∧ (match (sStep 0 0x20000 .ready).checkGlobal 0 1 false 0x20000 4 4 .fetch with
      | .ok pa _ _ => pa == 0x20000 && (sStep 0 0x20000 .ready).homeReady (.core 0) pa false && !(sStep 0 0x20000 .ready).physPoisoned pa 4
      | .cause _ => false) = true
    ∧ (let s := { sStep 0 0 .ready with agenda := [.masterCycle 1] }
       s.mergeNow = none ∧ s.agenda ≠ [])
    ∧ ({ demo with groups := [(32, { demoGrp [] [] demoSp with res := [(0, demoSp), (1, demoSp)] })] } : State).mergeNow = some (32, 0, 1) := by
  decide +kernel

/-- MemoryStaysCanonical, MapsStayOrdered, SplitsStayApart: a state that meets the invariants, and whose step answers a next state. -/
theorem witness_invariants : Memory.wf (sStep 0xE8000000 0x20000 .ready).mem = true ∧ (sStep 0xE8000000 0x20000 .ready).Ordered
    ∧ (∀ p ∈ (sStep 0xE8000000 0x20000 .ready).groups, p.2.SplitsApart)
    ∧ ∃ t, step (sStep 0xE8000000 0x20000 .ready) = .next t := by
  refine ⟨by decide +kernel, ⟨by decide +kernel, by decide +kernel, by decide +kernel, by decide +kernel⟩, ?_, ?_⟩
  · intro p hp
    have : p = (32, demoGrp [] [] { demoSp with pc := BitVec.ofNat 64 0x20000, state := .ready, ready := true }) := by simpa [sStep] using hp
    subst this
    exact ⟨by decide +kernel, by decide +kernel, by decide +kernel, by decide +kernel, by decide +kernel⟩
  · have h : (match step (sStep 0xE8000000 0x20000 .ready) with
      | .next _ => true
      | _ => false) = true := by decide +kernel
    split at h
    · next t e => exact ⟨t, e⟩
    · exact absurd h (by decide)

/-- FencingOnlyAtBoot: an instruction that is neither event and answers a next state. -/
theorem witness_fencing : (∀ f sh c v, Instr.nop ≠ .boot f sh c v) ∧ Instr.nop ≠ .powerLoss ∧ (grpAfter .nop s0).isSome = true :=
  ⟨fun _ _ _ _ => nofun, nofun, by decide +kernel⟩

end Sys2Proof.Tests
end

section
/-! SUPPORT. The checks before an instruction of the issuing split executes (R99 check 6, R216, R218, R242), each said once for every
instruction word, and the statement about them. -/

namespace Sys2Proof.Machine

/-! ### What each check answers -/

/-- The instruction is a word whose checks are those of `u`, whatever its effect is. -/
def Guarded (i : Instr) (u : Uses) : Prop := ∃ body, ∀ s, exec i s = gate u body s

/-- Of the issuing split, an instruction runs its checks and then its effect; it is not examined only. -/
theorem Guarded.exec_issuer {i : Instr} {u : Uses} {s : State} {cx : Cx} (hi : Guarded i u) (hs : s.issuer = some cx) :
    ∃ body, exec i s = checked u body cx s := by
  obtain ⟨body, he⟩ := hi
  obtain ⟨hp, hc⟩ := State.issuer_chosen hs
  exact ⟨body, by simp [he, gate, hp, hc]⟩

/-- A cause raised for the whole split, with no address. -/
theorem raises_of_trapAll {i : Instr} {s : State} {cx : Cx} {c : Cause} (hs : s.issuer = some cx)
    (he : exec i s = .next (s.trapAll cx c)) : Raises i s cx c cx.sp.mask 0 0 cx.sp.pc 0 :=
  State.raiseTrap_spec hs (x := { cause := c, lanes := cx.sp.mask }) rfl he

section Checks

variable {i : Instr} {u : Uses} {s : State} {cx : Cx} (hi : Guarded i u) (hs : s.issuer = some cx)

include hi hs

/-- First check: replies owed outside an open window park the split (R216). -/
theorem Guarded.parks {tags : List Nat} (hp : parkTags (s.owed cx.core cx.gid cx.sp.tag) cx.sp.windows u = tags) (hne : tags ≠ []) :
    exec i s = .next (s.park cx.gid cx.sp.tag tags) := by
  obtain ⟨body, he⟩ := hi.exec_issuer hs
  simp [he, checked, hp, hne]

variable (hfree : parkTags (s.owed cx.core cx.gid cx.sp.tag) cx.sp.windows u = [])

include hfree

/-- Second check: a firmware-only instruction in program mode (R100). -/
theorem Guarded.raises_priv (hu : u.firmware = true) (hm : cx.sp.firmware = false) : Raises i s cx .priv cx.sp.mask 0 0 cx.sp.pc 0 := by
  obtain ⟨body, he⟩ := hi.exec_issuer hs
  exact raises_of_trapAll hs (by simp [he, checked, hfree, hu, hm])

variable (hu : u.firmware = false)

include hu

/-- Third check: a register that is pending for the split itself (R218). -/
theorem Guarded.raises_lookahead (hown : u.touches (s.pending cx.core cx.gid fun t => t == cx.sp.tag) = true) :
    Raises i s cx .lookahead cx.sp.mask 0 0 cx.sp.pc 0 := by
  obtain ⟨body, he⟩ := hi.exec_issuer hs
  exact raises_of_trapAll hs (by simp [he, checked, hfree, hu, hown])

variable (hown : u.touches (s.pending cx.core cx.gid fun t => t == cx.sp.tag) = false)

include hown

/-- Fourth check: a register that is pending for another split stalls the instruction (R218). -/
theorem Guarded.stalls (hothers : u.touches (s.pending cx.core cx.gid fun t => t != cx.sp.tag) = true) : exec i s = .next s := by
  obtain ⟨body, he⟩ := hi.exec_issuer hs
  simp [he, checked, hfree, hu, hown, hothers]

/-- Fifth check: a poisoned source (R150, R242). -/
theorem Guarded.raises_softError (hothers : u.touches (s.pending cx.core cx.gid fun t => t != cx.sp.tag) = false)
    (hpoison : u.poisoned cx.grp = true) : Raises i s cx .softError cx.sp.mask 0 0 cx.sp.pc 0 := by
  obtain ⟨body, he⟩ := hi.exec_issuer hs
  exact raises_of_trapAll hs (by simp [he, checked, hfree, hu, hown, hothers, hpoison])

end Checks

/-! ### The instructions that the statement names -/

theorem guarded_iadd (g : BitVec 3) (d a b : BitVec 6) : Guarded (.iadd g d a b) (opLR 0 0 g d.toNat 1 a.toNat 1 b.toNat 1).uses :=
  ⟨_, fun _ => rfl⟩

theorem guarded_gadd (w : BitVec 3) (d a b : BitVec 6) : Guarded (.gadd w d a b) { gr := [a.toNat, b.toNat], gw := [d.toNat] } :=
  ⟨_, fun _ => rfl⟩

theorem guarded_sysr (n b : BitVec 6) (u : BitVec 4) :
    Guarded (.sysr n b u) { gw := [b.toNat], firmware := !sysProgram (n.toNat * 16 + u.toNat) } := ⟨_, fun _ => rfl⟩

/-- The firmware-only instructions (R100). -/
theorem guarded_firmware (n b a : BitVec 6) (u : BitVec 4) :
    ∀ i ∈ [Instr.eret, .trapret, .sysw n b u, .pdef a, .tlbiPage a, .tlbiAsid a, .tlbiAll, .tlbi2m a, .tlbi1g a],
      ∃ use, Guarded i use ∧ use.firmware = true := by
  simp only [List.forall_mem_cons, List.not_mem_nil, false_implies, implies_true, and_true]
  refine ⟨?eret, ?trapret, ?sysw, ?pdef, ?tlbiPage, ?tlbiAsid, ?tlbiAll, ?tlbi2m, ?tlbi1g⟩
  all_goals exact ⟨_, ⟨_, fun _ => rfl⟩, rfl⟩

theorem iadd_poisoned (g : BitVec 3) (d a b : BitVec 6) {grp : Group} (h : grp.vPoison.getLsbD a.toNat = true) :
    (opLR 0 0 g d.toNat 1 a.toNat 1 b.toNat 1).uses.poisoned grp = true := by
  simp [Uses.poisoned, LaneOp.uses, opLR, regRun, h]

/-! ### Replies owed and pending registers of a core with at most one access -/

@[simp] theorem parkTags_nil (ws : List Window) (u : Uses) : parkTags [] ws u = [] := rfl

/-- An open window admits the instruction, unless it ends windows or is a memory event (R216). -/
theorem parkTags_open {tag : Nat} {ws : List Window} {u : Uses} (he : u.ends = false) (hm : u.memory = false)
    (h : ∃ x ∈ ws, x.tag = tag ∧ x.left ≠ 0) : parkTags [tag] ws u = [] := by
  simpa [parkTags, he, hm] using h

/-- With no window of a tag open, the split parks on it (R216). -/
theorem parkTags_closed {tag : Nat} {ws : List Window} (u : Uses) (h : ∀ x ∈ ws, x.tag = tag → x.left = 0) :
    parkTags [tag] ws u = [tag] := by
  have hnone : (ws.any fun w => w.tag == tag && w.left != 0) = false := by simpa using h
  simp [parkTags, hnone]

@[simp] theorem Uses.touches_nil (u : Uses) : u.touches ([], []) = false := by simp [Uses.touches, overlap]

/-- An instruction names a pending g register that is one of its sources or its destination. -/
theorem Uses.touches_greg {u : Uses} {r : Nat} (h : r ∈ u.gr ++ u.gw) : u.touches (Dest.grp r).regs = true := by
  have hany : overlap (u.gr ++ u.gw) [r] = true := List.any_eq_true.2 ⟨r, h, by simp⟩
  simp [Uses.touches, Dest.regs, hany]

section Core

variable {s : State} {core gid : Nat}

theorem State.owed_of_empty (hl : (s.core core).sluice = []) (hm : (s.core core).matrixQ = []) (tag : Nat) :
    s.owed core gid tag = [] := by
  simp [State.owed, hl, hm]

theorem State.pending_of_empty (hl : (s.core core).sluice = []) (hm : (s.core core).matrixQ = []) (who : Nat → Bool) :
    s.pending core gid who = ([], []) := by
  simp [State.pending, hl, hm]

variable {t : Nat} {e : SluiceEntry} (hl : (s.core core).sluice = [(t, e)]) (hm : (s.core core).matrixQ = []) (hg : e.group = gid)
  (hp : e.pend ≠ 0#32)

include hl hm hg hp

/-- The reply of the only access is owed to its split alone. -/
theorem State.owed_of_single (tag : Nat) : s.owed core gid tag = if e.split = tag then [t] else [] := by
  by_cases h : e.split = tag <;> simp [State.owed, hl, hm, hg, hp, h]

/-- The destination of the only access is pending, for its split alone. -/
theorem State.pending_of_single (who : Nat → Bool) : s.pending core gid who = if who e.split then e.access.dest.regs else ([], []) := by
  by_cases h : who e.split <;> simp [State.pending, hl, hm, hg, hp, h]

end Core

/-- Parking the issuing split on one tag changes that split alone (R205, R216). -/
theorem State.park_one {s : State} {cx : Cx} (hs : s.issuer = some cx) (tag : Nat) :
    s.park cx.gid cx.sp.tag [tag] = { s with groups := s.groups.put cx.gid (cx.grp.modTag cx.sp.tag fun sp =>
      { sp with state := .parked, windows := sp.windows.filter fun x => x.tag != tag, parkOn := [tag] }) } := by
  have hone : (fun w : Window => !([tag].contains w.tag)) = fun w => w.tag != tag := by
    funext w
    simp [bne, Bool.beq_eq_decide_eq]
  unfold State.park
  rw [hone]
  exact congrArg (fun m => { s with groups := m }) (Map.upd_eq_put (State.issuer_spec hs).1 _)

/-! ### The statement -/

/-- GADD while one access to one of its registers is out: the three cases of R216 and R218. -/
theorem gadd_pending {w : BitVec 3} {d a b : BitVec 6} {s : State} {cx : Cx} {tag : Nat} {e : SluiceEntry} (hs : s.issuer = some cx)
    (hl : (s.core cx.core).sluice = [(tag, e)]) (hm : (s.core cx.core).matrixQ = []) (hg : e.group = cx.gid) (hp : e.pend ≠ 0)
    (hd : e.access.dest = .grp a.toNat ∨ e.access.dest = .grp b.toNat ∨ e.access.dest = .grp d.toNat) :
    (e.split ≠ cx.sp.tag → exec (.gadd w d a b) s = .next s)
    ∧ (e.split = cx.sp.tag → (∃ x ∈ cx.sp.windows, x.tag = tag ∧ x.left ≠ 0) →
        Raises (.gadd w d a b) s cx .lookahead cx.sp.mask 0 0 cx.sp.pc 0)
    ∧ (e.split = cx.sp.tag → (∀ x ∈ cx.sp.windows, x.tag = tag → x.left = 0) →
        exec (.gadd w d a b) s = .next (s.park cx.gid cx.sp.tag [tag])) := by
  have hi := guarded_gadd w d a b
  have howed := State.owed_of_single hl hm hg hp cx.sp.tag
  have hpend := State.pending_of_single hl hm hg hp
  have htouch : Uses.touches { gr := [a.toNat, b.toNat], gw := [d.toNat] } e.access.dest.regs = true := by
    rcases hd with h | h | h <;> rw [h] <;> exact Uses.touches_greg (by simp)
  refine ⟨fun hother => ?stall, fun hown hopen => ?lookahead, fun hown hclosed => ?park⟩
  case stall => exact hi.stalls hs (by simp [howed, hother]) rfl (by simp [hpend, hother]) (by simp [hpend, hother, htouch])
  case lookahead =>
    exact hi.raises_lookahead hs (by simpa [howed, hown] using parkTags_open rfl rfl hopen) rfl (by simp [hpend, hown, htouch])
  case park => exact hi.parks hs (by simpa [howed, hown] using parkTags_closed _ hclosed) (by simp)

/-- Settles O11: each clause is one of the checks that `checked` makes in turn, with those before it passed. -/
theorem checksBeforeExecution : Obligations.ChecksBeforeExecution := by
  unfold Obligations.ChecksBeforeExecution
  refine ⟨⟨?illegal, ?priv, ?poison⟩, ?pending⟩
  case illegal =>
    intro s cx ha
    exact raises_of_trapAll ha.issuer (gate_admits ha _)
  case priv =>
    intro n b a u s cx hs hmode howed
    have hfree : ∀ use, parkTags (s.owed cx.core cx.gid cx.sp.tag) cx.sp.windows use = [] := by simp [howed]
    refine ⟨fun i hmem => ?_, fun hreg => ?_⟩
    · obtain ⟨use, hi, hfw⟩ := guarded_firmware n b a u i hmem
      exact hi.raises_priv hs (hfree use) hfw hmode
    · exact (guarded_sysr n b u).raises_priv hs (hfree _) (by simp [hreg]) hmode
  case poison =>
    intro g w d a b s cx hs hl hm
    have hfree : ∀ use, parkTags (s.owed cx.core cx.gid cx.sp.tag) cx.sp.windows use = [] := by simp [State.owed_of_empty hl hm]
    have hquiet : ∀ (use : Uses) who, use.touches (s.pending cx.core cx.gid who) = false := by simp [State.pending_of_empty hl hm]
    refine ⟨fun hv => ?_, fun hg => ?_⟩
    · exact (guarded_iadd g d a b).raises_softError hs (hfree _) rfl (hquiet _ _) (hquiet _ _) (iadd_poisoned g d a b hv)
    · exact (guarded_gadd w d a b).raises_softError hs (hfree _) rfl (hquiet _ _) (hquiet _ _) (by simp [Uses.poisoned, hg])
  case pending =>
    intro w d a b s cx tag e hs hl hm hg hp hd
    obtain ⟨hstall, hlook, hpark⟩ := gadd_pending (w := w) hs hl hm hg hp hd
    refine ⟨hstall, hlook, fun hown hclosed => ⟨_, ?_, rfl⟩⟩
    rw [hpark hown hclosed, State.park_one hs]

end Sys2Proof.Machine
end

section
/-! SUPPORT. TRAP, NOP and NOREUSE, and the move of a mask into a rejoin register (R101, R165, R166, R231). -/

namespace Sys2Proof.Machine

/-! ### Changing one split twice -/

/-- Changing the value under a key twice is changing it once by both changes. -/
theorem Map.upd_upd {α : Type} (m : Map α) (k : Nat) (f h : α → α) : (m.upd k f).upd k h = m.upd k (h ∘ f) := by
  cases hl : m.look k with
  | none => simp [Map.upd, hl]
  | some a => simp [Map.upd, hl, Map.put_put]

/-- Changing the members that a test names twice is changing them once by both changes, where the first keeps the test. -/
theorem map_if_map_if {α : Type} (p : α → Prop) [DecidablePred p] {f : α → α} (hf : ∀ x, p x → p (f x)) (h : α → α) (l : List α) :
    (l.map fun x => if p x then f x else x).map (fun x => if p x then h x else x) = l.map fun x => if p x then h (f x) else x := by
  rw [List.map_map]
  refine List.map_congr_left fun x _ => ?_
  by_cases hx : p x
  · simp [hx, hf x hx]
  · simp [hx]

/-- Changing the split of a TAG twice is changing it once, where the first change keeps the TAG. -/
theorem Group.modTag_modTag (g : Group) (tag : Nat) {f : Split → Split} (hf : ∀ sp, (f sp).tag = sp.tag) (h : Split → Split) :
    (g.modTag tag f).modTag tag h = g.modTag tag (h ∘ f) := by
  have hres := map_if_map_if (fun p : Nat × Split => p.2.tag = tag) (f := fun p => (p.1, f p.2)) (fun p => (hf p.2).trans)
    (fun p => (p.1, h p.2)) g.res
  have hstack := map_if_map_if (fun sp : Split => sp.tag = tag) (fun sp => (hf sp).trans) h g.stack
  have hboth := congr (congrArg (fun res stack => { g with res := res, stack := stack }) hres) hstack
  exact hboth

/-- The same of a state. -/
theorem State.modTag_modTag (s : State) (gid tag : Nat) {f : Split → Split} (hf : ∀ sp, (f sp).tag = sp.tag) (h : Split → Split) :
    (s.modTag gid tag f).modTag gid tag h = s.modTag gid tag (h ∘ f) := by
  have hcomp : ((fun g => Group.modTag g tag h) ∘ fun g => Group.modTag g tag f) = fun g => Group.modTag g tag (h ∘ f) :=
    funext fun g => Group.modTag_modTag g tag hf h
  exact congrArg (fun m => { s with groups := m }) ((Map.upd_upd ..).trans (congrArg (s.groups.upd gid) hcomp))

/-- A further change of the split that has retired joins the retirement: the charge touches no split. -/
theorem State.retire_modTag (s : State) (cx : Cx) (n : Nat) (h : Split → Split) :
    (s.retire cx n).modTag cx.gid cx.sp.tag h = (s.modTag cx.gid cx.sp.tag (h ∘ Split.retire)).charge cx.core n :=
  congrArg (fun t : State => t.charge cx.core n) (s.modTag_modTag cx.gid cx.sp.tag (f := Split.retire) (fun _ => rfl) h)

/-! ### Instructions that change no register -/

/-- Changing splits keeps every register. -/
theorem Group.keepsAll_modTag (g : Group) (tag : Nat) (f : Split → Split) : g.KeepsAll (g.modTag tag f) :=
  ⟨fun _ _ => rfl, fun _ _ => rfl, fun _ _ => rfl, fun _ _ => rfl, rfl⟩

/-- Moving the issuing split on and charging its core, with no other effect. -/
theorem Issued.of_modTag {s : State} {cx : Cx} (hs : s.issuer = some cx) (n : Nat) (f : Split → Split) :
    Issued s ((s.modTag cx.gid cx.sp.tag f).charge cx.core n) cx (cx.grp.modTag cx.sp.tag f) n f :=
  Issued.of_touch hs (.refl ..) (State.issuer_spec hs).1 rfl rfl rfl n f

/-- NOP only retires (R165). -/
theorem nop_retires {s : State} {cx : Cx} (ha : Admits s cx {}) :
    ∃ t g, exec .nop s = .next t ∧ RegsOnly s t cx g (s.weight cx.core 29) ∧ cx.grp.KeepsAll g :=
  ⟨_, _, gate_admits ha _, Issued.of_modTag ha.issuer _ _, cx.grp.keepsAll_modTag ..⟩

/-- NOREUSE retires and then marks its own split, so that the mark outlives the retirement that clears one (R101). -/
theorem noreuse_marks {s : State} {cx : Cx} (ha : Admits s cx {}) :
    ∃ t g, exec .noreuse s = .next t ∧ Issued s t cx g (s.weight cx.core 29) (fun sp => { sp.retire with nr := true })
      ∧ cx.grp.KeepsAll g := by
  have he : exec .noreuse s = .next ((s.retireG cx 29).modTag cx.gid cx.sp.tag fun sp => { sp with nr := true }) := gate_admits ha _
  rw [State.retireG, State.retire_modTag] at he
  exact ⟨_, _, he, Issued.of_modTag ha.issuer _ _, cx.grp.keepsAll_modTag ..⟩

/-! ### M2J -/

/-- M2J writes its rejoin register alone and retires; the JOINs are looked at again in the state that this leaves (R228, R231). -/
theorem m2j_writes (j k : BitVec 3) {s : State} {cx : Cx} (ha : Admits s cx { mr := [k.toNat] }) :
    ∃ t g, exec (.m2j j k) s = .next (t.rejoin cx.asid cx.gid) ∧ RegsOnly s t cx g (s.weight cx.core 22)
      ∧ g.jreg j.toNat = cx.grp.mreg cx.sp k.toNat ∧ cx.grp.KeepsJ g [j.toNat] ∧ cx.grp.KeepsG g [] ∧ cx.grp.KeepsV g 0 0
      ∧ cx.grp.KeepsM g [] ∧ g.fflags = cx.grp.fflags := by
  refine ⟨_, _, gate_admits ha _, RegsOnly.of_modGroup ha.issuer rfl rfl rfl rfl _, ?written, fun q hq => ?others,
    fun _ _ => rfl, fun _ _ => rfl, fun _ _ => rfl, rfl⟩
  case written => exact Group.setJ_jreg_same _ j.isLt _
  case others => exact Group.setJ_jreg_ne _ (by simpa using hq) _

/-! ### The words, and the statements -/

theorem decode_nop : decodeTableWord 32 0xE8000000 = some .nop := by decide +kernel

/-- The word of TRAP with each of its 16 codes (R166). -/
theorem decode_trap : ∀ c : BitVec 4, decodeTableWord 32 (0xE8100000 + c.toNat) = some (.trap c) := by decide +kernel

/-- Settles O10: the body of TRAP raises its trap, whose pc is that of the next instruction. -/
theorem trapTaken : Obligations.TrapTaken := by
  unfold Obligations.TrapTaken
  intro c
  refine ⟨decode_trap c, fun s cx ha => ?_⟩
  exact State.raiseTrap_spec ha.issuer
    (x := { cause := .software, lanes := cx.sp.mask, code := c, aux := c.zeroExtend 64, atNext := true }) rfl (gate_admits ha _)

/-- Settles O17: NOP and NOREUSE change the split alone, M2J one rejoin register before the JOINs are looked at again. -/
theorem marksAndMaskMoves : Obligations.MarksAndMaskMoves := by
  unfold Obligations.MarksAndMaskMoves
  exact ⟨⟨decode_nop, fun _ _ ha => ⟨nop_retires ha, noreuse_marks ha⟩⟩, fun j k _ _ ha => m2j_writes j k ha⟩

end Sys2Proof.Machine
end

section
/-! SUPPORT. Branches of the whole split: BRA, BRA.ANY, BRA.NONE, CALL, RET and BRX (R214, R226, R229). -/

namespace Sys2Proof.Machine

/-! ### The swap that a backward branch may bring -/

/-- A jump counts in the windows and closes none. -/
theorem Split.jump_windows_eq_nil (sp : Split) (tgt : DWord) : (sp.jump tgt).windows = [] ↔ sp.windows = [] := by
  simp [Split.jump, Split.tick]

theorem Group.modTag_stack_eq_nil (g : Group) (tag : Nat) (f : Split → Split) : (g.modTag tag f).stack = [] ↔ g.stack = [] := by
  simp [Group.modTag]

/-- After a jump the split is swapped out as its count, windows and stack before the jump say: a backward jump counts itself (R214). -/
theorem Issued.branchSwap_eq {s t : State} {cx : Cx} {g : Group} {n : Nat} {tgt : DWord}
    (h : Issued s t cx g n fun sp => sp.jump tgt) : t.branchSwap cx tgt = cx.branched tgt t := by
  have hstack : g.stack = [] ↔ cx.grp.stack = [] := by rw [h.stack, Group.modTag_stack_eq_nil]
  have hcount : tgt ≤ cx.sp.pc → (256 ≤ (cx.sp.jump tgt).bbc ↔ 255 ≤ cx.sp.bbc) := fun hback => by
    simp [Split.jump, hback]
  have hswap : (tgt ≤ cx.sp.pc ∧ 256 ≤ (cx.sp.jump tgt).bbc ∧ (cx.sp.jump tgt).windows = [] ∧ g.stack ≠ [])
      ↔ cx.branchSwaps tgt = true := by
    rw [Cx.branchSwaps, decide_eq_true_iff, Split.jump_windows_eq_nil, Ne, hstack]
    exact and_congr_right fun hback => and_congr_left' (hcount hback)
  simp only [State.branchSwap, h.group, h.next, hswap, Cx.branched]

/-! ### A taken branch -/

/-- An instruction that, after writing g registers alone, moves its split to a target, branches. -/
theorem branches_of_branchTo {i : Instr} {s t : State} {cx : Cx} {code : Nat} {tgt : DWord} {after : Group → Prop} {gs : Vector DWord 64}
    {p : BitVec 64} (hs : s.issuer = some cx) (ht : GroupTouch s t cx.gid cx.quad)
    (hg : t.groups.look cx.gid = some { cx.grp with g := gs, gPoison := p }) (he : exec i s = .next (t.branchTo cx code tgt))
    (hafter : after ({ cx.grp with g := gs, gPoison := p }.modTag cx.sp.tag fun sp => sp.jump tgt)) : Branches i s cx code tgt after := by
  have hw : t.weight cx.core code = s.weight cx.core code := (congrArg (State.weight · cx.core code) ht.rest).trans rfl
  have hissued := Issued.of_touch hs ht hg rfl rfl rfl (s.weight cx.core code) fun sp => sp.jump tgt
  refine ⟨_, _, ?_, hissued, hafter, fun _ _ => rfl, fun _ _ => rfl, fun _ _ => rfl, rfl⟩
  rw [he, State.branchTo, hw, hissued.branchSwap_eq]

/-- An instruction that does nothing but move its split to a target branches and keeps the g registers. -/
theorem branches_of_jump {i : Instr} {s : State} {cx : Cx} {code : Nat} {tgt : DWord} (hs : s.issuer = some cx)
    (he : exec i s = .next (s.branchTo cx code tgt)) : Branches i s cx code tgt fun g => cx.grp.KeepsG g [] :=
  branches_of_branchTo hs (.refl ..) (State.issuer_spec hs).1 he fun _ _ => rfl

/-! ### Branches on a condition (R226) -/

/-- Two words have a bit in common exactly where their meet is not zero. -/
theorem mask_and_ne_zero_iff (x y : Word) : x &&& y ≠ 0 ↔ ∃ l < 32, x.getLsbD l = true ∧ y.getLsbD l = true := by
  simp [BitVec.eq_of_getLsbD_eq_iff]

section Conditional

variable {i : Instr} {s : State} {cx : Cx} {mr : List Nat} {o : BitVec 18} {taken : Cx → Bool}
  (ha : Admits s cx { mr := mr }) (hi : exec i s = branchIf mr o taken s)

include ha hi

theorem branchIf_taken (h : taken cx = true) :
    Branches i s cx 21 (cx.sp.pc + 4 * o.signExtend 64) fun g => cx.grp.KeepsG g [] :=
  branches_of_jump ha.issuer (by rw [hi, branchIf, gate_admits ha, if_pos h, branchTarget])

theorem branchIf_untaken (h : taken cx = false) :
    ∃ t g, exec i s = .next t ∧ RegsOnly s t cx g (s.weight cx.core 21) ∧ cx.grp.KeepsAll g :=
  ⟨_, _, by rw [hi, branchIf, gate_admits ha, h]; rfl, Issued.of_modTag ha.issuer _ _, cx.grp.keepsAll_modTag ..⟩

end Conditional

/-! ### CALL, RET and BRX -/

/-- CALL writes the return address in g60 and branches (R226). -/
theorem call_branches (o : BitVec 18) {s : State} {cx : Cx} (ha : Admits s cx { gw := [60] }) :
    Branches (.call o) s cx 21 (cx.sp.pc + 4 * o.signExtend 64) fun g => g.greg 60 = cx.sp.pc + 4 ∧ cx.grp.KeepsG g [60] :=
  branches_of_branchTo ha.issuer (.modGroup ..) (State.modGroup_look (State.issuer_spec ha.issuer).1 _) (gate_admits ha _)
    ⟨Group.setG_greg_same _ (by decide) _, fun _ hq => Group.setG_greg_ne _ (by simpa using hq) _⟩

/-- An indirect branch goes to an aligned address and traps on any other (R229). -/
theorem branchReg_spec {i : Instr} {a : BitVec 6} {s : State} {cx : Cx} (ha : Admits s cx { gr := [a.toNat] })
    (hi : exec i s = branchReg a s) :
    if (cx.grp.greg a.toNat).toNat % 4 = 0 then Branches i s cx 22 (cx.grp.greg a.toNat) fun g => cx.grp.KeepsG g []
    else Raises i s cx .misalign cx.sp.mask (cx.grp.greg a.toNat) 0 cx.sp.pc 0 := by
  rw [branchReg, gate_admits ha] at hi
  split
  · next h => exact branches_of_jump ha.issuer (hi.trans (if_neg fun hmis => hmis h))
  · next h =>
    exact State.raiseTrap_spec ha.issuer (x := { cause := .misalign, lanes := cx.sp.mask, addr := cx.grp.greg a.toNat }) rfl
      (hi.trans (if_pos h))

/-! ### The words, and the statement -/

theorem decode_ret : decodeTableWord 32 0xB3000F00 = some (.ret 60) := by decide +kernel

theorem decode_brx : decodeTableWord 32 0xB32001C0 = some (.brx 7) := by decide +kernel

/-- Settles O9: each of the six instructions moves its split by one jump, so the counting and the swap are said once for all of them. -/
theorem branchResults : Obligations.BranchResults := by
  unfold Obligations.BranchResults
  refine ⟨?bra, ?conditional, ?call, ?indirect, decode_ret, decode_brx⟩
  case bra => exact fun o s cx ha => branchIf_taken ha (o := o) (taken := fun _ => true) rfl rfl
  case conditional =>
    intro k o s cx ha
    have hany := mask_and_ne_zero_iff cx.sp.mask (cx.grp.mreg cx.sp k.toNat)
    split
    · next h =>
      exact ⟨branchIf_taken ha rfl (by simpa using hany.2 h), branchIf_untaken ha rfl (by simpa using hany.2 h)⟩
    · next h =>
      exact ⟨branchIf_taken ha rfl (by simpa using mt hany.1 h), branchIf_untaken ha rfl (by simpa using mt hany.1 h)⟩
  case call => exact fun o s cx ha => call_branches o ha
  case indirect =>
    intro a s cx ha i hmem
    have hi : exec i s = branchReg a s := by
      simp only [List.mem_cons, List.not_mem_nil, or_false] at hmem
      rcases hmem with rfl | rfl <;> rfl
    exact branchReg_spec ha hi

end Sys2Proof.Machine
end
